-- ==== Sys2Proof/Word.lean ====
section
/-! DEFINITION. The words of the part (R4, R8, R240): bytes, 32-bit lanes, 64-bit words, and sparse maps.
Numbers that the part only counts (ticks, offsets, sizes) are natural numbers elsewhere. -/
namespace Sys2Proof

/-- A byte of any memory. -/
abbrev Byte := BitVec 8
/-- A 32-bit lane or matrix-register entry (R116, R118). -/
abbrev Lane := BitVec 32
/-- A 64-bit word: scalar registers, instruction words, special registers (R108, R240). -/
abbrev Word := BitVec 64
/-- A scalar register number, `s0` to `s31` (R243). -/
abbrev Reg := BitVec 5
/-- A sparse map from a number to a value, sorted by key; a key that is not listed reads as a stated default. -/
abbrev Map (α : Type) := List (Nat × α)

end Sys2Proof
end

