-- ==== Sys2Proof/Machine/Maps.lean ====
section
/-! DEFINITION. Sparse maps in one canonical form: keys strictly rising, and where a default stands for an unlisted key, no entry
equal to it. Every memory of the part is one of these. -/
namespace Sys2Proof.Machine

/-- The value at a key. -/
def find {α : Type} : List (Nat × α) → Nat → Option α
  | [], _ => none
  | (k', v) :: r, k => if k = k' then some v else find r k

/-- The map with a value at a key. -/
def insert {α : Type} : List (Nat × α) → Nat → α → List (Nat × α)
  | [], k, v => [(k, v)]
  | (k', v') :: r, k, v =>
    if k < k' then (k, v) :: (k', v') :: r else if k = k' then (k, v) :: r else (k', v') :: insert r k v

/-- The map without a key. -/
def remove {α : Type} (m : List (Nat × α)) (k : Nat) : List (Nat × α) := m.filter fun e => e.1 != k

/-- The keys rise strictly. -/
abbrev Rising {α : Type} (m : List (Nat × α)) : Prop := (m.map Prod.fst).Pairwise (· < ·)

/-- The canonical form of global memory, whose unlisted cells have no value: the listed keys rise strictly. DESIGN CHOICE: log 6. -/
abbrev Memory.wf (m : List (Nat × Byte)) : Prop := Rising m

/-- Read a store whose unlisted cells hold zero. -/
def readZ {n : Nat} (m : List (Nat × BitVec n)) (k : Nat) : BitVec n := (find m k).getD 0

/-- Write a store whose unlisted cells hold zero: writing zero removes the entry. -/
def writeZ {n : Nat} (m : List (Nat × BitVec n)) (k : Nat) (v : BitVec n) : List (Nat × BitVec n) :=
  if v = 0 then remove m k else insert m k v

/-- The canonical form of a store whose unlisted cells hold zero. -/
abbrev CanonZ {n : Nat} (m : List (Nat × BitVec n)) : Prop := Rising m ∧ ∀ e ∈ m, e.2 ≠ 0

/-- Write many cells, in order. -/
def writeAllZ {n : Nat} (m : List (Nat × BitVec n)) (cells : List (Nat × BitVec n)) : List (Nat × BitVec n) :=
  cells.foldl (fun m c => writeZ m c.1 c.2) m

/-- Bytes a, a+1, … of a store. -/
def bytesZ (m : List (Nat × Byte)) (a n : Nat) : List Byte := (List.range n).map fun i => readZ m (a + i)

/-- Bytes placed at consecutive addresses. -/
def cellsAt {α : Type} (a : Nat) (bs : List α) : List (Nat × α) := bs.mapIdx fun i b => (a + i, b)

/-- Replace element i of a list by f of it. -/
def alter {α : Type} (l : List α) (i : Nat) (f : α → α) : List α := l.modify i f

end Sys2Proof.Machine
end

