-- ==== Sys2Proof/Syntax.lean ====
section
/-! DEFINITION. Syntax of the whole machine: one constructor of Instr for every row of the opcode table.
Instruction words of units C, K, L, S, M, V and Y carry their decoded fields (R240 to R253).
The remaining rows are the events and commands of the part, and carry what the outside supplies with them. -/
namespace Sys2Proof

/-- The engine header of L, S, M, V and Y words (R245). -/
structure Hdr where
  wait : BitVec 6
  giveUp : Bool
  giveDown : Bool
  takeUp : Bool
  takeDown : Bool
  oc : BitVec 4
deriving DecidableEq, Repr

/-- A V-R word: registers or predicates d, a, b, governing predicate g, negation n, type t, modifier m (R246). -/
structure VR where
  h : Hdr
  d : BitVec 8
  a : BitVec 8
  b : BitVec 8
  g : BitVec 4
  n : Bool
  t : BitVec 4
  m : BitVec 5
deriving DecidableEq, Repr

/-- A V-I word, with a 16-bit immediate in place of a and b (R246). -/
structure VI where
  h : Hdr
  d : BitVec 8
  imm : BitVec 16
  g : BitVec 4
  n : Bool
  t : BitVec 4
  m : BitVec 5
deriving DecidableEq, Repr

/-- A V-M word: register r, index, stride or predicate x, width w, tile-memory address (R246). -/
structure VM where
  h : Hdr
  r : BitVec 8
  x : BitVec 8
  w : BitVec 2
  addr : BitVec 20
deriving DecidableEq, Repr

/-- An M word: bank, direction, index, tile address, modifier (R247, R315). -/
structure MW where
  h : Hdr
  bank : BitVec 3
  dir : BitVec 2
  idx : BitVec 6
  addr : BitVec 20
  m : BitVec 7
deriving DecidableEq, Repr

/-- An L or S word: shape index, two offset registers, tile field (R248). -/
structure LW where
  h : Hdr
  shape : BitVec 16
  r0 : Reg
  r1 : Reg
  tile : BitVec 12
deriving DecidableEq, Repr

/-- A Y word: WAIT, queue mask (L 8, M 4, V 2, S 1) and the instruction's own bits (R249, R348). -/
structure YW where
  wait : BitVec 6
  mask : BitVec 4
  arg : BitVec 34
deriving DecidableEq, Repr

/-- A rope, named by its world and its local rope number (R35, R79). -/
structure RopeKey where
  world : Nat
  num : Nat
deriving DecidableEq, Repr

/-- A consumed command: its interface, its ring position, its 64-byte slot and the `gtc` of its consumption (R41, R44). -/
structure Cmd where
  iface : Nat
  pos : Nat
  slot : BitVec 512
  consumed : Word
deriving DecidableEq, Repr

/-- A memory range of a CXL device as enumeration found it (R15, R16, R33, R154): where firmware maps it, its size, whether it is
persistent, its port and the switch port behind it, whether training and IDE succeeded, the CXL type of the device, and whether it reports persistence
on write completion. -/
structure HdmRange where
  base : Nat
  size : Nat
  persistent : Bool
  port : Nat
  device : Nat
  trained : Bool
  cxlType : Nat
  reports : Bool
deriving DecidableEq, Repr

/-- A firmware image with its keys and signatures (R71, R72). -/
structure Firmware where
  header : List Byte
  body : List Byte
  rsaKey : List Byte
  slhKey : List Byte
  rsaSig : List Byte
  slhSig : List Byte
deriving DecidableEq, Repr, Inhabited

/-- What the measurement of one crossing found (R26). -/
structure CrossingFound where
  index : Nat
  measured : Nat
  unstable : Bool
deriving DecidableEq, Repr

/-- What a full reset finds outside the machine's own state (R26, R32, R33, R72, R75, R151, R157):
`recovered` gives, per persist unit, how many of its writes that no completed barrier covers the device kept. -/
structure ResetInputs where
  fw : Firmware
  failedCores : List Nat
  failedStacks : List Nat
  hdm : List HdmRange
  closedPorts : List Nat
  crossings : List CrossingFound
  recovered : List (Nat × Nat)
  allocSeed : BitVec 16
  formats : BitVec 13
deriving DecidableEq, Repr

/-- A remote operation on a window (offset) or on global memory (address), from an endpoint under an association (R34, R36). -/
structure RemoteOp where
  iface : Nat
  endpoint : Word
  sa : BitVec 16
  write : Bool
  window : Bool
  addr : Nat
  len : Nat
  data : List Byte
deriving DecidableEq, Repr

/-- An aligned 8-byte remote write of a doorbell word (R37, R40). -/
structure Doorbell where
  iface : Nat
  endpoint : Word
  sa : BitVec 16
  value : Word
deriving DecidableEq, Repr

/-- An error that a store's check reports: core (65,535 for a memory controller), store code, address, corrected or not (R228, R230);
whether an access of the control core met it; and the numbers of the accesses under way that met it, which perform nowhere (R229). -/
structure ErrorReport where
  core : Nat
  store : Nat
  addr : Nat
  corrected : Bool
  control : Bool
  met : List Nat
deriving DecidableEq, Repr

/-- The read-modify-write operations of R273, also those a remote controller applies (R134, R148). -/
inductive AmoOp where
  | add | swap | cas | and | or | xor | min | max | minn | maxn
deriving DecidableEq, Repr

/-- What a request through a peer window asks of its target (R134); a write changes the bits of each byte that the mask names. -/
inductive PeerKind where
  | read (len : Nat)
  | write (data : List Byte) (mask : Byte)
  | amo (op : AmoOp) (wide : Bool) (opB opD : Word)
deriving DecidableEq, Repr

/-- A peer-window request that another package sent (R134). -/
structure PeerRequest where
  id : Nat
  sender : Nat
  sa : BitVec 16
  entry : Nat
  offset : Nat
  kind : PeerKind
deriving DecidableEq, Repr

/-- The source of signals between packages: package, interface and rope (R152). -/
structure SignalSource where
  pkg : Nat
  iface : Nat
  rope : Nat
deriving DecidableEq, Repr

/-- A signal that another package sent, with its sequence (allocation number and count), the releasing writes it follows,
and whether it has spent more than 1 s in the fabric (R150 to R153). -/
structure Signal where
  id : Nat
  src : SignalSource
  alloc : BitVec 16
  count : Nat
  sa : BitVec 16
  entry : Nat
  offset : Nat
  value : Word
  after : List Nat
  expired : Bool
deriving DecidableEq, Repr

/-- Every row of the opcode table: events and commands of the part first, then the instructions of units C, K, L, S, M, Y and V.
The rows that carry no data stand last (Lean compiles at most 244 constructors with fields); those that are events of one core or
one rope act on the core or the rope that the machine is at (`State.cur`). -/
inductive Instr where
  /-- POWER_ON (R31). Power is applied, or PWR_EN goes high, and the part runs the full reset sequence of R32. -/
  | evPowerOn (r : ResetInputs)
  /-- RESET_N (R31). RESET_N held low for at least 10 µs forces a full reset and restarts the reset sequence. -/
  | evResetN (r : ResetInputs)
  /-- CLOCK_STEP_DOWN (R20). The one-second power average would exceed 3.2 kW, or a junction exceeds 95 °C, and the step group's elastic ridges step down in frequency. -/
  | evClockStepDown (die : Nat)
  /-- CLOCK_STEP_UP (R20). After every die of a step group has been clear for 1 s, the group's elastic ridges step back up. -/
  | evClockStepUp (die : Nat)
  /-- CLOCK_STRETCH (R22). A ridge's monitor reports droop or heat and a clock period is stretched, raising one hold tick in every rope on the ridge. -/
  | evClockStretch (ridge : Nat)
  /-- REMOTE_OPERATION (R36). A remote read or write arrives on an interface window or on the world's global address space, is checked against the binding and translation, and is performed or dropped. -/
  | evRemoteOperation (o : RemoteOp)
  /-- CWP_WRITE (R40). The host writes cwp with an aligned 8-byte write to ring the doorbell, which starts consumption or the examination of a lapped ring. -/
  | evCwpWrite (d : Doorbell)
  /-- SRP_WRITE (R37). The host writes srp to free response slots; a value above swp or below the current srp is ignored and counted as dropped. -/
  | evSrpWrite (d : Doorbell)
  /-- DOORBELL_OTHER_WRITE (R37). Any other write to the doorbell page is dropped and counted as a dropped remote operation. -/
  | evDoorbellOtherWrite (d : Doorbell)
  /-- SLOT_RECHECK (R41). Every 10 µs, a waiting ring reads the slot at crp again. -/
  | evSlotRecheck (iface : Nat)
  /-- RESPONSE_WRITE (R47). A completed command's response is written at swp once the response ring has room, and swp is incremented. -/
  | evResponseWrite (iface : Nat)
  /-- OPEN (R49). OPEN checks the event-table address and moves the interface to RUNNING. -/
  | cmdOpen (c : Cmd)
  /-- CLOSE (R49). CLOSE cancels incomplete commands, discards launches, frees ropes, images and events, runs the kill fence and reinitialises the ring. -/
  | cmdClose (c : Cmd)
  /-- ROPE_ALLOC (R80). ROPE.ALLOC places a rope at the first fitting origin and, for a strict rope, reserves wheel slots, classes and power. -/
  | cmdRopeAlloc (c : Cmd)
  /-- ROPE_FREE (R152). ROPE.FREE frees an idle rope once every signal to another package is acknowledged and quiet. -/
  | cmdRopeFree (c : Cmd)
  /-- LOAD (R52). LOAD checks the image's pages and fields, copies and measures it, and returns a handle. -/
  | cmdLoad (c : Cmd)
  /-- LAUNCH (R53). LAUNCH checks the image against the rope and queues the launch behind earlier launches of the rope. -/
  | cmdLaunch (c : Cmd)
  /-- EVICT (R104). EVICT pre-empts the running launch at a yield point, or by full scan after the grace period, and writes the image. -/
  | cmdEvict (c : Cmd)
  /-- RESUME (R105). RESUME restores a yield or scan image onto the rope and thaws it. -/
  | cmdResume (c : Cmd)
  /-- EVENT_WAIT (R49). EVENT.WAIT completes OK as soon as its wait entries are satisfied. -/
  | cmdEventWait (c : Cmd)
  /-- EVENT_SET (R58). EVENT.SET sets or adds a value at an event word as an atomic. -/
  | cmdEventSet (c : Cmd)
  /-- QUERY (R56). QUERY returns an interface summary, a rope record, a crossing entry or an event word. -/
  | cmdQuery (c : Cmd)
  /-- RESYNC (R57). RESYNC writes the interface summary and its rope records to a buffer. -/
  | cmdResync (c : Cmd)
  /-- ATTEST (R76). ATTEST writes a signed report of the world's measurement entries with the given nonce. -/
  | cmdAttest (c : Cmd)
  /-- MANIFEST_CMP (R78). MANIFEST.CMP compares a stored Zarox manifest with the live entries and returns the first differing index. -/
  | cmdManifestCmp (c : Cmd)
  /-- BIND (R54). BIND binds or unbinds an interface to a remote endpoint and security association. -/
  | cmdBind (c : Cmd)
  /-- WEIGHT (R85). WEIGHT sets an interface's dispatch weight in a class. -/
  | cmdWeight (c : Cmd)
  /-- REVOKE (R54). REVOKE closes a world's interface, runs the kill fence and increments the generation. -/
  | cmdRevoke (c : Cmd)
  /-- ASID_MAP (R54). ASID.MAP binds or unbinds a local ASID to an on-chip ASID and page table. -/
  | cmdAsidMap (c : Cmd)
  /-- INVALIDATE (R133). INVALIDATE invalidates translations by world or on-chip ASID and completes when no request still uses an old translation. -/
  | cmdInvalidate (c : Cmd)
  /-- ROLLBACK (R73). ROLLBACK raises the rollback counter to the running firmware's security version. -/
  | cmdRollback (c : Cmd)
  /-- DURABLE_ID (R155). DURABLE.ID assigns or retires a world's durable identity. -/
  | cmdDurableId (c : Cmd)
  /-- POISON_CLEAR (R135). POISON.CLEAR clears a granule's poison bit, updates cached copies and invalidates. -/
  | cmdPoisonClear (c : Cmd)
  /-- MODE (R102). MODE sets the completion mode for launches whose AND tree fires afterwards. -/
  | cmdMode (c : Cmd)
  /-- PEER_SET (R134). PEER.SET writes a peer-table entry and completes once no request through its old content is in flight. -/
  | cmdPeerSet (c : Cmd)
  /-- EVENT_WAIT_TIMEOUT (R49). An EVENT.WAIT not started when its timeout has passed completes with TIMEOUT. -/
  | evEventWaitTimeout (c : Cmd)
  /-- KILL_FENCE (R69). The kill fence completes once no request tagged with the world's old generation remains in flight. -/
  | evKillFence (world : Nat)
  /-- ROW_LOAD (R86). When a row's lease bit is free, the loader clears the row where needed and loads it with the next launch in the rope's queue. -/
  | evRowLoad (rope : RopeKey) (row : Nat)
  /-- BARRIER_COMPLETION (R100). Every member of a y.bar has arrived and the named queues resume at their new base. -/
  | evBarrierCompletion (rope : RopeKey) (level : Nat)
  /-- ROUTING (R109). The control core checks an L, M, V, S or Y word, reads its shape record and registers, takes a format word and appends it to its queues. -/
  | evRouting (w : Word)
  /-- LATE_DATA_ARRIVAL (R90). Late data arrives in an elastic rope or untimed phase, and the hold it raised ends. -/
  | evLateDataArrival (core id : Nat)
  /-- PHASE_REPLAY (R232). An uncorrectable error in a replayable phase cancels it, restores the restart state, refetches and runs the phase again from its base. -/
  | evPhaseReplay (e : ErrorReport)
  /-- DURABLE_WRITE_ACCEPT (R158). The device's completion for a durable write reaches the host bridge and the write is accepted. -/
  | evDurableWriteAccept (id : Nat)
  /-- PERSIST_LINK_TIMEOUT (R161). A waited-for durable write's link stays down for 100 ms, which is fault 0x31. -/
  | evPersistLinkTimeout (port : Nat)
  /-- PEER_REQUEST_RECEIVE (R134). A peer-window request from another package is checked against the peer table and applied in the named world or refused. -/
  | evPeerRequestReceive (q : PeerRequest)
  /-- SIGNAL_RECEIVE (R152). A signal from another package is applied, held or dropped according to its source's signal record. -/
  | evSignalReceive (g : Signal)
  /-- SIGNAL_WAIT_TIMEOUT (R152). A signal that waits for count 1 of its allocation is dropped after 2 s. -/
  | evSignalWaitTimeout (src : SignalSource)
  /-- RELEASE_NOTICE_RECEIVE (R152). A release notice from a freed rope makes the receiver discard that rope's signal record. -/
  | evReleaseNoticeReceive (src : SignalSource)
  /-- PATH_FAILURE_RESEND (R153). An unacknowledged write or signal whose path fails is sent again on another path with its original sequence. -/
  | evPathFailureResend (id : Nat)
  /-- c.add (R266). Adds two registers. -/
  | cAdd (d a b : Reg)
  /-- c.sub (R266). Subtracts two registers. -/
  | cSub (d a b : Reg)
  /-- c.and (R266). Bitwise and. -/
  | cAnd (d a b : Reg)
  /-- c.or (R266). Bitwise or. -/
  | cOr (d a b : Reg)
  /-- c.xor (R266). Bitwise exclusive or. -/
  | cXor (d a b : Reg)
  /-- c.andn (R266). A and not B. -/
  | cAndn (d a b : Reg)
  /-- c.shl (R266). Logical shift left. -/
  | cShl (d a b : Reg)
  /-- c.shr (R266). Logical shift right. -/
  | cShr (d a b : Reg)
  /-- c.sar (R266). Arithmetic shift right. -/
  | cSar (d a b : Reg)
  /-- c.fshl (R266). Funnel shift left. -/
  | cFshl (d a b x : Reg)
  /-- c.fshr (R266). Funnel shift right. -/
  | cFshr (d a b x : Reg)
  /-- c.mul (R266). Low 64 bits of the product. -/
  | cMul (d a b : Reg)
  /-- c.mulh (R266). High 64 bits of the signed product. -/
  | cMulh (d a b : Reg)
  /-- c.mulhn (R266). High 64 bits of the unsigned product. -/
  | cMulhn (d a b : Reg)
  /-- c.divn (R266). Unsigned division. -/
  | cDivn (d a b : Reg)
  /-- c.remn (R266). Unsigned remainder. -/
  | cRemn (d a b : Reg)
  /-- c.min (R266). Signed minimum. -/
  | cMin (d a b : Reg)
  /-- c.max (R266). Signed maximum. -/
  | cMax (d a b : Reg)
  /-- c.minn (R266). Unsigned minimum. -/
  | cMinn (d a b : Reg)
  /-- c.maxn (R266). Unsigned maximum. -/
  | cMaxn (d a b : Reg)
  /-- c.seq (R266). Sets 1 if equal. -/
  | cSeq (d a b : Reg)
  /-- c.sne (R266). Sets 1 if not equal. -/
  | cSne (d a b : Reg)
  /-- c.slt (R266). Sets 1 if less, signed. -/
  | cSlt (d a b : Reg)
  /-- c.sle (R266). Sets 1 if less or equal, signed. -/
  | cSle (d a b : Reg)
  /-- c.sltn (R266). Sets 1 if less, unsigned. -/
  | cSltn (d a b : Reg)
  /-- c.slen (R266). Sets 1 if less or equal, unsigned. -/
  | cSlen (d a b : Reg)
  /-- c.sel (R266). Selects A if X is nonzero, else B. -/
  | cSel (d a b x : Reg)
  /-- c.clz (R266). Counts leading zero bits. -/
  | cClz (d a : Reg)
  /-- c.ctz (R266). Counts trailing zero bits. -/
  | cCtz (d a : Reg)
  /-- c.popc (R266). Counts one bits. -/
  | cPopc (d a : Reg)
  /-- c.bext (R267). Extracts a bit field, zero- or sign-extended. -/
  | cBext (d a : Reg) (pos len1 : BitVec 6) (sx : Bool)
  /-- c.bins (R267). Inserts a bit field into D. -/
  | cBins (d a : Reg) (pos len1 : BitVec 6)
  /-- c.addi (R268). Adds a sign-extended immediate. -/
  | cAddi (d a : Reg) (imm : BitVec 32)
  /-- c.andi (R268). And with an immediate. -/
  | cAndi (d a : Reg) (imm : BitVec 32)
  /-- c.ori (R268). Or with an immediate. -/
  | cOri (d a : Reg) (imm : BitVec 32)
  /-- c.xori (R268). Exclusive or with an immediate. -/
  | cXori (d a : Reg) (imm : BitVec 32)
  /-- c.shli (R268). Shift left by an immediate. -/
  | cShli (d a : Reg) (sh : BitVec 6)
  /-- c.shri (R268). Logical shift right by an immediate. -/
  | cShri (d a : Reg) (sh : BitVec 6)
  /-- c.sari (R268). Arithmetic shift right by an immediate. -/
  | cSari (d a : Reg) (sh : BitVec 6)
  /-- c.muli (R268). Multiplies by an immediate. -/
  | cMuli (d a : Reg) (imm : BitVec 32)
  /-- c.li (R268). Loads a sign-extended immediate. -/
  | cLi (d : Reg) (imm : BitVec 32)
  /-- c.lih (R268). Loads the high half of a register. -/
  | cLih (d : Reg) (imm : BitVec 32)
  /-- c.seqi (R268). Sets 1 if equal to an immediate. -/
  | cSeqi (d a : Reg) (imm : BitVec 32)
  /-- c.slti (R268). Sets 1 if less than an immediate, signed. -/
  | cSlti (d a : Reg) (imm : BitVec 32)
  /-- c.sltni (R268). Sets 1 if less than an immediate, unsigned. -/
  | cSltni (d a : Reg) (imm : BitVec 32)
  /-- c.mini (R268). Signed minimum with an immediate. -/
  | cMini (d a : Reg) (imm : BitVec 32)
  /-- c.maxi (R268). Signed maximum with an immediate. -/
  | cMaxi (d a : Reg) (imm : BitVec 32)
  /-- c.spl.ld (R269). Loads 8 bytes from spill memory. -/
  | cSplLd (d : Reg) (off : BitVec 32)
  /-- c.spl.st (R269). Stores 8 bytes to spill memory. -/
  | cSplSt (a : Reg) (off : BitVec 32)
  /-- c.ld.i8 (R270). Loads 1 byte through a generic pointer, sign-extended. -/
  | cLdI8 (d a : Reg) (cls : BitVec 4) (imm : BitVec 32)
  /-- c.ld.n8 (R270). Loads 1 byte, zero-extended. -/
  | cLdN8 (d a : Reg) (cls : BitVec 4) (imm : BitVec 32)
  /-- c.ld.i16 (R270). Loads 2 bytes, sign-extended. -/
  | cLdI16 (d a : Reg) (cls : BitVec 4) (imm : BitVec 32)
  /-- c.ld.n16 (R270). Loads 2 bytes, zero-extended. -/
  | cLdN16 (d a : Reg) (cls : BitVec 4) (imm : BitVec 32)
  /-- c.ld.i32 (R270). Loads 4 bytes, sign-extended. -/
  | cLdI32 (d a : Reg) (cls : BitVec 4) (imm : BitVec 32)
  /-- c.ld.n32 (R270). Loads 4 bytes, zero-extended. -/
  | cLdN32 (d a : Reg) (cls : BitVec 4) (imm : BitVec 32)
  /-- c.ld.64 (R270). Loads 8 bytes. -/
  | cLd64 (d a : Reg) (cls : BitVec 4) (imm : BitVec 32)
  /-- c.st.8 (R270). Stores 1 byte through a generic pointer. -/
  | cSt8 (b a : Reg) (cls : BitVec 4) (imm : BitVec 32)
  /-- c.st.16 (R270). Stores 2 bytes. -/
  | cSt16 (b a : Reg) (cls : BitVec 4) (imm : BitVec 32)
  /-- c.st.32 (R270). Stores 4 bytes. -/
  | cSt32 (b a : Reg) (cls : BitVec 4) (imm : BitVec 32)
  /-- c.st.64 (R270). Stores 8 bytes. -/
  | cSt64 (b a : Reg) (cls : BitVec 4) (imm : BitVec 32)
  /-- c.amo.add (R273). Atomic add. -/
  | cAmoAdd (d a b : Reg) (wide : Bool) (cls : BitVec 4)
  /-- c.amo.swap (R273). Atomic swap. -/
  | cAmoSwap (d a b : Reg) (wide : Bool) (cls : BitVec 4)
  /-- c.amo.cas (R273). Atomic compare and swap, with d as the compare value. -/
  | cAmoCas (d a b : Reg) (wide : Bool) (cls : BitVec 4)
  /-- c.amo.and (R273). Atomic and. -/
  | cAmoAnd (d a b : Reg) (wide : Bool) (cls : BitVec 4)
  /-- c.amo.or (R273). Atomic or. -/
  | cAmoOr (d a b : Reg) (wide : Bool) (cls : BitVec 4)
  /-- c.amo.xor (R273). Atomic exclusive or. -/
  | cAmoXor (d a b : Reg) (wide : Bool) (cls : BitVec 4)
  /-- c.amo.min (R273). Atomic signed minimum. -/
  | cAmoMin (d a b : Reg) (wide : Bool) (cls : BitVec 4)
  /-- c.amo.max (R273). Atomic signed maximum. -/
  | cAmoMax (d a b : Reg) (wide : Bool) (cls : BitVec 4)
  /-- c.amo.minn (R273). Atomic unsigned minimum. -/
  | cAmoMinn (d a b : Reg) (wide : Bool) (cls : BitVec 4)
  /-- c.amo.maxn (R273). Atomic unsigned maximum. -/
  | cAmoMaxn (d a b : Reg) (wide : Bool) (cls : BitVec 4)
  /-- c.fence (R146). Waits for accesses of the masked classes at the scope's targets, and for earlier barriers. -/
  | cFence (mask : BitVec 16) (scope : BitVec 3)
  /-- c.pbar (R159). Waits until the covered durable writes are accepted. -/
  | cPbar (mask : BitVec 16)
  /-- c.spt (R275). Returns a pointer's space code. -/
  | cSpt (d a : Reg)
  /-- c.spc (R275). Casts a pointer to its offset in an expected space. -/
  | cSpc (d a : Reg) (space : BitVec 2)
  /-- c.spg (R275). Makes a generic pointer to an offset in a space. -/
  | cSpg (d a : Reg) (space : BitVec 2)
  /-- c.mfs (R276). Reads a special register. -/
  | cMfs (d : Reg) (num : BitVec 8)
  /-- c.mts (R257). Writes the RW fields of a special register. -/
  | cMts (a : Reg) (num : BitVec 8)
  /-- c.fmt (R182). Pushes a format word onto the format queue. -/
  | cFmt (a : Reg)
  /-- k.pbr (R277). Loads a PC-relative branch target into a b register. -/
  | kPbr (d : BitVec 3) (off : BitVec 32)
  /-- k.pbrr (R277). Loads a branch target from a scalar register. -/
  | kPbrr (d : BitVec 3) (a : Reg)
  /-- k.br (R278). Conditional branch on a scalar. -/
  | kBr (b : BitVec 3) (a : Reg) (cond : BitVec 3)
  /-- k.jmp (R278). Jumps to a b register. -/
  | kJmp (b : BitVec 3)
  /-- k.call (R278). Calls through a b register, linking in b7. -/
  | kCall (b : BitVec 3)
  /-- k.tsb (R280). Tests a status word under a mask and branches. -/
  | kTsb (b : BitVec 3) (a : Reg) (none : Bool) (mask : BitVec 32)
  /-- k.trap (R281). Raises fault 0x04. -/
  | kTrap (imm : BitVec 32)
  /-- k.rett (R209). Returns from a trap handler, optionally squashing the entry or ending the launch faulted. -/
  | kRett (fin squash : Bool)
  /-- k.ovl (R283). Drains the named queues and copies an incoming overlay into instruction memory. -/
  | kOvl (a b : Reg)
  /-- k.wfe (R282). Waits while a memory word equals a value. -/
  | kWfe (d a b : Reg) (narrow : Bool) (cls : BitVec 4) (timeout : BitVec 24)
  /-- k.scan.out (R216). Shifts the named frozen cores' segments out to an image. -/
  | kScanOut (d a b : Reg) (mask : BitVec 10)
  /-- k.scan.in (R217). Restores the named frozen cores from an image. -/
  | kScanIn (d a b : Reg) (mask : BitVec 10)
  /-- k.frz (R213). Requests a freeze of a rope at tick max(F, U + hdly). -/
  | kFrz (d a b : Reg)
  /-- k.thaw (R215). Restarts a frozen rope whose cores are whole. -/
  | kThaw (a : Reg)
  /-- k.own (R211). Firmware writes scom of a target core. -/
  | kOwn (a b : Reg)
  /-- l.get (R339). Loads a box of a tensor into tile memory. -/
  | lGet (o : LW)
  /-- l.getw (R340). Fetches one coded tile into the batt. -/
  | lGetw (o : LW)
  /-- l.getb (R339). Loads flat bytes in 256-byte units. -/
  | lGetb (o : LW)
  /-- l.gath (R341). Gathers rows chosen by an index list. -/
  | lGath (o : LW)
  /-- l.cget (R342). Copies cluster-store units to tile memory. -/
  | lCget (o : LW)
  /-- l.tcpy (R342). Copies tile-memory units. -/
  | lTcpy (o : LW)
  /-- l.pref (R339). Walks and fills the TLBs for a box's pages. -/
  | lPref (o : LW)
  /-- l.cbld (R343). Loads a codebook into a slot. -/
  | lCbld (o : LW)
  /-- l.zero (R342). Zeros tile-memory units. -/
  | lZero (o : LW)
  /-- s.put (R344). Stores a box from tile memory to global memory. -/
  | sPut (o : LW)
  /-- s.cput (R342). Copies tile-memory units to the cluster store. -/
  | sCput (o : LW)
  /-- s.scat (R341). Scatters rows chosen by an index list. -/
  | sScat (o : LW)
  /-- s.red (R345). Adds a box element by element into global memory as atomics. -/
  | sRed (o : LW)
  /-- s.sig (R346). Releases prior writes and then atomically adds to a signal word. -/
  | sSig (o : LW)
  /-- s.pbar (R160). S-engine persist barrier for durable writes of its class. -/
  | sPbar (o : LW)
  /-- m.wld (R319). Decodes a coded tile from the batt into the shadow plane. -/
  | mWld (o : MW)
  /-- m.wldr (R320). Copies a raw B tile from tile memory into the shadow plane. -/
  | mWldr (o : MW)
  /-- m.wsw (R321). Exchanges the active and shadow planes. -/
  | mWsw (o : MW)
  /-- m.mac (R322). Multiplies an A tile by the active plane and accumulates into a bank. -/
  | mMac (o : MW)
  /-- m.macz (R322). Multiplies into a bank with a fresh accumulation. -/
  | mMacz (o : MW)
  /-- m.tov (R325). Moves an MRF line to a vector register. -/
  | mTov (o : MW)
  /-- m.frv (R325). Moves a vector register to an MRF line. -/
  | mFrv (o : MW)
  /-- m.clr (R326). Clears MRF entries and optionally the sticky status. -/
  | mClr (o : MW)
  /-- m.out (R329). Converts a bank and writes it and its status word to tile memory. -/
  | mOut (o : MW)
  /-- m.kat (R330). Runs a known-answer tile and checks its CRC. -/
  | mKat (o : MW)
  /-- m.tr (R327). Transposes one bank into another. -/
  | mTr (o : MW)
  /-- m.add (R328). Adds MRF entries of two banks. -/
  | mAdd (o : MW)
  /-- y.align (R93). Starts a phase: the header check and a new base for the named queues. -/
  | yAlign (o : YW)
  /-- y.idle (R350). Leaves N idle ticks in the named queues. -/
  | yIdle (o : YW)
  /-- y.tchk (R351). Checks an entry's offset from the base. -/
  | yTchk (o : YW)
  /-- y.loop (R352). Runs a modulo-scheduled loop body in the named queues. -/
  | yLoop (o : YW)
  /-- y.bar (R356). A core's arrival at a barrier of a level. -/
  | yBar (o : YW)
  /-- y.halt (R357). Retires after every queue has drained, and raises the halt line. -/
  | yHalt (o : YW)
  /-- y.yield (R358). A one-tick yield entry in every queue. -/
  | yYield (o : YW)
  /-- v.add.T (R295). Adds lanes. -/
  | vAdd (o : VR)
  /-- v.sub.T (R295). Subtracts lanes. -/
  | vSub (o : VR)
  /-- v.mul.T (R295). Multiplies lanes. -/
  | vMul (o : VR)
  /-- v.mulh.T (R295). High half of the integer product. -/
  | vMulh (o : VR)
  /-- v.fma.T (R295). Fused multiply-add with one rounding. -/
  | vFma (o : VR)
  /-- v.mad.T (R295). Integer multiply-add. -/
  | vMad (o : VR)
  /-- v.min.T (R295). Lane minimum. -/
  | vMin (o : VR)
  /-- v.max.T (R295). Lane maximum. -/
  | vMax (o : VR)
  /-- v.abs.T (R295). Absolute value. -/
  | vAbs (o : VR)
  /-- v.neg.T (R295). Negation. -/
  | vNeg (o : VR)
  /-- v.adds.T (R295). Saturating integer add. -/
  | vAdds (o : VR)
  /-- v.subs.T (R295). Saturating integer subtract. -/
  | vSubs (o : VR)
  /-- v.and (R297). Bitwise and. -/
  | vAnd (o : VR)
  /-- v.or (R297). Bitwise or. -/
  | vOr (o : VR)
  /-- v.xor (R297). Bitwise exclusive or. -/
  | vXor (o : VR)
  /-- v.andn (R297). A and not B. -/
  | vAndn (o : VR)
  /-- v.not (R297). Bitwise not. -/
  | vNot (o : VR)
  /-- v.shl (R297). Shift left. -/
  | vShl (o : VR)
  /-- v.shr (R297). Logical shift right. -/
  | vShr (o : VR)
  /-- v.sar (R297). Arithmetic shift right. -/
  | vSar (o : VR)
  /-- v.fshl (R297). Funnel shift left. -/
  | vFshl (o : VR)
  /-- v.fshr (R297). Funnel shift right. -/
  | vFshr (o : VR)
  /-- v.ceq.T (R299). Compares for equality into a predicate. -/
  | vCeq (o : VR)
  /-- v.cne.T (R299). Compares for inequality into a predicate. -/
  | vCne (o : VR)
  /-- v.clt.T (R299). Compares less-than into a predicate. -/
  | vClt (o : VR)
  /-- v.cle.T (R299). Compares less-or-equal into a predicate. -/
  | vCle (o : VR)
  /-- v.sel (R300). Selects lanes by a predicate. -/
  | vSel (o : VR)
  /-- v.cvt.T (R301). Converts lanes between formats. -/
  | vCvt (o : VR)
  /-- v.rshq.T (R302). Requantises an i32 accumulator. -/
  | vRshq (o : VR)
  /-- v.pack.T (R303). Packs narrow elements. -/
  | vPack (o : VR)
  /-- v.unpk.T (R303). Unpacks narrow elements. -/
  | vUnpk (o : VR)
  /-- v.clz (R298). Counts leading zeros. -/
  | vClz (o : VR)
  /-- v.popc (R298). Counts one bits. -/
  | vPopc (o : VR)
  /-- v.bext (R298). Extracts a bit field. -/
  | vBext (o : VR)
  /-- v.rsum.T (R304). Sums within lane groups. -/
  | vRsum (o : VR)
  /-- v.rmax.T (R304). Maximum within lane groups. -/
  | vRmax (o : VR)
  /-- v.rmin.T (R304). Minimum within lane groups. -/
  | vRmin (o : VR)
  /-- v.perm (R305). Permutes lanes by an index vector. -/
  | vPerm (o : VR)
  /-- v.shfl (R305). Shuffles lanes by kind and distance. -/
  | vShfl (o : VR)
  /-- v.bcst (R305). Broadcasts one lane. -/
  | vBcst (o : VR)
  /-- v.rdx (R306). Reads lanes from indirectly named registers. -/
  | vRdx (o : VR)
  /-- v.wrx (R306). Writes lanes to indirectly named registers. -/
  | vWrx (o : VR)
  /-- v.mov (R307). Copies a register. -/
  | vMov (o : VR)
  /-- v.li.T (R307). Loads a 16-bit immediate into lanes. -/
  | vLi (o : VI)
  /-- v.lane (R307). Writes each lane's number. -/
  | vLane (o : VR)
  /-- v.frs (R307). Broadcasts half of a scalar register. -/
  | vFrs (o : VR)
  /-- v.lut.T (R308). Interpolates in a 65-entry table. -/
  | vLut (o : VR)
  /-- v.ld.nW (R309). Contiguous load from tile memory. -/
  | vLd (o : VM)
  /-- v.lds.nW (R309). Strided load. -/
  | vLds (o : VM)
  /-- v.ldx.nW (R309). Indexed load. -/
  | vLdx (o : VM)
  /-- v.st.nW (R309). Contiguous store to tile memory. -/
  | vSt (o : VM)
  /-- v.sts.nW (R309). Strided store. -/
  | vSts (o : VM)
  /-- v.stx.nW (R309). Indexed store. -/
  | vStx (o : VM)
  /-- v.stm.nW (R310). Masked unaligned store. -/
  | vStm (o : VM)
  /-- v.pst (R311). Stores a predicate. -/
  | vPst (o : VM)
  /-- v.pld (R311). Loads a predicate. -/
  | vPld (o : VM)
  /-- v.stw (R311). Stores and clears the V sticky status. -/
  | vStw (o : VM)
  /-- v.pand (R312). Predicate and. -/
  | vPand (o : VR)
  /-- v.por (R312). Predicate or. -/
  | vPor (o : VR)
  /-- v.pxor (R312). Predicate exclusive or. -/
  | vPxor (o : VR)
  /-- v.pnot (R312). Predicate complement. -/
  | vPnot (o : VR)
  /-- ILLEGAL_INSTRUCTION (R241). The control core fetches a word whose unit is 7-15 or whose C or K opcode is unassigned, and takes fault 0x01 at that word. -/
  | evIllegalInstruction (w : Word)
  /-- RESERVED_COMMAND_START (R45). At the wheel slot beginning at its start gtc, a Reserved command starts, or fails with TIMEOUT if it is not yet consumed, its waits are unsatisfied, or an ordered predecessor is incomplete. -/
  | evReservedCommandStart (c : Cmd)
  /-- ACKNOWLEDGEMENT_RECEIVE (R337). A remote controller's acknowledgement or refusal of a peer write, atomic or signal reaches the sending package, and the access then counts as performed. -/
  | evAcknowledgementReceive (id : Nat) (refused : Bool) (data : List Byte)
  /-- ROPE_FREE_QUIET_EXPIRY (R152). When 1 s has passed since the last acknowledgement of a rope's signals to other packages, ROPE.FREE completes and sends its release notices. -/
  | evRopeFreeQuietExpiry (rope : RopeKey)
  /-- CONTROL_CORE_ACCESS_PERFORM (R140). An outstanding control-core load, store or atomic performs at its target, and for a load its value returns to the destination register. -/
  | evControlCoreAccessPerform (core id : Nat)
  /-- CXL_LINK_DOWN (R161). A CXL link goes down while durable writes are awaiting acceptance, which starts the 100 ms persist-failure interval. -/
  | evCxlLinkDown (port : Nat)
  /-- THERMAL_TRIP (R20). A junction sensor reaches 110 °C and the module removes package power, with the effect of power loss. -/
  | evThermalTrip
  /-- POWER_LOSS (R164). Package power is lost, for example through PWR_EN going low; on-chip state and HBM are lost and durable units recover under R157. -/
  | evPowerLoss
  /-- VRF_REFRESH (R119). On each rope tick with rtick mod 128 = 16b, bank b of the VRF refreshes, and any V access to it there raises a one-tick hold. -/
  | evVrfRefresh
  /-- HALT_AND_TREE (R101). The AND tree over the rope's halt lines fires, and the completion record and completion add are written. -/
  | evHaltAndTree
  /-- YIELD_POINT (R104). Every core of the rope has retired its y.yield, and a pending eviction saves the control segments there. -/
  | evYieldPoint
  /-- EVICT_GRACE_EXPIRY (R104). No yield point is reached within the grace period, so the rope is frozen and all ten segments are scanned out. -/
  | evEvictGraceExpiry
  /-- BARRIER_TIMEOUT (R100). A level-4 barrier does not complete within 2 s of this package's arrival, which is fault 0x30. -/
  | evBarrierTimeout
  /-- TRAP_ENTRY (R203). At an instruction boundary the control core takes a pending fault, setting the trap registers and a trap hold, or ends the launch faulted. -/
  | evTrapEntry
  /-- FREEZE_TAKES_EFFECT (R213). The freeze takes effect before rope tick Z in every core at once, after in-flight writes perform. -/
  | evFreezeTakesEffect
  /-- THAW_RESUME (R215). A thawed rope resumes on one tick, hdly ticks after the request, and any pending debug event is delivered. -/
  | evThawResume
  /-- Y_LOOP_INITIATION (R313). At each initiation tick of a y.loop, vrb rotates and the stage predicates shift. -/
  | yLoopInitiation
  /-- k.ret (R278). Returns to b7. -/
  | kRet
  /-- k.brk (R281). Raises breakpoint fault 0x03, deferred while the rope is sealed. -/
  | kBrk
  /-- k.nop (R281). Does nothing for one tick. -/
  | kNop
  /-- K_WFE_POLL (R282). 256 nominal ticks after a read, k.wfe reads the word again and checks its timeout. -/
  | kWfePoll
  /-- I3C_ACCESS (R21). The board controller accesses the I3C Basic target to take temperatures, power, the reset cause and pending events, and ALERT_N returns high once no event awaits it. -/
  | evI3cAccess
deriving DecidableEq, Repr

end Sys2Proof
end

