-- ==== Sys2Proof/WellFormed.lean ====
section
/-! DEFINITION. Well-formed instructions: the field values that R241 steps 3 to 6 accept, per instruction.
Format codes that the enabled-formats measurement disables (R75) and levels (R241 step 7) depend on the state, and are
checked where the word is executed or routed. Events and commands are not words, and have nothing to check here. -/
namespace Sys2Proof

/-- The special-register numbers of R256. -/
def specialNumbers : List Nat :=
  [0x00, 0x01, 0x02, 0x03, 0x04, 0x08, 0x09, 0x0A, 0x0B, 0x0C, 0x0D, 0x10, 0x11, 0x12, 0x13, 0x18, 0x19, 0x1A, 0x1B,
   0x1C, 0x1D, 0x20, 0x21, 0x22, 0x28, 0x30, 0x38, 0x40, 0x41]

/-- INT of R287: i8, n8, i16, n16, i32, n32. -/
def isInt (t : BitVec 4) : Bool := t.toNat ≤ 5
/-- FLT of R287: bf16, f16, f32. -/
def isFlt (t : BitVec 4) : Bool := 6 ≤ t.toNat && t.toNat ≤ 8

/-- A descriptor of `c.bext` or `c.bins`: pos + len at most 64 (R267). -/
def bitFieldOk (pos len1 : BitVec 6) : Bool := pos.toNat + len1.toNat + 1 ≤ 64
/-- A spill offset: a multiple of 8 from 0 to 8,184 (R120, R269). -/
def spillOk (off : BitVec 32) : Bool := off.toNat ≤ 8184 && off.toNat % 8 = 0

/-- A V-R word whose type is INT with no modifier, or FLT with `rnd` in m[0] (R295). -/
def VR.arithOk (o : VR) : Bool := (isInt o.t && o.m == 0) || (isFlt o.t && o.m.toNat ≤ 1)
/-- A V-R word whose type is INT with no modifier (R295). -/
def VR.intOk (o : VR) : Bool := isInt o.t && o.m == 0
/-- A V-R word of either family with no modifier (R295). -/
def VR.bothOk (o : VR) : Bool := (isInt o.t || isFlt o.t) && o.m == 0
/-- A V-R word with no type and no modifier. -/
def VR.plainOk (o : VR) : Bool := o.t == 0 && o.m == 0
/-- A compare: d names a predicate (R299). -/
def VR.compareOk (o : VR) : Bool := o.d.toNat < 16 && o.bothOk
/-- A group reduction: k from 1 to 6 (R304). -/
def VR.reduceOk (o : VR) : Bool := (isInt o.t || isFlt o.t) && o.b == 0 && 1 ≤ o.m.toNat && o.m.toNat ≤ 6
/-- The element types of `v.pack` and `v.unpk` with 2, 4 and 8 elements a lane (R303). -/
def packPer (t : BitVec 4) : Option Nat :=
  if t = 2 ∨ t = 3 ∨ t = 6 ∨ t = 7 then some 2
  else if t = 0 ∨ t = 1 ∨ t = 9 ∨ t = 10 ∨ t = 11 then some 4
  else if t = 12 then some 8 else none
/-- `v.pack`: type and half number (R303). -/
def VR.packOk (o : VR) : Bool :=
  match packPer o.t with
  | some 2 => o.m == 0
  | some 4 => o.m.toNat ≤ 1
  | some 8 => o.m.toNat ≤ 3
  | _ => false
/-- `v.unpk`: type and part number (R303). -/
def VR.unpkOk (o : VR) : Bool :=
  o.b == 0 && match packPer o.t with
  | some 2 => o.m == 0
  | some 4 => o.m.toNat ≤ 1
  | some 8 => o.m.toNat ≤ 7
  | _ => false
/-- Predicate operations: d, a, b name predicates, the rest zero (R312). -/
def VR.predOk (o : VR) : Bool :=
  o.d.toNat < 16 && o.a.toNat < 16 && o.b.toNat < 16 && o.g == 0 && !o.n && o.t == 0 && o.m == 0
/-- The width field of a V-M word is 0, 1 or 2 (R246). -/
def VM.widthOk (o : VM) : Bool := o.w.toNat ≤ 2
/-- `v.pst` and `v.pld`: a predicate, width and index zero (R311). -/
def VM.predOk (o : VM) : Bool := o.r.toNat < 16 && o.x == 0 && o.w == 0

/-- No bank, direction, index (R315). -/
def MW.noBank (o : MW) : Bool := o.bank == 0 && o.dir == 0 && o.idx == 0
/-- Direction all, which takes no index (R247, R315). -/
def MW.allOk (o : MW) : Bool := o.dir == 3 && o.idx == 0
/-- Any direction, no index with direction all (R247, R315). -/
def MW.lineOrAllOk (o : MW) : Bool := o.dir != 3 || o.idx == 0
/-- `m.mac`, `m.macz`: direction all; no A address with `aw` (R315). -/
def MW.macOk (o : MW) : Bool := o.allOk && (!o.m.getLsbD 1 || o.addr == 0)
/-- `m.tov`, `m.frv`: a line, and a vector register in address bits [19:12] (R315). -/
def MW.moveOk (o : MW) : Bool := o.dir != 3 && o.addr.toNat % 4096 = 0 && o.m == 0

/-- L words give and take no token towards the queue above (R91). -/
def LW.lTok (o : LW) : Bool := !o.h.giveUp && !o.h.takeUp
/-- S words give and take no token towards the queue below (R91). -/
def LW.sTok (o : LW) : Bool := !o.h.giveDown && !o.h.takeDown
/-- No shape record is named (R332). -/
def LW.noShape (o : LW) : Bool := o.shape == 0

/-- R241 steps 3 to 6, as far as the word alone decides them. -/
def wellFormed : Instr → Bool
  | .evPowerOn _ => true
  | .evResetN _ => true
  | .evClockStepDown _ => true
  | .evClockStepUp _ => true
  | .evClockStretch _ => true
  | .evRemoteOperation _ => true
  | .evCwpWrite _ => true
  | .evSrpWrite _ => true
  | .evDoorbellOtherWrite _ => true
  | .evSlotRecheck _ => true
  | .evResponseWrite _ => true
  | .cmdOpen _ => true
  | .cmdClose _ => true
  | .cmdRopeAlloc _ => true
  | .cmdRopeFree _ => true
  | .cmdLoad _ => true
  | .cmdLaunch _ => true
  | .cmdEvict _ => true
  | .cmdResume _ => true
  | .cmdEventWait _ => true
  | .cmdEventSet _ => true
  | .cmdQuery _ => true
  | .cmdResync _ => true
  | .cmdAttest _ => true
  | .cmdManifestCmp _ => true
  | .cmdBind _ => true
  | .cmdWeight _ => true
  | .cmdRevoke _ => true
  | .cmdAsidMap _ => true
  | .cmdInvalidate _ => true
  | .cmdRollback _ => true
  | .cmdDurableId _ => true
  | .cmdPoisonClear _ => true
  | .cmdMode _ => true
  | .cmdPeerSet _ => true
  | .evEventWaitTimeout _ => true
  | .evKillFence _ => true
  | .evRowLoad _ _ => true
  | .evBarrierCompletion _ _ => true
  | .evRouting _ => true
  | .evLateDataArrival _ _ => true
  | .evPhaseReplay _ => true
  | .evDurableWriteAccept _ => true
  | .evPersistLinkTimeout _ => true
  | .evPeerRequestReceive _ => true
  | .evSignalReceive _ => true
  | .evSignalWaitTimeout _ => true
  | .evReleaseNoticeReceive _ => true
  | .evPathFailureResend _ => true
  | .cAdd _ _ _ => true
  | .cSub _ _ _ => true
  | .cAnd _ _ _ => true
  | .cOr _ _ _ => true
  | .cXor _ _ _ => true
  | .cAndn _ _ _ => true
  | .cShl _ _ _ => true
  | .cShr _ _ _ => true
  | .cSar _ _ _ => true
  | .cFshl _ _ _ _ => true
  | .cFshr _ _ _ _ => true
  | .cMul _ _ _ => true
  | .cMulh _ _ _ => true
  | .cMulhn _ _ _ => true
  | .cDivn _ _ _ => true
  | .cRemn _ _ _ => true
  | .cMin _ _ _ => true
  | .cMax _ _ _ => true
  | .cMinn _ _ _ => true
  | .cMaxn _ _ _ => true
  | .cSeq _ _ _ => true
  | .cSne _ _ _ => true
  | .cSlt _ _ _ => true
  | .cSle _ _ _ => true
  | .cSltn _ _ _ => true
  | .cSlen _ _ _ => true
  | .cSel _ _ _ _ => true
  | .cClz _ _ => true
  | .cCtz _ _ => true
  | .cPopc _ _ => true
  | .cBext _ _ pos len1 _ => bitFieldOk pos len1
  | .cBins _ _ pos len1 => bitFieldOk pos len1
  | .cAddi _ _ _ => true
  | .cAndi _ _ _ => true
  | .cOri _ _ _ => true
  | .cXori _ _ _ => true
  | .cShli _ _ _ => true
  | .cShri _ _ _ => true
  | .cSari _ _ _ => true
  | .cMuli _ _ _ => true
  | .cLi _ _ => true
  | .cLih _ _ => true
  | .cSeqi _ _ _ => true
  | .cSlti _ _ _ => true
  | .cSltni _ _ _ => true
  | .cMini _ _ _ => true
  | .cMaxi _ _ _ => true
  | .cSplLd _ off => spillOk off
  | .cSplSt _ off => spillOk off
  | .cLdI8 _ _ _ _ => true
  | .cLdN8 _ _ _ _ => true
  | .cLdI16 _ _ _ _ => true
  | .cLdN16 _ _ _ _ => true
  | .cLdI32 _ _ _ _ => true
  | .cLdN32 _ _ _ _ => true
  | .cLd64 _ _ _ _ => true
  | .cSt8 _ _ _ _ => true
  | .cSt16 _ _ _ _ => true
  | .cSt32 _ _ _ _ => true
  | .cSt64 _ _ _ _ => true
  | .cAmoAdd _ _ _ _ _ => true
  | .cAmoSwap _ _ _ _ _ => true
  | .cAmoCas _ _ _ _ _ => true
  | .cAmoAnd _ _ _ _ _ => true
  | .cAmoOr _ _ _ _ _ => true
  | .cAmoXor _ _ _ _ _ => true
  | .cAmoMin _ _ _ _ _ => true
  | .cAmoMax _ _ _ _ _ => true
  | .cAmoMinn _ _ _ _ _ => true
  | .cAmoMaxn _ _ _ _ _ => true
  | .cFence _ scope => scope.toNat ≤ 4
  | .cPbar _ => true
  | .cSpt _ _ => true
  | .cSpc _ _ _ => true
  | .cSpg _ _ _ => true
  | .cMfs _ num => specialNumbers.contains num.toNat
  | .cMts _ num => specialNumbers.contains num.toNat
  | .cFmt _ => true
  | .kPbr _ _ => true
  | .kPbrr _ _ => true
  | .kBr _ _ cond => cond != 7
  | .kJmp _ => true
  | .kCall _ => true
  | .kTsb _ _ _ _ => true
  | .kTrap _ => true
  | .kRett _ _ => true
  | .kOvl _ _ => true
  | .kWfe _ _ _ _ _ _ => true
  | .kScanOut _ _ _ _ => true
  | .kScanIn _ _ _ _ => true
  | .kFrz _ _ _ => true
  | .kThaw _ => true
  | .kOwn _ _ => true
  | .lGet o => o.lTok
  | .lGetw o => o.lTok
  | .lGetb o => o.lTok
  | .lGath o => o.lTok
  | .lCget o => o.lTok && o.noShape
  | .lTcpy o => o.lTok && o.noShape
  | .lPref o => o.lTok && o.tile == 0
  | .lCbld o => o.lTok && o.tile.toNat < 4
  | .lZero o => o.lTok && o.noShape && o.r0 == 0
  | .sPut o => o.sTok
  | .sCput o => o.sTok && o.noShape
  | .sScat o => o.sTok
  | .sRed o => o.sTok
  | .sSig o => o.sTok && o.noShape && o.tile == 0
  | .sPbar o => o.sTok && o.r0 == 0 && o.r1 == 0 && o.tile == 0
  | .mWld o => o.m == 0
  | .mWldr o => o.noBank && o.m == 0
  | .mWsw o => o.noBank && o.addr == 0 && o.m == 0
  | .mMac o => o.macOk && o.m.toNat < 16
  | .mMacz o => o.macOk && o.m.toNat < 8
  | .mTov o => o.moveOk
  | .mFrv o => o.moveOk
  | .mClr o => o.lineOrAllOk && o.addr == 0 && (o.m == 0 || (o.m == 1 && o.dir == 3))
  | .mOut o => o.allOk && o.m == 0
  | .mKat _ => true
  | .mTr o => o.allOk && o.addr == 0 && o.m.toNat < 8 && o.m.toNat != o.bank.toNat
  | .mAdd o => o.lineOrAllOk && o.addr == 0
  | .yAlign o => o.mask != 0 && o.arg.toNat < 2 ^ 12
  | .yIdle o => o.mask != 0 && o.arg.toNat < 2 ^ 32
  | .yTchk o => o.mask != 0 && o.arg.toNat < 2 ^ 32
  | .yLoop o => o.mask != 0 && o.arg.toNat % 2 ^ 8 = 0 && o.arg.toNat / 2 ^ 23 % 2 ^ 6 != 0
  | .yBar o => o.mask != 0 && o.arg.toNat % 2 ^ 31 = 0 && o.arg.toNat / 2 ^ 31 ≤ 4
  | .yHalt o => o.mask == 15 && o.arg == 0
  | .yYield o => o.mask == 15 && o.arg == 0
  | .vAdd o => o.arithOk
  | .vSub o => o.arithOk
  | .vMul o => o.arithOk
  | .vMulh o => o.intOk
  | .vFma o => isFlt o.t && o.m.toNat ≤ 1
  | .vMad o => o.intOk
  | .vMin o => o.bothOk
  | .vMax o => o.bothOk
  | .vAbs o => o.bothOk && o.b == 0
  | .vNeg o => o.bothOk && o.b == 0
  | .vAdds o => o.intOk
  | .vSubs o => o.intOk
  | .vAnd o => o.plainOk
  | .vOr o => o.plainOk
  | .vXor o => o.plainOk
  | .vAndn o => o.plainOk
  | .vNot o => o.plainOk && o.b == 0
  | .vShl o => o.plainOk
  | .vShr o => o.plainOk
  | .vSar o => o.plainOk
  | .vFshl o => o.t == 0
  | .vFshr o => o.t == 0
  | .vCeq o => o.compareOk
  | .vCne o => o.compareOk
  | .vClt o => o.compareOk
  | .vCle o => o.compareOk
  | .vSel o => o.t == 0
  | .vCvt o => o.t.toNat ≤ 12 && o.b.toNat ≤ 12 && o.m.toNat ≤ 3
  | .vRshq o => (o.t.toNat ≤ 3 || o.t == 12) && o.m.toNat ≤ 1
  | .vPack o => o.packOk
  | .vUnpk o => o.unpkOk
  | .vClz o => o.plainOk && o.b == 0
  | .vPopc o => o.plainOk && o.b == 0
  | .vBext o => o.t == 0 && o.b.toNat < 64 && o.b.toNat % 32 + o.m.toNat + 1 ≤ 32
  | .vRsum o => o.reduceOk
  | .vRmax o => o.reduceOk
  | .vRmin o => o.reduceOk
  | .vPerm o => o.plainOk
  | .vShfl o => o.plainOk
  | .vBcst o => o.plainOk && o.b.toNat < 64
  | .vRdx o => o.plainOk && o.b == 0
  | .vWrx o => o.plainOk && o.d == 0
  | .vMov o => o.plainOk && o.b == 0
  | .vLi o => (o.t == 4 || o.t == 5 || o.t == 8) && o.m.toNat ≤ 1
  | .vLane o => o.plainOk && o.a == 0 && o.b == 0
  | .vFrs o => o.a.toNat < 32 && o.b == 0 && o.t == 0 && o.m.toNat ≤ 1
  | .vLut o => (o.t == 4 || o.t == 8) && o.b != 255 && o.m.toNat ≤ 1
  | .vLd o => o.widthOk && o.x == 0
  | .vLds o => o.widthOk && o.x.toNat < 32
  | .vLdx o => o.widthOk
  | .vSt o => o.widthOk && o.x == 0
  | .vSts o => o.widthOk && o.x.toNat < 32
  | .vStx o => o.widthOk
  | .vStm o => o.widthOk && o.x.toNat < 16
  | .vPst o => o.predOk
  | .vPld o => o.predOk
  | .vStw o => o.r == 0 && o.x == 0 && o.w == 0
  | .vPand o => o.predOk
  | .vPor o => o.predOk
  | .vPxor o => o.predOk
  | .vPnot o => o.predOk && o.b == 0
  | .evIllegalInstruction _ => true
  | .evReservedCommandStart _ => true
  | .evAcknowledgementReceive _ _ _ => true
  | .evRopeFreeQuietExpiry _ => true
  | .evControlCoreAccessPerform _ _ => true
  | .evCxlLinkDown _ => true
  | .evThermalTrip => true
  | .evPowerLoss => true
  | .evVrfRefresh => true
  | .evHaltAndTree => true
  | .evYieldPoint => true
  | .evEvictGraceExpiry => true
  | .evBarrierTimeout => true
  | .evTrapEntry => true
  | .evFreezeTakesEffect => true
  | .evThawResume => true
  | .yLoopInitiation => true
  | .kRet => true
  | .kBrk => true
  | .kNop => true
  | .kWfePoll => true
  | .evI3cAccess => true

end Sys2Proof
end

