-- ==== Sys2Proof/Decode.lean ====
section
/-! DEFINITION. Decoding: total on any bytes and any 64-bit word, rejecting by name (R240 to R254), and after it the encoder. -/
namespace Sys2Proof

/-- Why a word is no instruction (R241, steps 1 to 6). The part raises fault 0x01 for each. -/
inductive Rejected where
  /-- Fewer than eight bytes: no word. -/
  | short
  /-- Step 1: units 7 to 15. -/
  | unit
  /-- Step 2: an opcode that the unit does not assign. -/
  | opcode
  /-- Step 3: a field that the layout reserves or the instruction leaves unused is not zero. -/
  | reserved
  /-- Steps 3 to 6: a field holds a value that the instruction does not accept (`wellFormed`). -/
  | field
deriving DecidableEq, Repr

/-- Bits [lo+n-1:lo] of a word, as a field of n bits. -/
def fieldOf (n lo : Nat) (w : Word) : BitVec n := BitVec.ofNat n (w.toNat / 2 ^ lo)
/-- Bit lo of a word. -/
def flagOf (lo : Nat) (w : Word) : Bool := w.toNat / 2 ^ lo % 2 == 1
/-- Bits [lo+n-1:lo] of a word are zero. -/
def zeroAt (n lo : Nat) (w : Word) : Bool := w.toNat / 2 ^ lo % 2 ^ n == 0

/-- The value of a little-endian list of bytes (R4). -/
def leNat : List Byte → Nat
  | [] => 0
  | b :: bs => b.toNat + 256 * leNat bs
/-- The n bytes of a value, little-endian (R4). -/
def leBytes : Nat → Nat → List Byte
  | 0, _ => []
  | n + 1, v => BitVec.ofNat 8 v :: leBytes n (v / 256)

/-- Keep a decoded form if the reserved bits are zero. -/
def whenZero (ok : Bool) (i : Instr) : Except Rejected Instr := if ok then .ok i else .error .reserved

/-! Layouts of C and K words (R243, R244). -/

/-- d, a, b; x and imm32 unused. -/
def formDAB (mk : Reg → Reg → Reg → Instr) (w : Word) : Except Rejected Instr :=
  whenZero (zeroAt 37 0 w) (mk (fieldOf 5 47 w) (fieldOf 5 42 w) (fieldOf 5 37 w))
/-- d, a, b, x; imm32 unused. -/
def formDABX (mk : Reg → Reg → Reg → Reg → Instr) (w : Word) : Except Rejected Instr :=
  whenZero (zeroAt 32 0 w) (mk (fieldOf 5 47 w) (fieldOf 5 42 w) (fieldOf 5 37 w) (fieldOf 5 32 w))
/-- d, a; b, x and imm32 unused. -/
def formDA (mk : Reg → Reg → Instr) (w : Word) : Except Rejected Instr :=
  whenZero (zeroAt 42 0 w) (mk (fieldOf 5 47 w) (fieldOf 5 42 w))
/-- d, a and an n-bit immediate; b, x and the rest of imm32 unused. -/
def formDAI (n : Nat) (mk : Reg → Reg → BitVec n → Instr) (w : Word) : Except Rejected Instr :=
  whenZero (zeroAt (42 - n) n w) (mk (fieldOf 5 47 w) (fieldOf 5 42 w) (fieldOf n 0 w))
/-- d and an n-bit immediate. -/
def formDI (n : Nat) (mk : Reg → BitVec n → Instr) (w : Word) : Except Rejected Instr :=
  whenZero (zeroAt (47 - n) n w) (mk (fieldOf 5 47 w) (fieldOf n 0 w))
/-- a and an n-bit immediate; d, b and x unused. -/
def formAI (n : Nat) (mk : Reg → BitVec n → Instr) (w : Word) : Except Rejected Instr :=
  whenZero (zeroAt 5 47 w && zeroAt (42 - n) n w) (mk (fieldOf 5 42 w) (fieldOf n 0 w))
/-- A load: d, a, class, imm32; b and the width bit unused (R244, R270). -/
def formLoad (mk : Reg → Reg → BitVec 4 → BitVec 32 → Instr) (w : Word) : Except Rejected Instr :=
  whenZero (zeroAt 6 36 w) (mk (fieldOf 5 47 w) (fieldOf 5 42 w) (fieldOf 4 32 w) (fieldOf 32 0 w))
/-- A store: b, a, class, imm32; d and the width bit unused (R244, R270). -/
def formStore (mk : Reg → Reg → BitVec 4 → BitVec 32 → Instr) (w : Word) : Except Rejected Instr :=
  whenZero (zeroAt 5 47 w && zeroAt 1 36 w) (mk (fieldOf 5 37 w) (fieldOf 5 42 w) (fieldOf 4 32 w) (fieldOf 32 0 w))
/-- An atomic: d, a, b, width, class; imm32 unused (R273). -/
def formAmo (mk : Reg → Reg → Reg → Bool → BitVec 4 → Instr) (w : Word) : Except Rejected Instr :=
  whenZero (zeroAt 32 0 w)
    (mk (fieldOf 5 47 w) (fieldOf 5 42 w) (fieldOf 5 37 w) (flagOf 36 w) (fieldOf 4 32 w))
/-- d, a, b and a 10-bit segment mask; x and the rest of imm32 unused (R210). -/
def formScan (mk : Reg → Reg → Reg → BitVec 10 → Instr) (w : Word) : Except Rejected Instr :=
  whenZero (zeroAt 27 10 w) (mk (fieldOf 5 47 w) (fieldOf 5 42 w) (fieldOf 5 37 w) (fieldOf 10 0 w))
/-- A jump through a b register: b alone (R278). -/
def formB (mk : BitVec 3 → Instr) (w : Word) : Except Rejected Instr :=
  whenZero (zeroAt 10 42 w && zeroAt 2 40 w && zeroAt 37 0 w) (mk (fieldOf 3 37 w))

/-! The engine header and the operand forms (R245 to R249). -/

/-- The header of an L, S, M or V word (R245). -/
def headerOf (w : Word) : Hdr :=
  { wait := fieldOf 6 46 w, giveUp := flagOf 45 w, giveDown := flagOf 44 w, takeUp := flagOf 43 w,
    takeDown := flagOf 42 w, oc := fieldOf 4 38 w }
/-- A V-R word (R246). -/
def formVR (mk : VR → Instr) (w : Word) : Except Rejected Instr :=
  .ok (mk { h := headerOf w, d := fieldOf 8 30 w, a := fieldOf 8 22 w, b := fieldOf 8 14 w, g := fieldOf 4 10 w,
            n := flagOf 9 w, t := fieldOf 4 5 w, m := fieldOf 5 0 w })
/-- A V-I word (R246). -/
def formVI (mk : VI → Instr) (w : Word) : Except Rejected Instr :=
  .ok (mk { h := headerOf w, d := fieldOf 8 30 w, imm := fieldOf 16 14 w, g := fieldOf 4 10 w,
            n := flagOf 9 w, t := fieldOf 4 5 w, m := fieldOf 5 0 w })
/-- A V-M word (R246). -/
def formVM (mk : VM → Instr) (w : Word) : Except Rejected Instr :=
  .ok (mk { h := headerOf w, r := fieldOf 8 30 w, x := fieldOf 8 22 w, w := fieldOf 2 20 w, addr := fieldOf 20 0 w })
/-- An M word (R247). -/
def formM (mk : MW → Instr) (w : Word) : Except Rejected Instr :=
  .ok (mk { h := headerOf w, bank := fieldOf 3 35 w, dir := fieldOf 2 33 w, idx := fieldOf 6 27 w,
            addr := fieldOf 20 7 w, m := fieldOf 7 0 w })
/-- An L or S word (R248). -/
def formLS (mk : LW → Instr) (w : Word) : Except Rejected Instr :=
  .ok (mk { h := headerOf w, shape := fieldOf 16 22 w, r0 := fieldOf 5 17 w, r1 := fieldOf 5 12 w, tile := fieldOf 12 0 w })
/-- A Y word: TOK and OC are zero (R245, R249). -/
def formY (mk : YW → Instr) (w : Word) : Except Rejected Instr :=
  whenZero (zeroAt 8 38 w) (mk { wait := fieldOf 6 46 w, mask := fieldOf 4 34 w, arg := fieldOf 34 0 w })

/-- Unit C by opcode (R250). -/
def decodeC (op : Nat) (w : Word) : Except Rejected Instr :=
  match op with
  | 0x00 => formDAB .cAdd w
  | 0x01 => formDAB .cSub w
  | 0x02 => formDAB .cAnd w
  | 0x03 => formDAB .cOr w
  | 0x04 => formDAB .cXor w
  | 0x05 => formDAB .cAndn w
  | 0x06 => formDAB .cShl w
  | 0x07 => formDAB .cShr w
  | 0x08 => formDAB .cSar w
  | 0x09 => formDABX .cFshl w
  | 0x0A => formDABX .cFshr w
  | 0x0B => formDAB .cMul w
  | 0x0C => formDAB .cMulh w
  | 0x0D => formDAB .cMulhn w
  | 0x0E => formDAB .cDivn w
  | 0x0F => formDAB .cRemn w
  | 0x10 => formDAB .cMin w
  | 0x11 => formDAB .cMax w
  | 0x12 => formDAB .cMinn w
  | 0x13 => formDAB .cMaxn w
  | 0x14 => formDAB .cSeq w
  | 0x15 => formDAB .cSne w
  | 0x16 => formDAB .cSlt w
  | 0x17 => formDAB .cSle w
  | 0x18 => formDAB .cSltn w
  | 0x19 => formDAB .cSlen w
  | 0x1A => formDABX .cSel w
  | 0x1B => formDA .cClz w
  | 0x1C => formDA .cCtz w
  | 0x1D => formDA .cPopc w
  | 0x1E => whenZero (zeroAt 10 32 w && zeroAt 17 15 w && zeroAt 2 6 w)
      (.cBext (fieldOf 5 47 w) (fieldOf 5 42 w) (fieldOf 6 0 w) (fieldOf 6 8 w) (flagOf 14 w))
  | 0x1F => whenZero (zeroAt 10 32 w && zeroAt 18 14 w && zeroAt 2 6 w)
      (.cBins (fieldOf 5 47 w) (fieldOf 5 42 w) (fieldOf 6 0 w) (fieldOf 6 8 w))
  | 0x20 => formDAI 32 .cAddi w
  | 0x21 => formDAI 32 .cAndi w
  | 0x22 => formDAI 32 .cOri w
  | 0x23 => formDAI 32 .cXori w
  | 0x24 => formDAI 6 .cShli w
  | 0x25 => formDAI 6 .cShri w
  | 0x26 => formDAI 6 .cSari w
  | 0x27 => formDAI 32 .cMuli w
  | 0x28 => formDI 32 .cLi w
  | 0x29 => formDI 32 .cLih w
  | 0x2A => formDAI 32 .cSeqi w
  | 0x2B => formDAI 32 .cSlti w
  | 0x2C => formDAI 32 .cSltni w
  | 0x2D => formDAI 32 .cMini w
  | 0x2E => formDAI 32 .cMaxi w
  | 0x30 => formDI 32 .cSplLd w
  | 0x31 => formAI 32 .cSplSt w
  | 0x40 => formLoad .cLdI8 w
  | 0x41 => formLoad .cLdN8 w
  | 0x42 => formLoad .cLdI16 w
  | 0x43 => formLoad .cLdN16 w
  | 0x44 => formLoad .cLdI32 w
  | 0x45 => formLoad .cLdN32 w
  | 0x46 => formLoad .cLd64 w
  | 0x47 => formStore .cSt8 w
  | 0x48 => formStore .cSt16 w
  | 0x49 => formStore .cSt32 w
  | 0x4A => formStore .cSt64 w
  | 0x50 => formAmo .cAmoAdd w
  | 0x51 => formAmo .cAmoSwap w
  | 0x52 => formAmo .cAmoCas w
  | 0x53 => formAmo .cAmoAnd w
  | 0x54 => formAmo .cAmoOr w
  | 0x55 => formAmo .cAmoXor w
  | 0x56 => formAmo .cAmoMin w
  | 0x57 => formAmo .cAmoMax w
  | 0x58 => formAmo .cAmoMinn w
  | 0x59 => formAmo .cAmoMaxn w
  | 0x60 => whenZero (zeroAt 20 32 w && zeroAt 13 19 w) (.cFence (fieldOf 16 0 w) (fieldOf 3 16 w))
  | 0x61 => whenZero (zeroAt 20 32 w && zeroAt 16 16 w) (.cPbar (fieldOf 16 0 w))
  | 0x68 => formDA .cSpt w
  | 0x69 => formDAI 2 .cSpc w
  | 0x6A => formDAI 2 .cSpg w
  | 0x70 => formDI 8 .cMfs w
  | 0x71 => formAI 8 .cMts w
  | 0x72 => whenZero (zeroAt 5 47 w && zeroAt 42 0 w) (.cFmt (fieldOf 5 42 w))
  | _ => .error .opcode

/-- Unit K by opcode (R251). -/
def decodeK (op : Nat) (w : Word) : Except Rejected Instr :=
  match op with
  | 0x00 => whenZero (zeroAt 2 50 w && zeroAt 15 32 w) (.kPbr (fieldOf 3 47 w) (fieldOf 32 0 w))
  | 0x01 => whenZero (zeroAt 2 50 w && zeroAt 42 0 w) (.kPbrr (fieldOf 3 47 w) (fieldOf 5 42 w))
  | 0x02 => whenZero (zeroAt 5 47 w && zeroAt 2 40 w && zeroAt 5 32 w && zeroAt 29 3 w)
      (.kBr (fieldOf 3 37 w) (fieldOf 5 42 w) (fieldOf 3 0 w))
  | 0x03 => formB .kJmp w
  | 0x04 => formB .kCall w
  | 0x05 => whenZero (zeroAt 52 0 w) .kRet
  | 0x06 => whenZero (zeroAt 5 47 w && zeroAt 2 40 w && zeroAt 4 33 w)
      (.kTsb (fieldOf 3 37 w) (fieldOf 5 42 w) (flagOf 32 w) (fieldOf 32 0 w))
  | 0x07 => whenZero (zeroAt 20 32 w) (.kTrap (fieldOf 32 0 w))
  | 0x08 => whenZero (zeroAt 50 2 w) (.kRett (flagOf 0 w) (flagOf 1 w))
  | 0x09 => whenZero (zeroAt 52 0 w) .kBrk
  | 0x0A => whenZero (zeroAt 52 0 w) .kNop
  | 0x0B => whenZero (zeroAt 5 47 w && zeroAt 37 0 w) (.kOvl (fieldOf 5 42 w) (fieldOf 5 37 w))
  | 0x0C => whenZero (zeroAt 5 32 w && zeroAt 3 29 w)
      (.kWfe (fieldOf 5 47 w) (fieldOf 5 42 w) (fieldOf 5 37 w) (flagOf 28 w) (fieldOf 4 24 w) (fieldOf 24 0 w))
  | 0x10 => formScan .kScanOut w
  | 0x11 => formScan .kScanIn w
  | 0x12 => formDAB .kFrz w
  | 0x13 => whenZero (zeroAt 5 47 w && zeroAt 42 0 w) (.kThaw (fieldOf 5 42 w))
  | 0x14 => whenZero (zeroAt 5 47 w && zeroAt 37 0 w) (.kOwn (fieldOf 5 42 w) (fieldOf 5 37 w))
  | _ => .error .opcode

/-- Unit L by opcode (R252). -/
def decodeL (op : Nat) (w : Word) : Except Rejected Instr :=
  match op with
  | 0x00 => formLS .lGet w
  | 0x01 => formLS .lGetw w
  | 0x02 => formLS .lGetb w
  | 0x03 => formLS .lGath w
  | 0x04 => formLS .lCget w
  | 0x05 => formLS .lTcpy w
  | 0x06 => formLS .lPref w
  | 0x07 => formLS .lCbld w
  | 0x08 => formLS .lZero w
  | _ => .error .opcode

/-- Unit S by opcode (R252). -/
def decodeS (op : Nat) (w : Word) : Except Rejected Instr :=
  match op with
  | 0x00 => formLS .sPut w
  | 0x01 => formLS .sCput w
  | 0x02 => formLS .sScat w
  | 0x03 => formLS .sRed w
  | 0x04 => formLS .sSig w
  | 0x05 => formLS .sPbar w
  | _ => .error .opcode

/-- Unit M by opcode (R252). -/
def decodeM (op : Nat) (w : Word) : Except Rejected Instr :=
  match op with
  | 0x00 => formM .mWld w
  | 0x01 => formM .mWldr w
  | 0x02 => formM .mWsw w
  | 0x03 => formM .mMac w
  | 0x04 => formM .mMacz w
  | 0x05 => formM .mTov w
  | 0x06 => formM .mFrv w
  | 0x07 => formM .mClr w
  | 0x08 => formM .mOut w
  | 0x09 => formM .mKat w
  | 0x0A => formM .mTr w
  | 0x0B => formM .mAdd w
  | _ => .error .opcode

/-- Unit V by opcode (R253). -/
def decodeV (op : Nat) (w : Word) : Except Rejected Instr :=
  match op with
  | 0x00 => formVR .vAdd w
  | 0x01 => formVR .vSub w
  | 0x02 => formVR .vMul w
  | 0x03 => formVR .vMulh w
  | 0x04 => formVR .vFma w
  | 0x05 => formVR .vMad w
  | 0x06 => formVR .vMin w
  | 0x07 => formVR .vMax w
  | 0x08 => formVR .vAbs w
  | 0x09 => formVR .vNeg w
  | 0x0A => formVR .vAdds w
  | 0x0B => formVR .vSubs w
  | 0x10 => formVR .vAnd w
  | 0x11 => formVR .vOr w
  | 0x12 => formVR .vXor w
  | 0x13 => formVR .vAndn w
  | 0x14 => formVR .vNot w
  | 0x15 => formVR .vShl w
  | 0x16 => formVR .vShr w
  | 0x17 => formVR .vSar w
  | 0x18 => formVR .vFshl w
  | 0x19 => formVR .vFshr w
  | 0x20 => formVR .vCeq w
  | 0x21 => formVR .vCne w
  | 0x22 => formVR .vClt w
  | 0x23 => formVR .vCle w
  | 0x24 => formVR .vSel w
  | 0x28 => formVR .vCvt w
  | 0x29 => formVR .vRshq w
  | 0x2A => formVR .vPack w
  | 0x2B => formVR .vUnpk w
  | 0x30 => formVR .vClz w
  | 0x31 => formVR .vPopc w
  | 0x32 => formVR .vBext w
  | 0x38 => formVR .vRsum w
  | 0x39 => formVR .vRmax w
  | 0x3A => formVR .vRmin w
  | 0x40 => formVR .vPerm w
  | 0x41 => formVR .vShfl w
  | 0x42 => formVR .vBcst w
  | 0x48 => formVR .vRdx w
  | 0x49 => formVR .vWrx w
  | 0x50 => formVR .vMov w
  | 0x51 => formVI .vLi w
  | 0x52 => formVR .vLane w
  | 0x53 => formVR .vFrs w
  | 0x58 => formVR .vLut w
  | 0x60 => formVM .vLd w
  | 0x61 => formVM .vLds w
  | 0x62 => formVM .vLdx w
  | 0x63 => formVM .vSt w
  | 0x64 => formVM .vSts w
  | 0x65 => formVM .vStx w
  | 0x66 => formVM .vStm w
  | 0x67 => formVM .vPst w
  | 0x68 => formVM .vPld w
  | 0x69 => formVM .vStw w
  | 0x70 => formVR .vPand w
  | 0x71 => formVR .vPor w
  | 0x72 => formVR .vPxor w
  | 0x73 => formVR .vPnot w
  | _ => .error .opcode

/-- Unit Y by opcode (R252). -/
def decodeY (op : Nat) (w : Word) : Except Rejected Instr :=
  match op with
  | 0x00 => formY .yAlign w
  | 0x01 => formY .yIdle w
  | 0x02 => formY .yTchk w
  | 0x03 => formY .yLoop w
  | 0x04 => formY .yBar w
  | 0x05 => formY .yHalt w
  | 0x06 => formY .yYield w
  | _ => .error .opcode

/-- Unit and opcode of a word (R240). -/
def decodeRaw (w : Word) : Except Rejected Instr :=
  match w.toNat / 2 ^ 60 with
  | 0 => decodeC (w.toNat / 2 ^ 52 % 256) w
  | 1 => decodeK (w.toNat / 2 ^ 52 % 256) w
  | 2 => decodeL (w.toNat / 2 ^ 52 % 256) w
  | 3 => decodeS (w.toNat / 2 ^ 52 % 256) w
  | 4 => decodeM (w.toNat / 2 ^ 52 % 256) w
  | 5 => decodeV (w.toNat / 2 ^ 52 % 256) w
  | 6 => decodeY (w.toNat / 2 ^ 52 % 256) w
  | _ => .error .unit

/-- The instruction of a word, or the named reason why it is none (R241, steps 1 to 6). -/
def decode (w : Word) : Except Rejected Instr :=
  match decodeRaw w with
  | .ok i => if wellFormed i then .ok i else .error .field
  | .error r => .error r

/-- The instruction at the head of a list of bytes, and the bytes after it (R240). -/
def decodeBytes : List Byte → Except Rejected (Instr × List Byte)
  | b0 :: b1 :: b2 :: b3 :: b4 :: b5 :: b6 :: b7 :: rest =>
    match decode (BitVec.ofNat 64 (leNat [b0, b1, b2, b3, b4, b5, b6, b7])) with
    | .ok i => .ok (i, rest)
    | .error r => .error r
  | _ => .error .short

/-- The instruction read from a table word of nbits bits, the bits above them zero, laid out little-endian. -/
def decodeTableWord (nbits w : Nat) : Option Instr :=
  match decodeBytes (leBytes 8 (w % 2 ^ nbits)) with
  | .ok (i, _) => some i
  | .error _ => none

/-! The encoder, from the same tables. -/

/-- A word from its unit, opcode and bits [51:0] (R240). -/
def wordOf (unit op low : Nat) : Word := BitVec.ofNat 64 (unit * 2 ^ 60 + op * 2 ^ 52 + low)
/-- A flag as a number. -/
def bitNat (b : Bool) : Nat := if b then 1 else 0
/-- The fields d, a, b, x and imm32 (R243). -/
def ck (d a b x imm : Nat) : Nat := d * 2 ^ 47 + a * 2 ^ 42 + b * 2 ^ 37 + x * 2 ^ 32 + imm
/-- Bits [51:38] of an engine word (R245). -/
def Hdr.bits (h : Hdr) : Nat :=
  h.wait.toNat * 2 ^ 46 + bitNat h.giveUp * 2 ^ 45 + bitNat h.giveDown * 2 ^ 44 + bitNat h.takeUp * 2 ^ 43
    + bitNat h.takeDown * 2 ^ 42 + h.oc.toNat * 2 ^ 38
/-- Bits [51:0] of a V-R word (R246). -/
def VR.bits (o : VR) : Nat :=
  o.h.bits + (o.d.toNat * 2 ^ 30 + o.a.toNat * 2 ^ 22 + o.b.toNat * 2 ^ 14 + o.g.toNat * 2 ^ 10 + bitNat o.n * 2 ^ 9
    + o.t.toNat * 2 ^ 5 + o.m.toNat)
/-- Bits [51:0] of a V-I word (R246). -/
def VI.bits (o : VI) : Nat :=
  o.h.bits + (o.d.toNat * 2 ^ 30 + o.imm.toNat * 2 ^ 14 + o.g.toNat * 2 ^ 10 + bitNat o.n * 2 ^ 9
    + o.t.toNat * 2 ^ 5 + o.m.toNat)
/-- Bits [51:0] of a V-M word (R246). -/
def VM.bits (o : VM) : Nat :=
  o.h.bits + (o.r.toNat * 2 ^ 30 + o.x.toNat * 2 ^ 22 + o.w.toNat * 2 ^ 20 + o.addr.toNat)
/-- Bits [51:0] of an M word (R247). -/
def MW.bits (o : MW) : Nat :=
  o.h.bits + (o.bank.toNat * 2 ^ 35 + o.dir.toNat * 2 ^ 33 + o.idx.toNat * 2 ^ 27 + o.addr.toNat * 2 ^ 7 + o.m.toNat)
/-- Bits [51:0] of an L or S word (R248). -/
def LW.bits (o : LW) : Nat :=
  o.h.bits + (o.shape.toNat * 2 ^ 22 + o.r0.toNat * 2 ^ 17 + o.r1.toNat * 2 ^ 12 + o.tile.toNat)
/-- Bits [51:0] of a Y word (R249). -/
def YW.bits (o : YW) : Nat := o.wait.toNat * 2 ^ 46 + o.mask.toNat * 2 ^ 34 + o.arg.toNat

/-- The word of an instruction; events and commands have none. -/
def encode : Instr → Option Word
  | .evPowerOn _ => none
  | .evResetN _ => none
  | .evClockStepDown _ => none
  | .evClockStepUp _ => none
  | .evClockStretch _ => none
  | .evRemoteOperation _ => none
  | .evCwpWrite _ => none
  | .evSrpWrite _ => none
  | .evDoorbellOtherWrite _ => none
  | .evSlotRecheck _ => none
  | .evResponseWrite _ => none
  | .cmdOpen _ => none
  | .cmdClose _ => none
  | .cmdRopeAlloc _ => none
  | .cmdRopeFree _ => none
  | .cmdLoad _ => none
  | .cmdLaunch _ => none
  | .cmdEvict _ => none
  | .cmdResume _ => none
  | .cmdEventWait _ => none
  | .cmdEventSet _ => none
  | .cmdQuery _ => none
  | .cmdResync _ => none
  | .cmdAttest _ => none
  | .cmdManifestCmp _ => none
  | .cmdBind _ => none
  | .cmdWeight _ => none
  | .cmdRevoke _ => none
  | .cmdAsidMap _ => none
  | .cmdInvalidate _ => none
  | .cmdRollback _ => none
  | .cmdDurableId _ => none
  | .cmdPoisonClear _ => none
  | .cmdMode _ => none
  | .cmdPeerSet _ => none
  | .evEventWaitTimeout _ => none
  | .evKillFence _ => none
  | .evRowLoad _ _ => none
  | .evBarrierCompletion _ _ => none
  | .evRouting _ => none
  | .evLateDataArrival _ _ => none
  | .evPhaseReplay _ => none
  | .evDurableWriteAccept _ => none
  | .evPersistLinkTimeout _ => none
  | .evPeerRequestReceive _ => none
  | .evSignalReceive _ => none
  | .evSignalWaitTimeout _ => none
  | .evReleaseNoticeReceive _ => none
  | .evPathFailureResend _ => none
  | .cAdd d a b => some (wordOf 0 0x00 (ck d.toNat a.toNat b.toNat 0 0))
  | .cSub d a b => some (wordOf 0 0x01 (ck d.toNat a.toNat b.toNat 0 0))
  | .cAnd d a b => some (wordOf 0 0x02 (ck d.toNat a.toNat b.toNat 0 0))
  | .cOr d a b => some (wordOf 0 0x03 (ck d.toNat a.toNat b.toNat 0 0))
  | .cXor d a b => some (wordOf 0 0x04 (ck d.toNat a.toNat b.toNat 0 0))
  | .cAndn d a b => some (wordOf 0 0x05 (ck d.toNat a.toNat b.toNat 0 0))
  | .cShl d a b => some (wordOf 0 0x06 (ck d.toNat a.toNat b.toNat 0 0))
  | .cShr d a b => some (wordOf 0 0x07 (ck d.toNat a.toNat b.toNat 0 0))
  | .cSar d a b => some (wordOf 0 0x08 (ck d.toNat a.toNat b.toNat 0 0))
  | .cFshl d a b x => some (wordOf 0 0x09 (ck d.toNat a.toNat b.toNat x.toNat 0))
  | .cFshr d a b x => some (wordOf 0 0x0A (ck d.toNat a.toNat b.toNat x.toNat 0))
  | .cMul d a b => some (wordOf 0 0x0B (ck d.toNat a.toNat b.toNat 0 0))
  | .cMulh d a b => some (wordOf 0 0x0C (ck d.toNat a.toNat b.toNat 0 0))
  | .cMulhn d a b => some (wordOf 0 0x0D (ck d.toNat a.toNat b.toNat 0 0))
  | .cDivn d a b => some (wordOf 0 0x0E (ck d.toNat a.toNat b.toNat 0 0))
  | .cRemn d a b => some (wordOf 0 0x0F (ck d.toNat a.toNat b.toNat 0 0))
  | .cMin d a b => some (wordOf 0 0x10 (ck d.toNat a.toNat b.toNat 0 0))
  | .cMax d a b => some (wordOf 0 0x11 (ck d.toNat a.toNat b.toNat 0 0))
  | .cMinn d a b => some (wordOf 0 0x12 (ck d.toNat a.toNat b.toNat 0 0))
  | .cMaxn d a b => some (wordOf 0 0x13 (ck d.toNat a.toNat b.toNat 0 0))
  | .cSeq d a b => some (wordOf 0 0x14 (ck d.toNat a.toNat b.toNat 0 0))
  | .cSne d a b => some (wordOf 0 0x15 (ck d.toNat a.toNat b.toNat 0 0))
  | .cSlt d a b => some (wordOf 0 0x16 (ck d.toNat a.toNat b.toNat 0 0))
  | .cSle d a b => some (wordOf 0 0x17 (ck d.toNat a.toNat b.toNat 0 0))
  | .cSltn d a b => some (wordOf 0 0x18 (ck d.toNat a.toNat b.toNat 0 0))
  | .cSlen d a b => some (wordOf 0 0x19 (ck d.toNat a.toNat b.toNat 0 0))
  | .cSel d a b x => some (wordOf 0 0x1A (ck d.toNat a.toNat b.toNat x.toNat 0))
  | .cClz d a => some (wordOf 0 0x1B (ck d.toNat a.toNat 0 0 0))
  | .cCtz d a => some (wordOf 0 0x1C (ck d.toNat a.toNat 0 0 0))
  | .cPopc d a => some (wordOf 0 0x1D (ck d.toNat a.toNat 0 0 0))
  | .cBext d a pos len1 sx => some (wordOf 0 0x1E (ck d.toNat a.toNat 0 0 (bitNat sx * 2 ^ 14 + len1.toNat * 2 ^ 8 + pos.toNat)))
  | .cBins d a pos len1 => some (wordOf 0 0x1F (ck d.toNat a.toNat 0 0 (len1.toNat * 2 ^ 8 + pos.toNat)))
  | .cAddi d a v => some (wordOf 0 0x20 (ck d.toNat a.toNat 0 0 v.toNat))
  | .cAndi d a v => some (wordOf 0 0x21 (ck d.toNat a.toNat 0 0 v.toNat))
  | .cOri d a v => some (wordOf 0 0x22 (ck d.toNat a.toNat 0 0 v.toNat))
  | .cXori d a v => some (wordOf 0 0x23 (ck d.toNat a.toNat 0 0 v.toNat))
  | .cShli d a v => some (wordOf 0 0x24 (ck d.toNat a.toNat 0 0 v.toNat))
  | .cShri d a v => some (wordOf 0 0x25 (ck d.toNat a.toNat 0 0 v.toNat))
  | .cSari d a v => some (wordOf 0 0x26 (ck d.toNat a.toNat 0 0 v.toNat))
  | .cMuli d a v => some (wordOf 0 0x27 (ck d.toNat a.toNat 0 0 v.toNat))
  | .cLi d v => some (wordOf 0 0x28 (ck d.toNat 0 0 0 v.toNat))
  | .cLih d v => some (wordOf 0 0x29 (ck d.toNat 0 0 0 v.toNat))
  | .cSeqi d a v => some (wordOf 0 0x2A (ck d.toNat a.toNat 0 0 v.toNat))
  | .cSlti d a v => some (wordOf 0 0x2B (ck d.toNat a.toNat 0 0 v.toNat))
  | .cSltni d a v => some (wordOf 0 0x2C (ck d.toNat a.toNat 0 0 v.toNat))
  | .cMini d a v => some (wordOf 0 0x2D (ck d.toNat a.toNat 0 0 v.toNat))
  | .cMaxi d a v => some (wordOf 0 0x2E (ck d.toNat a.toNat 0 0 v.toNat))
  | .cSplLd d v => some (wordOf 0 0x30 (ck d.toNat 0 0 0 v.toNat))
  | .cSplSt a v => some (wordOf 0 0x31 (ck 0 a.toNat 0 0 v.toNat))
  | .cLdI8 d a cls v => some (wordOf 0 0x40 (ck d.toNat a.toNat 0 cls.toNat v.toNat))
  | .cLdN8 d a cls v => some (wordOf 0 0x41 (ck d.toNat a.toNat 0 cls.toNat v.toNat))
  | .cLdI16 d a cls v => some (wordOf 0 0x42 (ck d.toNat a.toNat 0 cls.toNat v.toNat))
  | .cLdN16 d a cls v => some (wordOf 0 0x43 (ck d.toNat a.toNat 0 cls.toNat v.toNat))
  | .cLdI32 d a cls v => some (wordOf 0 0x44 (ck d.toNat a.toNat 0 cls.toNat v.toNat))
  | .cLdN32 d a cls v => some (wordOf 0 0x45 (ck d.toNat a.toNat 0 cls.toNat v.toNat))
  | .cLd64 d a cls v => some (wordOf 0 0x46 (ck d.toNat a.toNat 0 cls.toNat v.toNat))
  | .cSt8 b a cls v => some (wordOf 0 0x47 (ck 0 a.toNat b.toNat cls.toNat v.toNat))
  | .cSt16 b a cls v => some (wordOf 0 0x48 (ck 0 a.toNat b.toNat cls.toNat v.toNat))
  | .cSt32 b a cls v => some (wordOf 0 0x49 (ck 0 a.toNat b.toNat cls.toNat v.toNat))
  | .cSt64 b a cls v => some (wordOf 0 0x4A (ck 0 a.toNat b.toNat cls.toNat v.toNat))
  | .cAmoAdd d a b wide cls => some (wordOf 0 0x50 (ck d.toNat a.toNat b.toNat (bitNat wide * 16 + cls.toNat) 0))
  | .cAmoSwap d a b wide cls => some (wordOf 0 0x51 (ck d.toNat a.toNat b.toNat (bitNat wide * 16 + cls.toNat) 0))
  | .cAmoCas d a b wide cls => some (wordOf 0 0x52 (ck d.toNat a.toNat b.toNat (bitNat wide * 16 + cls.toNat) 0))
  | .cAmoAnd d a b wide cls => some (wordOf 0 0x53 (ck d.toNat a.toNat b.toNat (bitNat wide * 16 + cls.toNat) 0))
  | .cAmoOr d a b wide cls => some (wordOf 0 0x54 (ck d.toNat a.toNat b.toNat (bitNat wide * 16 + cls.toNat) 0))
  | .cAmoXor d a b wide cls => some (wordOf 0 0x55 (ck d.toNat a.toNat b.toNat (bitNat wide * 16 + cls.toNat) 0))
  | .cAmoMin d a b wide cls => some (wordOf 0 0x56 (ck d.toNat a.toNat b.toNat (bitNat wide * 16 + cls.toNat) 0))
  | .cAmoMax d a b wide cls => some (wordOf 0 0x57 (ck d.toNat a.toNat b.toNat (bitNat wide * 16 + cls.toNat) 0))
  | .cAmoMinn d a b wide cls => some (wordOf 0 0x58 (ck d.toNat a.toNat b.toNat (bitNat wide * 16 + cls.toNat) 0))
  | .cAmoMaxn d a b wide cls => some (wordOf 0 0x59 (ck d.toNat a.toNat b.toNat (bitNat wide * 16 + cls.toNat) 0))
  | .cFence mask scope => some (wordOf 0 0x60 (ck 0 0 0 0 (scope.toNat * 2 ^ 16 + mask.toNat)))
  | .cPbar mask => some (wordOf 0 0x61 (ck 0 0 0 0 mask.toNat))
  | .cSpt d a => some (wordOf 0 0x68 (ck d.toNat a.toNat 0 0 0))
  | .cSpc d a v => some (wordOf 0 0x69 (ck d.toNat a.toNat 0 0 v.toNat))
  | .cSpg d a v => some (wordOf 0 0x6A (ck d.toNat a.toNat 0 0 v.toNat))
  | .cMfs d v => some (wordOf 0 0x70 (ck d.toNat 0 0 0 v.toNat))
  | .cMts a v => some (wordOf 0 0x71 (ck 0 a.toNat 0 0 v.toNat))
  | .cFmt a => some (wordOf 0 0x72 (ck 0 a.toNat 0 0 0))
  | .kPbr d off => some (wordOf 1 0x00 (ck d.toNat 0 0 0 off.toNat))
  | .kPbrr d a => some (wordOf 1 0x01 (ck d.toNat a.toNat 0 0 0))
  | .kBr b a cond => some (wordOf 1 0x02 (ck 0 a.toNat b.toNat 0 cond.toNat))
  | .kJmp b => some (wordOf 1 0x03 (ck 0 0 b.toNat 0 0))
  | .kCall b => some (wordOf 1 0x04 (ck 0 0 b.toNat 0 0))
  | .kTsb b a inv mask => some (wordOf 1 0x06 (ck 0 a.toNat b.toNat (bitNat inv) mask.toNat))
  | .kTrap imm => some (wordOf 1 0x07 (ck 0 0 0 0 imm.toNat))
  | .kRett fin squash => some (wordOf 1 0x08 (bitNat squash * 2 + bitNat fin))
  | .kOvl a b => some (wordOf 1 0x0B (ck 0 a.toNat b.toNat 0 0))
  | .kWfe d a b narrow cls timeout => some (wordOf 1 0x0C (ck d.toNat a.toNat b.toNat 0 (bitNat narrow * 2 ^ 28 + cls.toNat * 2 ^ 24 + timeout.toNat)))
  | .kScanOut d a b mask => some (wordOf 1 0x10 (ck d.toNat a.toNat b.toNat 0 mask.toNat))
  | .kScanIn d a b mask => some (wordOf 1 0x11 (ck d.toNat a.toNat b.toNat 0 mask.toNat))
  | .kFrz d a b => some (wordOf 1 0x12 (ck d.toNat a.toNat b.toNat 0 0))
  | .kThaw a => some (wordOf 1 0x13 (ck 0 a.toNat 0 0 0))
  | .kOwn a b => some (wordOf 1 0x14 (ck 0 a.toNat b.toNat 0 0))
  | .lGet o => some (wordOf 2 0x00 o.bits)
  | .lGetw o => some (wordOf 2 0x01 o.bits)
  | .lGetb o => some (wordOf 2 0x02 o.bits)
  | .lGath o => some (wordOf 2 0x03 o.bits)
  | .lCget o => some (wordOf 2 0x04 o.bits)
  | .lTcpy o => some (wordOf 2 0x05 o.bits)
  | .lPref o => some (wordOf 2 0x06 o.bits)
  | .lCbld o => some (wordOf 2 0x07 o.bits)
  | .lZero o => some (wordOf 2 0x08 o.bits)
  | .sPut o => some (wordOf 3 0x00 o.bits)
  | .sCput o => some (wordOf 3 0x01 o.bits)
  | .sScat o => some (wordOf 3 0x02 o.bits)
  | .sRed o => some (wordOf 3 0x03 o.bits)
  | .sSig o => some (wordOf 3 0x04 o.bits)
  | .sPbar o => some (wordOf 3 0x05 o.bits)
  | .mWld o => some (wordOf 4 0x00 o.bits)
  | .mWldr o => some (wordOf 4 0x01 o.bits)
  | .mWsw o => some (wordOf 4 0x02 o.bits)
  | .mMac o => some (wordOf 4 0x03 o.bits)
  | .mMacz o => some (wordOf 4 0x04 o.bits)
  | .mTov o => some (wordOf 4 0x05 o.bits)
  | .mFrv o => some (wordOf 4 0x06 o.bits)
  | .mClr o => some (wordOf 4 0x07 o.bits)
  | .mOut o => some (wordOf 4 0x08 o.bits)
  | .mKat o => some (wordOf 4 0x09 o.bits)
  | .mTr o => some (wordOf 4 0x0A o.bits)
  | .mAdd o => some (wordOf 4 0x0B o.bits)
  | .yAlign o => some (wordOf 6 0x00 o.bits)
  | .yIdle o => some (wordOf 6 0x01 o.bits)
  | .yTchk o => some (wordOf 6 0x02 o.bits)
  | .yLoop o => some (wordOf 6 0x03 o.bits)
  | .yBar o => some (wordOf 6 0x04 o.bits)
  | .yHalt o => some (wordOf 6 0x05 o.bits)
  | .yYield o => some (wordOf 6 0x06 o.bits)
  | .vAdd o => some (wordOf 5 0x00 o.bits)
  | .vSub o => some (wordOf 5 0x01 o.bits)
  | .vMul o => some (wordOf 5 0x02 o.bits)
  | .vMulh o => some (wordOf 5 0x03 o.bits)
  | .vFma o => some (wordOf 5 0x04 o.bits)
  | .vMad o => some (wordOf 5 0x05 o.bits)
  | .vMin o => some (wordOf 5 0x06 o.bits)
  | .vMax o => some (wordOf 5 0x07 o.bits)
  | .vAbs o => some (wordOf 5 0x08 o.bits)
  | .vNeg o => some (wordOf 5 0x09 o.bits)
  | .vAdds o => some (wordOf 5 0x0A o.bits)
  | .vSubs o => some (wordOf 5 0x0B o.bits)
  | .vAnd o => some (wordOf 5 0x10 o.bits)
  | .vOr o => some (wordOf 5 0x11 o.bits)
  | .vXor o => some (wordOf 5 0x12 o.bits)
  | .vAndn o => some (wordOf 5 0x13 o.bits)
  | .vNot o => some (wordOf 5 0x14 o.bits)
  | .vShl o => some (wordOf 5 0x15 o.bits)
  | .vShr o => some (wordOf 5 0x16 o.bits)
  | .vSar o => some (wordOf 5 0x17 o.bits)
  | .vFshl o => some (wordOf 5 0x18 o.bits)
  | .vFshr o => some (wordOf 5 0x19 o.bits)
  | .vCeq o => some (wordOf 5 0x20 o.bits)
  | .vCne o => some (wordOf 5 0x21 o.bits)
  | .vClt o => some (wordOf 5 0x22 o.bits)
  | .vCle o => some (wordOf 5 0x23 o.bits)
  | .vSel o => some (wordOf 5 0x24 o.bits)
  | .vCvt o => some (wordOf 5 0x28 o.bits)
  | .vRshq o => some (wordOf 5 0x29 o.bits)
  | .vPack o => some (wordOf 5 0x2A o.bits)
  | .vUnpk o => some (wordOf 5 0x2B o.bits)
  | .vClz o => some (wordOf 5 0x30 o.bits)
  | .vPopc o => some (wordOf 5 0x31 o.bits)
  | .vBext o => some (wordOf 5 0x32 o.bits)
  | .vRsum o => some (wordOf 5 0x38 o.bits)
  | .vRmax o => some (wordOf 5 0x39 o.bits)
  | .vRmin o => some (wordOf 5 0x3A o.bits)
  | .vPerm o => some (wordOf 5 0x40 o.bits)
  | .vShfl o => some (wordOf 5 0x41 o.bits)
  | .vBcst o => some (wordOf 5 0x42 o.bits)
  | .vRdx o => some (wordOf 5 0x48 o.bits)
  | .vWrx o => some (wordOf 5 0x49 o.bits)
  | .vMov o => some (wordOf 5 0x50 o.bits)
  | .vLi o => some (wordOf 5 0x51 o.bits)
  | .vLane o => some (wordOf 5 0x52 o.bits)
  | .vFrs o => some (wordOf 5 0x53 o.bits)
  | .vLut o => some (wordOf 5 0x58 o.bits)
  | .vLd o => some (wordOf 5 0x60 o.bits)
  | .vLds o => some (wordOf 5 0x61 o.bits)
  | .vLdx o => some (wordOf 5 0x62 o.bits)
  | .vSt o => some (wordOf 5 0x63 o.bits)
  | .vSts o => some (wordOf 5 0x64 o.bits)
  | .vStx o => some (wordOf 5 0x65 o.bits)
  | .vStm o => some (wordOf 5 0x66 o.bits)
  | .vPst o => some (wordOf 5 0x67 o.bits)
  | .vPld o => some (wordOf 5 0x68 o.bits)
  | .vStw o => some (wordOf 5 0x69 o.bits)
  | .vPand o => some (wordOf 5 0x70 o.bits)
  | .vPor o => some (wordOf 5 0x71 o.bits)
  | .vPxor o => some (wordOf 5 0x72 o.bits)
  | .vPnot o => some (wordOf 5 0x73 o.bits)
  | .evIllegalInstruction _ => none
  | .evReservedCommandStart _ => none
  | .evAcknowledgementReceive _ _ _ => none
  | .evRopeFreeQuietExpiry _ => none
  | .evControlCoreAccessPerform _ _ => none
  | .evCxlLinkDown _ => none
  | .evThermalTrip => none
  | .evPowerLoss => none
  | .evVrfRefresh => none
  | .evHaltAndTree => none
  | .evYieldPoint => none
  | .evEvictGraceExpiry => none
  | .evBarrierTimeout => none
  | .evTrapEntry => none
  | .evFreezeTakesEffect => none
  | .evThawResume => none
  | .yLoopInitiation => none
  | .kRet => some (wordOf 1 0x05 0)
  | .kBrk => some (wordOf 1 0x09 0)
  | .kNop => some (wordOf 1 0x0A 0)
  | .kWfePoll => none
  | .evI3cAccess => none

end Sys2Proof
end

