-- ==== Sys2Proof/Config.lean ====
section
/-! DEFINITION. What the part fixes and what the spec leaves open.
A definition with a body is a figure of the spec, or a layout that a log entry names; an opaque constant is a free value. -/
namespace Sys2Proof.Config

/-- A byte that no write has reached under the reader's key and tweak (R66), by a counter of the state and an address. DESIGN CHOICE: log 6, log 7. DEDUCED: log 75. -/
opaque freeByte : Nat → Nat → Byte
/-- A value the spec leaves open, by a counter of the state: an idle stream link (R324), a random draw (R67, R151). DESIGN CHOICE: log 7, log 13, log 34. DEDUCED: log 75. -/
opaque freeNat : Nat → Nat
/-- What an entry of a core's registers holds where a replay leaves it open (R234), by a counter of the state, a core and the entry. DESIGN CHOICE: log 48. -/
opaque freeLane : Nat → Nat → Nat → BitVec 64
/-- Which of `n` agents acts next when the agenda names none (R140: the instants are not fixed). DESIGN CHOICE: log 1. -/
opaque nextAgent : Nat → Nat → Nat
/-- Byte of a coded region of a scan image: capture number, core, segment and offset (R221: the coding is not given). DESIGN CHOICE: log 42. -/
opaque codedByte : Nat → Nat → Nat → Nat → Byte
/-- Whether the RSASSA-PSS signature of a firmware image verifies (R72): key, signature, digest. DESIGN CHOICE: log 9. -/
opaque rsaValid : List Byte → List Byte → List Byte → Bool
/-- Whether the SLH-DSA signature of a firmware image verifies (R72): key, signature, digest. DESIGN CHOICE: log 9. -/
opaque slhValid : List Byte → List Byte → List Byte → Bool
/-- The two signatures of an attestation report (R76): 384 and 16,224 bytes under the device identity keys. DESIGN CHOICE: log 9. -/
opaque attestByte : List Byte → Nat → Byte
/-- Whether the power left can hold a further strict rope of the given number of ridges (R20, R81: no figures are given). DESIGN CHOICE: log 11. -/
opaque powerFits : Nat → Nat → Bool

/-- The fabric address and the security association that a firmware image names for interface 0 (R55), by its header and body, which the
measurement covers (R75); where they stand in the body is not given. DESIGN CHOICE: log 12. -/
opaque firmwareBinding : List Byte → Word × BitVec 16
/-- The firmware image of the part as it stands at the model's reset (R55, R71, R72). DESIGN CHOICE: log 12. -/
opaque firmware : Firmware
/-- Fuses of a key slot (R70): the hashes of its two public keys. DESIGN CHOICE: log 12. -/
opaque keyHash : Nat → Bool → List Byte
/-- Whether the revoke fuse of a key slot is blown (R70). DESIGN CHOICE: log 12. -/
opaque revokeFuse : Nat → Bool
/-- This package's number in the fabric (R134, R151): software's choice. DESIGN CHOICE: log 12. -/
opaque package : Nat

/-- Which of a stack's 64 pseudo-channels an address within it lies on (R12: the interleaving is not given). DESIGN CHOICE: log 10. -/
opaque pseudoChannel : Nat → Nat
/-- The set of a cluster TLB that an entry falls in, by ASID, address and page size (R132: the index is not given). DESIGN CHOICE: log 24. -/
opaque tlbSet : Nat → Nat → Nat → Nat

/-- Cores of the package (R1). -/
def cores : Nat := 1024
/-- Bytes of one HBM stack: 1,280 GB over 16 stacks (R1, R3); the order of the stacks in the physical map is presumed (log 10). -/
def stackBytes : Nat := 80000000000
/-- Bytes of all HBM stacks (R1). PRESUMED: log 10. -/
def hbmBytes : Nat := 16 * stackBytes
/-- Nominal ticks of a microsecond (R1: 1.9 GHz). -/
def ticksPerMicro : Nat := 1900
/-- Size of a persist and cipher unit (R63, R157). -/
def unitBytes : Nat := 64

end Sys2Proof.Config
end

