-- ==== Sys2Proof/Machine/State.lean ====
section
/-! DEFINITION. The state of the part: everything that the spec gives it, as plain data (INVENTORY.md lists it with its rules). -/
namespace Sys2Proof.Machine

/-- Why the machine stops. -/
inductive Fault where
  /-- Raised by `step` when the agenda is empty and the part has no power or refused its firmware, so that no agent
  can act (R31, R33). Safe: a machine that stands still proves nothing about a running one. -/
  | noAgent
deriving DecidableEq, Repr

/-- Why an instruction has no meaning here. -/
inductive Refusal where
  /-- Raised by an arm of `exec` whose instruction has no meaning yet. Safe: the machine stops. -/
  | notModelled (mnemonic : String)
deriving DecidableEq, Repr

/-! ## Memory and keys -/

/-- The key and tweak a 64-byte unit was written under (R63, R64, R155): a world's key (its number, the reset since which it stands, which
draw of it) and generation, or a durable identity and its durable generation. DEDUCED: log 8. -/
structure KeyTag where
  durable : Bool
  owner : Nat
  gen : Nat
  draw : Nat
  boot : Nat
deriving DecidableEq, Repr

/-- Bytes of one persist unit as offset and byte, with the key they stand under (R157). -/
structure UnitWrite where
  key : KeyTag
  bytes : List (Nat × Byte)
deriving DecidableEq, Repr

/-- A write to a durable page that no completed persist barrier covers yet (R157, R158): its number, unit, virtual address,
issuing core (or none), class, issue tick for an engine write, whether the device has accepted it or reported failure, and whether a barrier's
guarantee for it has lapsed (R161). DESIGN CHOICE: log 63. -/
structure DurableWrite where
  id : Nat
  unit : Nat
  va : Nat
  core : Option Nat
  engine : Bool
  cls : Nat
  issued : Nat
  write : UnitWrite
  accepted : Bool
  failed : Bool
  lapsed : Bool
  image : Bool
deriving DecidableEq, Repr

/-- A world: generation (R67), key draw (R67), durable identity (R155), bindings of local ASIDs 0 and 1 (R54, R382). -/
structure World where
  gen : BitVec 24
  draw : Nat
  identity : Option Nat
  asid0 : Option Nat
  asid1 : Option Nat
deriving DecidableEq, Repr

/-- An on-chip ASID's binding: its world and level-0 table (R129). -/
structure Asid where
  world : Nat
  table : Nat
deriving DecidableEq, Repr

/-- A cached translation of one page (R132): on-chip ASID, first virtual byte, size, first physical byte, and the entry's
low byte (sup, coded, durable, x, w, r of R130). -/
structure TlbEntry where
  asid : Nat
  va : Nat
  size : Nat
  pa : Nat
  bits : BitVec 8
deriving DecidableEq, Repr

/-- What stands at a physical address (R131, R134, R154). -/
inductive Medium where
  | none | hbm | cxl | durable | peer
deriving DecidableEq, Repr

/-- A translated and checked place in global memory. -/
structure Mapped where
  pa : Nat
  durable : Bool
  medium : Medium
deriving DecidableEq, Repr

/-- A peer-table entry (R134), as its 32 bytes say. -/
structure PeerEntry where
  valid : Bool
  world : Nat
  pkg : Nat
  sa : Nat
  fabric : Word
  base : Nat
deriving DecidableEq, Repr

/-! ## Engines -/

/-- A sticky status or status word (R185). -/
structure Status where
  first : Nat
  sat : Nat
  sub : Nat
  flags : BitVec 6
deriving DecidableEq, Repr, Inhabited

/-- No flag, no count, no element: `first` reads 0xFFFF (R185). -/
def Status.none : Status := { first := 0xFFFF, sat := 0, sub := 0, flags := 0 }

/-- A shape record as routing froze it (R136, R138). -/
structure ShapeRec where
  base : Nat
  format : BitVec 4
  rank : Nat
  rights : BitVec 4
  size : List Nat
  stride : List Int
  index : Nat
deriving DecidableEq, Repr

/-- A routed queue entry (R109): the instruction, its queue slot, the frozen scalar values, shape record and format word;
T where routing fixes it (R377, R381); its offset in the body of a `y.loop` that routing found it in (R352); the address of
its word and its routing number, for a phase header that fails (R93, R381). -/
structure Entry where
  ins : Instr
  slot : Nat
  va : Word
  vb : Word
  shape : Option ShapeRec
  fmt : Word
  fixedT : Option Nat
  body : Option Nat
  pc : Word
  seq : Nat
deriving DecidableEq, Repr

/-- An instance that has issued (R353): its entry, queue (L 0, M 1, V 2, S 3), issue tick, issue number, iteration, tile step in
256-byte units (R354), base of its phase, the declared ranges it is checked against (R336), and for a row of a gather its list word, for
the tile of `l.getw` its index entry (R340, R341). `lag`: the ticks by which it has issued after its T (R380). -/
structure Job where
  entry : Entry
  q : Nat
  t : Nat
  seq : Nat
  iter : Int
  tileStep : Nat
  phase : Nat
  reads : List Nat
  writes : List Nat
  timed : Bool
  arg : Nat
  lag : Nat
deriving DecidableEq, Repr

/-- Partial sums of one column of one A row: NaN, infinity or an exact dyadic number (R176). -/
inductive Sum where
  | nan
  | inf (neg : Bool)
  | fin (num : Int) (exp : Int)
deriving DecidableEq, Repr

/-- Where a write of an engine goes when it performs. -/
inductive Effect where
  /-- Bytes of tile memory (R121). -/
  | tile (bytes : List (Nat × Byte))
  /-- Lanes of the VRF by physical register × 64 + lane (R118). -/
  | vrf (lanes : List (Nat × Lane))
  /-- Bits of a predicate: the mask says which change (R288). -/
  | pred (p : Nat) (mask bits : Word)
  /-- Flags merged into the V engine's sticky status (R294). -/
  | vflags (st : Status)
  /-- MRF entries by bank × 4,096 + row × 64 + column, and flags merged into a bank's sticky status (R117, R328). -/
  | mrf (lanes : List (Nat × Lane)) (bank : Nat) (st : Status)
  /-- Clear of an MRF bank's sticky status by `m.clr` (R326). -/
  | mrfClear (bank : Nat)
  /-- Elements of the shadow plane by 64 × k + n (R318). -/
  | plane (elems : List (Nat × BitVec 16))
  /-- The shadow plane's scale store (R318). -/
  | scales (bytes : List Byte)
  /-- Row of A driven into the array, with its A scales (R322, R323). -/
  | macRow (row sa0 sa1 : Nat)
  /-- One entry of an accumulating row: its row, its next column, block sums and flags per column, scales and options (R323). -/
  | macCol (row col bank : Nat) (sums : List (Sum × Sum × Status)) (float fresh south north : Bool) (sub : Status)
  /-- The tap of a row from the west link at PE row k: codes so far (R324). -/
  | tap (row k : Nat) (codes : List (BitVec 16)) (second : Bool) (sa0 sa1 : Nat)
  /-- Bytes of the batt at one unit, and whether it is the first one that checks the decode in progress (R196, R340). -/
  | batt (unit : Nat) (bytes : List Byte)
  /-- A codebook slot (R188). -/
  | codebook (slot : Nat) (bytes : List Byte)
  /-- Bytes of the cluster store (R124). -/
  | cluster (addr : Nat) (bytes : List Byte)
  /-- Bytes of global memory at a virtual and a physical address; nibbles give i4 stores (R137, R344). -/
  | global (va pa : Nat) (durable : Bool) (bytes : List (Nat × Byte × Byte))
  /-- 4-byte additions in global memory, by physical address (R345). -/
  | reduce (va pa : Nat) (durable : Bool) (adds : List (Nat × Lane))
  /-- The 64-bit addition of `s.sig` (R346), with the count it carries to another package (R151). -/
  | signal (va pa : Nat) (durable : Bool) (value : Word) (count : Nat)
  /-- The comparison at the end of `m.kat` (R236). -/
  | kat (found carried : BitVec 32)
  /-- The end of `s.pbar` (R160). -/
  | barrier
  /-- The next step of an instance, by micro-PC, with what its earlier steps carry on (R111). -/
  | step (u : Nat) (carry : Status)
  /-- Arrival of the index entry of `l.getw` (R340). -/
  | index (entry : Word)
  /-- The page walks of an `l.pref`, which end at no documented tick (R339). -/
  | walk
deriving DecidableEq, Repr

/-- A step or a write of an engine that is still to come, on its rope tick (R144), with the micro-PC of the step that made it
(R111). `late`: its data has not arrived (R90). `spots`: where the read of global memory behind it goes, as checked at its issue (R378);
`served`: the 64-byte units that have come for it while late (R13); `bad`: the read met an error that could not be corrected (R228);
`waited`: the ticks that it has waited for link data (R380); `resent`: its data may hold the rope in both modes, since a freeze has discarded the
read (R214) or a replay has made it (R232); `asid`: the ASID that it was translated under (R133). -/
structure Flight where
  tick : Nat
  id : Nat
  job : Job
  upc : Nat
  effect : Effect
  late : Bool
  spots : List Mapped
  served : List Nat
  bad : Bool
  waited : Nat
  resent : Bool
  asid : Option Nat
deriving DecidableEq, Repr

/-- A running `y.loop` of one queue (R352, R353). `cursor` is the first tick whose instance has not been served: it falls behind
the rope tick only after a resumption (R380). DEDUCED: log 40. -/
structure Loop where
  cursor : Nat
  l0 : Nat
  ii : Nat
  sc : Nat
  trip : Nat
  step : Nat
  ring : Nat
deriving DecidableEq, Repr

/-- What routing remembers of the `y.loop` whose body it is filling (R352, R355): II, SC × II, next offset, offsets taken. -/
structure BodyRoute where
  ii : Nat
  span : Nat
  next : Nat
  taken : List Nat
deriving DecidableEq, Repr

/-- Why the head of a queue stands still. -/
inductive Wait where
  | none
  /-- A `y.align` presented at a tick (R93). -/
  | align (tick : Nat)
  /-- A `y.bar` reached at a tick, and whether the core has arrived at it (R100, R356). -/
  | bar (level tick : Nat) (arrived : Bool)
  /-- A `y.halt` reached (R357). -/
  | halt
deriving DecidableEq, Repr

/-- What a suspended entry does again when it resumes (R209): its step; a row or unit whose engine it occupies already (R336); or a write
whose tick had come. -/
inductive Again where
  | step | row | write
deriving DecidableEq, Repr

/-- An entry that a fault suspended: what it does again, its instance, micro-PC, the tick of the fault, and what its steps carry
(R91, R207, R380). -/
structure Suspended where
  again : Again
  job : Job
  upc : Nat
  tick : Nat
  carry : Status
deriving DecidableEq, Repr

/-- One engine queue (R110): entries oldest first; base; earliest T of the next entry; the entry at the head that waits;
running loop; routing's loop; suspended entry; whether it lags its timetable after a resumption (R380); next slot;
whether the next routed entry must be a `y.align` (level-4 barrier, R100); whether a `y.halt` has been routed (R357); whether
the `y.align` at its head was removed by a failed header and is to be routed again (R381); `lack`: the ticks for which it has lacked its
next entry, whose WAIT is not yet known, while nothing else held the rope, and while something did (R89); `overrun`: the rope had gone past the T of
an entry before it came, which R89 rules out; `stop`: the tick before which it issues nothing, since a trap hold has not taken effect (R380).
DEDUCED: log 19. -/
structure Queue where
  entries : List Entry
  base : Option Nat
  nextT : Nat
  wait : Wait
  loop : Option Loop
  route : Option BodyRoute
  susp : Option Suspended
  lagging : Bool
  slot : Nat
  needAlign : Bool
  halting : Bool
  realign : Bool
  issued : List Entry
  lack : Nat × Nat
  overrun : Bool
  stop : Nat
deriving DecidableEq, Repr

/-- The carder (R201): busy, slot, segment, step, next word position, batt unit, total length, issue tick, lane states, the
restart point of the phase (R199), and whether a step met an error, after which it writes nothing until the cancel (R361). -/
structure Carder where
  busy : Bool
  slot : Nat
  seg : Nat
  step : Nat
  pos : Nat
  unit : Nat
  total : Nat
  issued : Nat
  lanes : List Nat
  restart : Option (Nat × Nat)
  dead : Bool
deriving DecidableEq, Repr, Inhabited

/-- A codebook slot (R187, R188): loaded flag, the 256 frequencies, their sum. -/
structure Codebook where
  loaded : Bool
  freq : List Nat
  sum : Nat
deriving DecidableEq, Repr

/-- A fault found and not yet taken (R203, R207): code, subcode, value, source (0 control, 1 L, 2 M, 3 V, 4 S), slot, micro-PC,
tick, whether it arrived while a handler ran (R203), and the instruction that it names, if it names one (R205). -/
structure PendingFault where
  code : Nat
  sub : Nat
  value : Word
  source : Nat
  slot : Nat
  upc : Nat
  tick : Nat
  nested : Bool
  tpc : Option Word
deriving DecidableEq, Repr

/-- A control-core access that has left the core and not performed (R140, R265). -/
inductive AccessKind where
  | load (d : Reg) (bytes : Nat) (signed : Bool)
  | store (bytes : List Byte)
  | amo (op : AmoOp) (d : Reg) (bytes : Nat) (opB opD : Word)
  | poll (bytes : Nat)
  /-- Bytes at a virtual address, for an instruction that reads many at once (R134). -/
  | inbox (va bytes : Nat)
deriving DecidableEq, Repr

/-- Where a control-core access goes, with its checks passed (R127, R378). -/
inductive Place where
  | global (va pa : Nat) (durable : Bool)
  | peer (va entry offset : Nat)
  | cluster (off : Nat)
  | tile (off : Nat)
  | spill (off : Nat)
deriving DecidableEq, Repr

/-- An outstanding control-core access: number, class, place, kind, the generation it left with (R60), and the number of the
message that carries it to another package. `bad`: it met an error that could not be corrected (R228). `pc`: its instruction (R205); `tick`: the
rope tick on which it left (R356); `asid`: the ASID that it was translated under, if it was (R133). -/
structure Access where
  id : Nat
  cls : Nat
  place : Place
  kind : AccessKind
  gen : BitVec 24
  sent : Option Nat
  bad : Bool
  pc : Word
  tick : Nat
  asid : Option Nat
deriving DecidableEq, Repr

/-- A `k.wfe` in progress (R282): its start, whether a read is out, the value read and the `gtc` it came back. -/
structure Wfe where
  start : Word
  reading : Bool
  value : Option Word
  back : Word
deriving DecidableEq, Repr

/-- A phase whose header has passed in every core (R93, R349): its base, sets, untimed flag, mask, and whether it gives an engine a
write range over one of its own read ranges (R233). -/
structure PhaseStart where
  base : Nat
  sets : List (List Nat)
  timed : Bool
  mask : BitVec 4
  own : Bool
deriving DecidableEq, Repr

/-- An A element on an east link (R115, R324): the tick on which it reaches the neighbour's PE row, the one on which it would have without the
delay of its sender (R380), the PE row, which of the A rows that share a tick at rate 2 it is of, the code, and the A scales of its row. -/
structure LinkCode where
  tick : Nat
  nominal : Nat
  row : Nat
  half : Nat
  code : BitVec 16
  sa0 : Nat
  sa1 : Nat
deriving DecidableEq, Repr

/-- A sum on a south link (R115, R324): its two ticks, the PE column, which of the A rows that share a tick at rate 2 it is of, and the value. -/
structure LinkSum where
  tick : Nat
  nominal : Nat
  col : Nat
  half : Nat
  value : Lane
deriving DecidableEq, Repr

/-- What the base of a phase with mask 0xF records for replay (R231), with the queues as they stood there. -/
structure Restart where
  base : Nat
  tokens : List Nat
  vrb : BitVec 6
  loops : List (Option Loop)
  mstatus : List Status
  vstatus : Status
  katc : Word
  carder : Carder
  flights : List Flight
  busy : List Nat
  sets : List (List Nat)
  timed : List Bool
  refetch : List Job
  active : Bool
  planeUse : Nat × Nat
  planes : List (Nat × BitVec 16) × List (Nat × BitVec 16)
  planeScales : List (Nat × Byte) × List (Nat × Byte)
deriving DecidableEq, Repr

/-- How far a scan instruction is (R218): it has arrived, and waits its turn or for the bytes of an image; or it is under way. -/
inductive ScanStage where
  | turn
  /-- The freeze of a rope (R213). -/
  | frz (rope : RopeKey)
  /-- The image has been written, and waits for the acceptance of its units: its length (R162, R216). -/
  | out (len : Nat)
deriving DecidableEq, Repr

/-- A scan instruction of a core that has arrived and not completed (R213, R216 to R218): its rectangle word, its place in the order of arrival,
and how far it is. -/
structure ScanWait where
  rect : Word
  ticket : Nat
  stage : ScanStage
deriving DecidableEq, Repr

/-- One core: control core (R108), special registers (R256), stores (R116 to R124), engines (R109 to R112), the links that it drives (R114), and
what it waits for. `wrote`: the MRF entries, VRF lanes and predicate bits that its phase has written; `opens`: those that a replay finds so and
has not written again, with what it reads there (R234). `lacked`: the hold and stall ticks that count for entries that its rope lacks, until their T is known (R89, R98).
`moving`: the units of HBM that the instruction at the pc, which reads or writes a range, has still to move (R13). `inbox`: what another package has answered to the instruction at the pc that reads a range (R134). `haltIn`: a handler routed the
`y.halt` of the launch (R364). -/
structure Core where
  tag : Option (Nat × BitVec 24)
  rope : Option RopeKey
  run : Nat
  fenced : Bool
  halted : Bool
  stopped : Bool
  s : Vector Word 32
  b : Vector Word 8
  pc : Word
  level : BitVec 2
  prev : BitVec 2
  handler : Bool
  holdc : Word
  stallc : Word
  katc : Word
  dom1 : Word
  dom2 : Word
  dom3 : Word
  dom4 : Word
  tvec : Word
  tcause : Word
  tpc : Word
  tval : Word
  tinfo : Word
  tsave : Word
  scom : Word
  shbase : Word
  shlim : Word
  dbgc : Word
  dbga : Word
  vrb : BitVec 6
  fmtq : List Word
  spill : List (Nat × Byte)
  tile : List (Nat × Byte)
  batt : List (Nat × Byte)
  im : List (Nat × Byte)
  codebooks : List Codebook
  carder : Carder
  planes : List (Nat × BitVec 16) × List (Nat × BitVec 16)
  planeScales : List (Nat × Byte) × List (Nat × Byte)
  active : Bool
  planeUse : Nat × Nat
  stream : List (Nat × Nat × BitVec 16)
  used : Bool × Bool × Bool
  east : List LinkCode
  south : List LinkSum
  mrf : List (Nat × Lane)
  vrf : List (Nat × Lane)
  preds : Vector Word 16
  mstatus : List Status
  vstatus : Status
  queues : List Queue
  flights : List Flight
  tokens : List Nat
  busy : List Nat
  sets : List (List Nat)
  timed : List Bool
  starts : List PhaseStart
  yields : List Nat
  yieldPcs : List Word
  haltIn : Bool
  seq : Nat
  fetched : List Job
  fetching : List Job
  replayable : Bool
  restart : Option Restart
  wrote : List Nat
  opens : List (Nat × Word)
  tlb : List TlbEntry
  accesses : List Access
  inbox : List (Nat × List Byte)
  wfe : Option Wfe
  pending : List PendingFault
  dbgEvent : Option (Bool × BitVec 13)
  bars : List Nat
  signals : List (Nat × Nat)
  segments : BitVec 10
  scanTicks : List Nat
  scan : Option ScanWait
  moving : Option (List Nat)
  lacked : Nat × Nat
  ports : List (Nat × Nat)
  portTime : Word
  brkHit : Bool
deriving DecidableEq, Repr, Inhabited

/-! ## Ropes -/

/-- Kinds of hold cause (R96). -/
inductive HoldKind where
  | conflict | refresh | gather | late | stretch | trap | replay
  /-- A take found the counter of this number at 0 (R91). -/
  | token (counter : Nat)
deriving DecidableEq, Repr

/-- A hold cause (R96): core, kind, rope tick before which it is inserted, ticks left (none: until it is released),
and whether it counts in the core's `stallc` (R98). DEDUCED: log 19. -/
structure Hold where
  core : Nat
  kind : HoldKind
  due : Nat
  left : Option Nat
  stall : Bool
deriving DecidableEq, Repr

/-- A launch that waits or runs (R53, R79, R102): serial number, its LAUNCH command, image handle, argument, completion event,
rows loaded, `gtc` of start, first base, and the record of its faults. `failed`: it has ended faulted, and waits for its accesses (R208, R214). `adopted`: a thaw set it running from images, without a command
(R215). `holds` and `stalls` (R98): its hold ticks, and the stall ticks of those of its cores that a next launch already has (R86). -/
structure Launch where
  id : Nat
  cmd : Cmd
  handle : Nat
  event : Nat
  arg : Word
  rows : List Nat
  started : Word
  firstBase : Word
  aligned : Bool
  firstCode : Nat
  firstSub : Nat
  firstCore : Nat
  faults : Nat
  failed : Bool
  adopted : Bool
  holds : Word
  stalls : Nat
deriving DecidableEq, Repr

/-- Whether a rope is frozen or about to be (R213): running, sealed until tick Z for a core (or the dispatcher), frozen, and
frozen with a thaw that a core asked for. -/
inductive Freezing where
  | no
  | sealed (z : Nat)
  | frozen
  | thawing (ticks : Nat)
deriving DecidableEq, Repr

/-- An eviction in progress (R104): its command, the `gtc` from which its grace period runs, and whether its end has frozen the rope. -/
structure Evict where
  cmd : Cmd
  since : Word
  froze : Bool
deriving DecidableEq, Repr

/-- A phase that an error cancels (R232): the rope tick E of the detection, the error, the number of its record in the log, and
whether the commit point of the phase has passed (R235). `owed`: the phase has been restored and its refetch waits for other packages (R337, R360):
the preamble ticks to the last write so far, and those that have passed. -/
structure Cancel where
  tick : Nat
  error : ErrorReport
  record : Nat
  passed : Bool
  owed : Option (Nat × Nat)
deriving DecidableEq, Repr

/-- A rope (R79 to R82, R57). `table`: its shape table as its last ended launch left it (R75).
`last`: the launch that `lastStart` is of. `absence`: the packages whose proxy absence tokens are in for its level-4 barrier, and whether this package
has sent one (R106). -/
structure Rope where
  key : RopeKey
  asid : Bool
  origin : Nat
  width : Nat
  height : Nat
  strict : Bool
  hdly : Nat
  offset : Nat
  slots : Nat
  classes : List Nat
  alloc : BitVec 16
  rtick : Nat
  holds : List Hold
  running : Option Launch
  incoming : Option Launch
  queue : List Launch
  freezing : Freezing
  whole : Bool
  captured : Nat
  breach : Bool
  last : Nat
  lastStart : Word
  lastEnd : Word
  evict : Option Evict
  evicted : Option Launch
  yields : Nat
  barrier4 : Option (Nat × Bool)
  cancel : Option Cancel
  replaying : Bool
  lastError : Option (Nat × Nat)
  fenced : Bool
  peers : List Nat
  quiet : Word
  table : Option (List Byte)
  absence : List Nat × Bool
deriving DecidableEq, Repr

/-! ## Host side -/

/-- Ring states (R38). -/
inductive RingState where
  | closed | running | lapped
deriving DecidableEq, Repr

/-- A request under way that an invalidation waits for (R133): an access of a core; a flight, with the tick on which it was issued, or the message that it
leaves as; or a message to another package. -/
inductive Request where
  | access (core id : Nat)
  | flight (core id issued : Nat)
  | message (id : Nat)
deriving DecidableEq, Repr

/-- A consumed command that has not completed (R45): whether and when it started, whether its effect has taken place (R46, R83), and the
requests that it still waits for (R133). `verdict`: what the begin of a Reserved command's slot found, as the status that it then has: 0 where it
starts (R45). `moving`: the units of HBM that it has still to move (R13). -/
structure Pending where
  cmd : Cmd
  started : Bool
  start : Word
  effect : Bool
  waits : List Request
  verdict : Option Nat
  moving : Option (List Nat)
deriving DecidableEq, Repr

/-- A response that waits for room in its ring (R47). -/
structure Response where
  cmd : Cmd
  status : Nat
  start : Word
  fin : Word
  result : Nat
deriving DecidableEq, Repr

/-- A program image copy (R52): the address given to LOAD, its bytes, the digest of the whole image. -/
structure Image where
  va : Nat
  bytes : List Byte
  length : Nat
  digest : List Byte
deriving DecidableEq, Repr

/-- A virtual interface (R34 to R49). -/
structure Iface where
  bound : Option (Word × BitVec 16)
  ring : List (Nat × BitVec 512)
  responses : List (Nat × BitVec 512)
  cwp : Nat
  crp : Nat
  swp : Nat
  srp : Nat
  lastgood : BitVec 32
  waiting : Bool
  state : RingState
  lappedClosed : Bool
  events : Nat
  commands : List Pending
  replies : List Response
  images : List (Nat × Image)
  weights : Nat × Nat × Nat
  dropped : Nat
  refusals : Nat
  closing : Option Cmd
deriving DecidableEq, Repr

/-- The rotation of one class (R85): the interface last visited, and the visits still to make, with the starts left in each. -/
structure Rotation where
  last : Nat
  plan : List (Nat × Nat)
deriving DecidableEq, Repr

/-- Kinds of wheel slot that differ from Open (R13). Slot 63 is Refresh, and no other slot is: whether firmware may give another one that kind the
spec does not say. DESIGN CHOICE: log 10. -/
inductive SlotKind where
  | strict (rope : RopeKey)
  | scan (world : Nat)
deriving DecidableEq, Repr

/-- A record of the error log (R230). -/
structure ErrorRecord where
  kind : Nat
  store : Nat
  core : Nat
  world : Nat
  gtc : Word
  addr : Nat
  rtick : Nat
deriving DecidableEq, Repr

/-- What the board controller reads over I3C (R21, R230): temperature and power as measured, the reset cause, and the records of the error
log. -/
structure I3cReport where
  temperature : Nat
  power : Nat
  resetCause : Nat
  log : List (List Byte)
deriving DecidableEq, Repr

/-- A message that has left for another package and is not acknowledged (R134, R151, R153). `flight`: the engine read that waits
for it, the first half-byte of its data that it fills, and how (0 whole bytes, 1 the low nibble, 2 the high nibble); `va`: the local
virtual address of a read; `after`: the writes that a signal releases (R150); `asid`: the ASID that it was translated under (R133). DEDUCED: log 72. -/
structure Outgoing where
  id : Nat
  entry : Nat
  offset : Nat
  kind : PeerKind
  rope : Option RopeKey
  core : Nat
  cls : Nat
  issued : Nat
  signal : Option (BitVec 16 × Nat)
  resent : Nat
  late : Option Reg
  flight : Option (Nat × Nat × Nat)
  va : Nat
  after : List Nat
  asid : Option Nat
deriving DecidableEq, Repr

/-- What this package answered to another (R134, R152): messages are numbered by each package. -/
inductive Reply where
  | data (pkg id : Nat) (bytes : List Byte)
  | applied (pkg id : Nat)
  | refused (pkg id : Nat)
  | notice (pkg : Nat) (src : SignalSource)
  /-- A proxy absence token to the level-4 barrier of a domain, or its withdrawal (R106). -/
  | absence (domain : Nat) (sent : Bool)
deriving DecidableEq, Repr

/-- What a host reads back: remote read data or a transport error (R36). -/
inductive HostReply where
  | data (iface : Nat) (bytes : List Byte)
  | done (iface : Nat)
  | transportError (iface : Nat)
  | dropped (iface : Nat)
deriving DecidableEq, Repr

/-- A signal that waits for its predecessors or for the writes it releases (R150, R152), and when it came. -/
structure Waiting where
  signal : Signal
  since : Word
deriving DecidableEq, Repr

/-- What a scan captured (R219, R221): the cores' states, the rope's tick, the `gtc`, and the rope's holds. The coded regions of an
image stand for it. DESIGN CHOICE: log 42. -/
structure Capture where
  id : Nat
  cores : List (Nat × Core)
  rtick : Nat
  gtc : Word
  holds : List Hold
deriving DecidableEq, Repr

/-- A crossing-table entry (R28). -/
structure Crossing where
  state : Nat
  measured : Nat
  pad : Nat
  arch : Nat
deriving DecidableEq, Repr

/-- A key slot of the fuses (R70). -/
structure KeySlot where
  rsaHash : List Byte
  slhHash : List Byte
  revoked : Bool
deriving DecidableEq, Repr

/-- Who acts next: data of the agenda. DESIGN CHOICE: log 1. -/
inductive Actor where
  /-- Nominal ticks pass (R30). -/
  | time (ticks : Nat)
  /-- The control core of a core begins its next instruction (R108). -/
  | core (id : Nat)
  /-- A rope passes one tick, held or not (R88, R96). -/
  | rope (key : RopeKey)
  /-- The same, where the entry that a queue lacks is not due yet: its T lies ahead (R89). -/
  | ahead (key : RopeKey)
  /-- The dispatcher starts its next command (R84). -/
  | dispatch
  /-- An event or command of the part, or one that the outside brings. -/
  | event (i : Instr)
  /-- An event of one core, at that core. -/
  | coreEvent (id : Nat) (i : Instr)
  /-- An event of one rope, at that rope. -/
  | ropeEvent (key : RopeKey) (i : Instr)
  /-- The data of an engine access is late (R90). -/
  | delay (core flight : Nat)
  /-- Units of HBM that an engine access moves go through the slots in force (R13). -/
  | serve (core flight : Nat)
  /-- A package sends a proxy absence token to a rope's level-4 barrier, or withdraws it (R106). -/
  | absence (key : RopeKey) (pkg : Nat) (sent : Bool)
  /-- A read of an engine takes the bytes that others wrote since its issue as they stand now (R144). -/
  | sample (core flight : Nat)
  /-- A wheel slot changes kind: firmware writes it (R13, R83). -/
  | wheel (pc slot : Nat) (kind : Option SlotKind)
  /-- A CXL link comes back up (R161). -/
  | linkUp (port : Nat)
  /-- The device reports that a durable write failed (R161). -/
  | durableFail (id : Nat)
deriving DecidableEq, Repr

/-- A write of a rope to global memory while reads of engines are under way (R144): its addresses, the rope, and `State.serial` when it
performed, which orders it with the flights. -/
structure OwnWrite where
  cells : List Nat
  rope : RopeKey
  serial : Nat
deriving DecidableEq, Repr

/-- Bytes of global memory that a rope wrote in a phase that has been replayed (R234), until `left` further phases have begun. -/
structure Taint where
  rope : RopeKey
  cells : List Nat
  left : Nat
deriving DecidableEq, Repr

/-- Where the machine is: the core, rope and queue that act, and the instance that issues (R60: the tag is the rope's). DESIGN CHOICE: log 69. -/
structure Current where
  core : Nat
  rope : RopeKey
  job : Job
deriving DecidableEq, Repr

/-- The whole part. -/
structure State where
  powered : Bool
  started : Bool
  pwrgd : Bool
  alert : Bool
  degraded : Bool
  gtc : Word
  free : Nat
  serial : Nat
  agenda : List Actor
  cur : Current
  mem : List (Nat × Byte)
  keys : List (Nat × KeyTag)
  poison : List Nat
  durable : List DurableWrite
  durableBase : List (Nat × UnitWrite)
  hdm : List HdmRange
  present : List Nat
  closedPorts : List Nat
  downLinks : List (Nat × Word)
  resetCause : Nat
  crossings : List Crossing
  formats : BitVec 13
  fuses : List KeySlot
  rollback : Nat
  firmware : Firmware
  worlds : List (Nat × World)
  identities : List (Nat × Nat)
  asids : List (Nat × Asid)
  peers : List (Nat × PeerEntry)
  clusterTlb : List (Nat × List TlbEntry)
  wheels : List (Nat × SlotKind)
  moved : List (Nat × Nat)
  scanSlots : List (Cmd × List Nat)
  classHolders : List (Nat × RopeKey)
  steps : List Nat
  mode : Nat
  ifaces : List (Nat × Iface)
  rotations : Rotation × Rotation × Rotation
  ropes : List Rope
  cores : List (Nat × Core)
  store : List (Nat × Byte)
  regionTags : List (Nat × Nat × BitVec 24)
  allocNext : BitVec 16
  errors : List ErrorRecord
  outgoing : List Outgoing
  replies : List Reply
  hostReplies : List HostReply
  signalRecords : List (SignalSource × BitVec 16 × Nat)
  waitingSignals : List Waiting
  applied : List (Nat × Nat)
  requests : List (Instr × List Nat)
  captures : List Capture
  stepGtc : List Word
  ownWrites : List OwnWrite
  phaseWrites : List (RopeKey × Nat × List Nat)
  tainted : List Taint
  boots : Nat
  disabled : List (Nat × Nat)
  i3c : List I3cReport
deriving DecidableEq, Repr

/-! ## Clear and reset values -/

/-- A queue of a cleared core: empty, with no base (R61, R377). -/
def Queue.empty : Queue :=
  { entries := [], base := none, nextT := 0, wait := .none, loop := none, route := none, susp := none, lagging := false,
    slot := 0, needAlign := false, halting := false, realign := false, issued := [], lack := (0, 0), overrun := false, stop := 0 }
/-- An idle carder (R61). -/
def Carder.idle : Carder :=
  { busy := false, slot := 0, seg := 0, step := 0, pos := 0, unit := 0, total := 0, issued := 0,
    lanes := List.replicate 16 0, restart := none, dead := false }
/-- An empty codebook slot (R189). -/
def Codebook.empty : Codebook := { loaded := false, freq := List.replicate 256 0, sum := 0 }

/-- `dom1` to `dom3` before the loader fills them: valid (R99). DESIGN CHOICE: log 4. -/
def domUnfilled : Word := 0x8000000000000000

/-- A cleared core: every store, queue and register zero (R61), `p0` all ones (R118), each reset value of its register table
(R98, R99, R139, R184, R202, R204, R226, R237), and `s`, `b` and `pc` zero until a launch (log 5). DESIGN CHOICE: log 4. -/
def Core.clear : Core :=
  { tag := none, rope := none, run := 0, fenced := false, halted := false, stopped := true,
    s := Vector.replicate 32 0, b := Vector.replicate 8 0, pc := 0, level := 1, prev := 0, handler := false,
    holdc := 0, stallc := 0, katc := 0, dom1 := domUnfilled, dom2 := domUnfilled, dom3 := domUnfilled, dom4 := 0, tvec := 0, tcause := 0, tpc := 0,
    tval := 0, tinfo := 0, tsave := 0, scom := 0, shbase := 0, shlim := 0, dbgc := 0, dbga := 0, vrb := 0, fmtq := [],
    spill := [], tile := [], batt := [], im := [], codebooks := List.replicate 4 .empty, carder := .idle,
    planes := ([], []), planeScales := ([], []), active := false, planeUse := (0, 0), stream := [], used := (false, false, false), east := [], south := [],
    mrf := [], vrf := [], preds := Vector.replicate 16 0, mstatus := List.replicate 8 .none, vstatus := .none,
    queues := List.replicate 4 .empty, flights := [], tokens := List.replicate 6 0, busy := List.replicate 6 0,
    sets := List.replicate 8 [], timed := [false, false, false, false], starts := [], yields := [0, 0, 0, 0], yieldPcs := [], haltIn := false, seq := 0, fetched := [], fetching := [],
    replayable := false, restart := none, wrote := [], opens := [], tlb := [], accesses := [], inbox := [], wfe := none, pending := [], dbgEvent := none, bars := [], signals := [],
    segments := 0, scanTicks := [], scan := none, moving := none, lacked := (0, 0), ports := [], portTime := 0, brkHit := false }

/-- A world right after reset: generation 0 (R67), the first draw of its key, nothing bound (R63). -/
def World.fresh : World := { gen := 0, draw := 0, identity := none, asid0 := none, asid1 := none }

/-- An interface right after reset: unbound and closed (R37 to R39). -/
def Iface.fresh : Iface :=
  { bound := none, ring := [], responses := [], cwp := 0, crp := 0, swp := 0, srp := 0, lastgood := 0xFFFFFFFF,
    waiting := false, state := .closed, lappedClosed := false, events := 0, commands := [], replies := [], images := [],
    weights := (1, 1, 1), dropped := 0, refusals := 0, closing := none }

/-- The instance before anything has issued. -/
def Job.idle : Job :=
  { entry := { ins := .kNop, slot := 0, va := 0, vb := 0, shape := none, fmt := 0, fixedT := none, body := none,
               pc := 0, seq := 0 },
    q := 0, t := 0, seq := 0, iter := 0, tileStep := 0, phase := 0, reads := [], writes := [], timed := true, arg := 0, lag := 0 }

/-- The engine state that a scan-in leaves when no capture wrote its coded regions (R218: not defined), by a counter. DESIGN CHOICE: log 42. DEDUCED: log 75. -/
opaque freeCore : Nat → Core

/-- The part right after a full reset with every stack present, no CXL device, and every crossing calibrated (R26, R31, R32);
interface 0 bound as the firmware image names (R55), which
has passed its checks; every slot of a wheel below 63 is Open, since firmware, which writes their kinds, has written none (R13: the kinds right after
reset are not given). What a later reset finds outside (firmware, devices, measurements) is brought by POWER_ON and RESET_N (log 3). DESIGN CHOICE: log 10, log 13. DEDUCED: log 54. -/
def State.reset : State :=
  { powered := true, started := true, pwrgd := true, alert := false, degraded := false, gtc := 0, free := 0, serial := 1,
    agenda := [], cur := { core := 0, rope := { world := 0, num := 0 }, job := .idle }, mem := [], keys := [], poison := [],
    durable := [], durableBase := [], hdm := [], present := List.range 16, closedPorts := [], downLinks := [],
    resetCause := 0,
    crossings := (List.range 112).map fun i =>
      if i < 96 then { state := 0, measured := 6, pad := 0, arch := 6 } else { state := 0, measured := 24, pad := 0, arch := 24 },
    formats := 0x1FFF, fuses := (List.range 4).map fun k => { rsaHash := Config.keyHash k false, slhHash := Config.keyHash k true, revoked := Config.revokeFuse k },
    rollback := 0, firmware := Config.firmware, worlds := [], identities := [], asids := [],
    peers := [], clusterTlb := [], wheels := [], moved := [], scanSlots := [], classHolders := [], steps := [0, 0, 0, 0], mode := 0,
    ifaces := [(0, { Iface.fresh with bound := some (Config.firmwareBinding (Config.firmware.header ++ Config.firmware.body)) })],
    rotations := ({ last := 255, plan := [] }, { last := 255, plan := [] }, { last := 255, plan := [] }), ropes := [], cores := [],
    store := [], regionTags := [], allocNext := BitVec.ofNat 16 (Config.freeNat 0), errors := [], outgoing := [], replies := [],
    hostReplies := [], signalRecords := [], waitingSignals := [], applied := [], requests := [], captures := [], stepGtc := [0, 0, 0, 0], ownWrites := [], phaseWrites := [],
    tainted := [], boots := 0, disabled := [], i3c := [] }

end Sys2Proof.Machine
end

