-- ==== Sys2Proof/Machine/Memory.lean ====
section
/-! DEFINITION. Global memory: keys (R63 to R68), media (R131, R134), durable units (R154 to R164), poison (R135),
the page walk (R129, R130), rights (R131) and the TLBs (R132). -/
namespace Sys2Proof.Machine

/-! ## Worlds and keys -/

/-- A world's record. -/
def State.world (s : State) (w : Nat) : World := (find s.worlds w).getD .fresh
/-- Set a world's record. -/
def State.setWorld (s : State) (w : Nat) (x : World) : State := { s with worlds := insert s.worlds w x }
/-- The world tag in force for a world (R60): its generation. -/
def State.gen (s : State) (w : Nat) : BitVec 24 := (s.world w).gen
/-- The key of a world's units outside durable pages (R63, R64): no reset leaves it (R31). -/
def State.worldKey (s : State) (w : Nat) : KeyTag :=
  { durable := false, owner := w, gen := (s.world w).gen.toNat, draw := (s.world w).draw, boot := s.boots }
/-- The durable generation of an identity (R155). -/
def State.durableGen (s : State) (i : Nat) : Nat := (find s.identities i).getD 0
/-- The key of a durable unit of a world, if the world has an identity (R155, R376). -/
def State.durableKey (s : State) (w : Nat) : Option KeyTag :=
  (s.world w).identity.map fun i => { durable := true, owner := i, gen := s.durableGen i, draw := 0, boot := 0 }
/-- The key under which a world reads and writes a page. -/
def State.keyFor (s : State) (w : Nat) (durable : Bool) : KeyTag :=
  if durable then (s.durableKey w).getD (s.worldKey w) else s.worldKey w

/-! ## Physical memory -/

/-- The HDM range that holds an address, if it is mapped. -/
def State.hdmAt (s : State) (pa : Nat) : Option HdmRange :=
  s.hdm.find? fun h => h.trained && decide (h.base ≤ pa) && decide (pa < h.base + h.size)
/-- The medium at a physical address. PRESUMED: log 10. -/
def State.medium (s : State) (pa : Nat) : Medium :=
  if pa / 2 ^ 44 = 15 then .peer
  else if pa < Config.hbmBytes then (if s.present.contains (pa / Config.stackBytes) then .hbm else .none)
  else match s.hdmAt pa with
    | some h => if h.persistent then .durable else .cxl
    | none => .none

/-- One byte as read under a key (R66): the byte written under that key, else a free value. DESIGN CHOICE: log 6. DEDUCED: log 8. -/
def State.readByte (s : State) (k : KeyTag) (pa : Nat) : Byte :=
  if find s.keys (pa / 64) = some k then (find s.mem pa).getD (Config.freeByte s.free pa) else Config.freeByte s.free pa
/-- Consecutive bytes under a key. -/
def State.readBytes (s : State) (k : KeyTag) (pa n : Nat) : List Byte := (List.range n).map fun i => s.readByte k (pa + i)

/-- Memory without the bytes of one unit. DEDUCED: log 8. -/
def dropUnit (m : List (Nat × Byte)) (u : Nat) : List (Nat × Byte) := m.filter fun e => e.1 / 64 != u
/-- Write one byte under a key: a unit that stood under another key keeps none of its other bytes (R63, R66). DEDUCED: log 8. -/
def State.writeByte (s : State) (k : KeyTag) (pa : Nat) (b : Byte) : State :=
  if find s.keys (pa / 64) = some k then { s with mem := insert s.mem pa b }
  else { s with mem := insert (dropUnit s.mem (pa / 64)) pa b, keys := insert s.keys (pa / 64) k }
/-- Write cells under a key, in order. -/
def State.writeCells (s : State) (k : KeyTag) (cells : List (Nat × Byte)) : State :=
  cells.foldl (fun s c => s.writeByte k c.1 c.2) s
/-- The written bytes of a unit, by offset. -/
def State.unitBytes (s : State) (u : Nat) : List (Nat × Byte) :=
  (s.mem.filter fun e => e.1 / 64 == u).map fun e => (e.1 % 64, e.2)

/-! ## Durable units -/

/-- Who makes a durable write, for the barriers that wait for it (R159, R160): a virtual address and the physical one it maps to. -/
structure Origin where
  va : Nat
  pa : Nat
  core : Option Nat
  engine : Bool
  cls : Nat
  issued : Nat
  image : Bool
deriving DecidableEq, Repr

/-- Log one write to a durable unit (R157), keeping the content that stood before the first logged write. -/
def State.logDurable (s : State) (o : Origin) (k : KeyTag) (cells : List (Nat × Byte)) (u : Nat) : State :=
  let base := match find s.durableBase u with
    | some _ => s.durableBase
    | none => insert s.durableBase u { key := (find s.keys u).getD k, bytes := s.unitBytes u }
  let d : DurableWrite :=
    { id := s.serial, unit := u, va := o.va + 64 * u - o.pa, core := o.core, engine := o.engine, cls := o.cls, issued := o.issued,
      accepted := false, failed := false, lapsed := false, image := o.image,
      write := { key := k, bytes := (cells.filter fun c => c.1 / 64 == u).map fun c => (c.1 % 64, c.2) } }
  { s with durableBase := base, serial := s.serial + 1, durable := s.durable ++ [d] }
/-- Units that cells touch, in order of first touch. -/
def unitsOf (cells : List (Nat × Byte)) : List Nat := (cells.map fun c => c.1 / 64).eraseDups
/-- Write cells at their target under a world's key, logging the units of durable pages (R157). -/
def State.store_ (s : State) (w : Nat) (durable : Bool) (o : Origin) (cells : List (Nat × Byte)) : State :=
  let k := s.keyFor w durable
  let s := if durable then (unitsOf cells).foldl (fun s u => s.logDurable o k cells u) s else s
  s.writeCells k cells
/-- One unit's content after a write to it. -/
def UnitWrite.after (base : UnitWrite) (w : UnitWrite) : UnitWrite :=
  { key := w.key, bytes := w.bytes.foldl (fun m c => insert m c.1 c.2) (if base.key = w.key then base.bytes else []) }
/-- Fold the writes of a unit up to a number into its base: a completed barrier covers them (R164 item 1). -/
def State.coverUpTo (s : State) (u id : Nat) : State :=
  let done := s.durable.filter fun d => d.unit == u && decide (d.id ≤ id)
  let rest := s.durable.filter fun d => !(d.unit == u && decide (d.id ≤ id))
  { s with durable := rest,
           durableBase := match find s.durableBase u with
             | some b => if rest.any (fun d => d.unit == u) then insert s.durableBase u (done.foldl (fun b d => b.after d.write) b)
                         else remove s.durableBase u
             | none => s.durableBase }
/-- Mark the writes a completed barrier covered (R164): each accepted one and every earlier write of its unit. -/
def State.cover (s : State) (p : DurableWrite → Bool) : State :=
  (s.durable.filter p).foldl (fun s d => s.coverUpTo d.unit d.id) s
/-- The content of a unit after its base and the first n logged writes (R157). -/
def State.recoverUnit (s : State) (u n : Nat) : Option UnitWrite :=
  match find s.durableBase u with
  | some b => some (((s.durable.filter fun d => d.unit == u).take n).foldl (fun b d => b.after d.write) b)
  | none => none

/-! ## Poison -/

/-- Whether a range touches a poisoned 4 KiB granule (R135). -/
def State.poisoned (s : State) (pa n : Nat) : Bool :=
  s.poison.any fun g => decide (g * 4096 < pa + n) && decide (pa < (g + 1) * 4096)

/-! ## The page walk -/

/-- A page-table entry's fields (R130). -/
def pteFault (e : Nat) (level : Nat) : Bool :=
  let addr := e / 2 ^ 8 % 2 ^ 40 * 2 ^ 8
  let leaf := e / 2 % 2 == 1
  e % 2 == 0 || e / 2 ^ 48 != 0 || (level == 0 && leaf) || (level == 3 && !leaf)
    || (if leaf then addr % (if level = 1 then 2 ^ 30 else if level = 2 then 2 ^ 21 else 2 ^ 16) != 0
        else addr % (if level = 0 then 2 ^ 12 else if level = 1 then 2 ^ 12 else 2 ^ 8) != 0)

/-- Bits of the virtual address that a level indexes: low bit and count (R129). -/
def levelShift (level : Nat) : Nat := if level = 0 then 39 else if level = 1 then 30 else if level = 2 then 21 else 16
/-- Entries of a table of a level (R129). -/
def levelEntries (level : Nat) : Nat := if level = 0 then 8192 else if level = 3 then 32 else 512

/-- One walk, from a table at a level, reading as world 0 (R129): none is fault 0x08. -/
def State.walkFrom (s : State) (asid va : Nat) : Nat → Nat → Nat → Option TlbEntry
  | 0, _, _ => none
  | fuel + 1, level, table =>
    let e := leNat (s.readBytes (s.worldKey 0) (table + 8 * (va / 2 ^ levelShift level % levelEntries level)) 8)
    let addr := e / 2 ^ 8 % 2 ^ 40 * 2 ^ 8
    if pteFault e level then none
    else if e / 2 % 2 = 1 then
      some { asid := asid, va := va / 2 ^ levelShift level * 2 ^ levelShift level, size := 2 ^ levelShift level,
             pa := addr, bits := BitVec.ofNat 8 e }
    else s.walkFrom asid va fuel (level + 1) addr
/-- The walk of an on-chip ASID (R129, R382). -/
def State.walk (s : State) (asid : Option Nat) (va : Nat) : Option TlbEntry :=
  match asid with
  | none => none
  | some a => match find s.asids a with
    | none => none
    | some t => if va < 2 ^ 52 then s.walkFrom a va 4 0 t.table else none

/-- Whether a translation maps an address. -/
def TlbEntry.maps (e : TlbEntry) (asid va : Nat) : Bool := e.asid == asid && decide (e.va ≤ va) && decide (va < e.va + e.size)
/-- The physical address under a translation. -/
def TlbEntry.phys (e : TlbEntry) (va : Nat) : Nat := e.pa + (va - e.va)
/-- The durable bit of R130. -/
def TlbEntry.durable (e : TlbEntry) : Bool := e.bits.getLsbD 5

/-- What an access wants (R131). -/
inductive Want where
  | read | write | coded | image | readWrite
deriving DecidableEq, Repr

/-- The rights checks of R131 with the peer rules of R134 and the identity of R376: none passes, some code fails. DEDUCED: log 26. -/
def State.rightsFault (s : State) (w : Nat) (level : Nat) (want : Want) (e : TlbEntry) (pa : Nat) : Bool :=
  let med := s.medium pa
  (e.bits.getLsbD 7 && decide (level < 2))
    || (match want with
        | .read => !e.bits.getLsbD 2
        | .coded => !e.bits.getLsbD 2
        | .write => !e.bits.getLsbD 3
        | .readWrite => !e.bits.getLsbD 2 || !e.bits.getLsbD 3
        | .image => !e.bits.getLsbD 2 || !e.bits.getLsbD 4)
    || (e.bits.getLsbD 6 != (want == .coded))
    || med == .none
    || (e.durable != (med == .durable))
    || (med == .durable && (s.world w).identity.isNone)
    || (med == .peer && e.bits.getLsbD 6)
    || (med == .peer && (match find s.peers (pa / 2 ^ 36 % 256) with
        | some p => !p.valid || p.world != w
        | none => true))

/-- The on-chip ASID of a world's local ASID (R35, R382). -/
def State.onChip (s : State) (w : Nat) (local1 : Bool) : Option Nat :=
  if local1 then (s.world w).asid1 else (s.world w).asid0

/-- Translation and checks for a party without a TLB: the Borral endpoint, the dispatcher, a remote request (R36, R134).
Peer windows are the ropes' (R134: a request leaves on the rope's classes), and fail here (log 25). Interface 0 addresses memory physically (R55). `some` code is a failed check. DEDUCED: log 26. -/
def State.mapFor (s : State) (w va n : Nat) (want : Want) : Except Nat Mapped :=
  if w = 0 then
    if va < 2 ^ 48 ∧ va + n ≤ 2 ^ 48 ∧ s.medium va ≠ .none ∧ s.medium va ≠ .peer
    then .ok { pa := va, durable := false, medium := s.medium va } else .error 0x09
  else match s.walk (s.onChip w false) va with
    | none => .error 0x08
    | some e =>
      let pa := e.phys va
      if s.rightsFault w 2 want e pa ∨ s.medium pa = .peer then .error 0x09
      else .ok { pa := pa, durable := e.durable, medium := s.medium pa }

/-- The pieces of a range that lie in one 64 KiB page each: address and length. -/
def pieces : Nat → Nat → Nat → List (Nat × Nat)
  | 0, _, _ => []
  | fuel + 1, va, n =>
    if n = 0 then []
    else
      let k := min n (65536 - va % 65536)
      (va, k) :: pieces fuel (va + k) (n - k)

/-- Check every page of a range for such a party. DEDUCED: log 25. -/
def State.rangeOk (s : State) (w va n : Nat) (want : Want) : Bool :=
  decide (va + n ≤ 2 ^ 52) && (pieces (n / 65536 + 2) va n).all fun p => (s.mapFor w p.1 p.2 want).toOption.isSome
/-- Read a range for such a party, page by page. -/
def State.readFor (s : State) (w va n : Nat) : List Byte :=
  (pieces (n / 65536 + 2) va n).flatMap fun p =>
    match s.mapFor w p.1 p.2 .read with
    | .ok m => s.readBytes (s.keyFor w m.durable) m.pa p.2
    | .error _ => List.replicate p.2 0
/-- Whether a range touches poison for such a party, of what it may access so. -/
def State.poisonedAs (s : State) (w va n : Nat) (want : Want) : Bool :=
  (pieces (n / 65536 + 2) va n).any fun p =>
    match s.mapFor w p.1 p.2 want with
    | .ok m => s.poisoned m.pa p.2
    | .error _ => false
/-- Whether a range that is read touches poison. -/
def State.poisonedFor (s : State) (w va n : Nat) : Bool := s.poisonedAs w va n .read
/-- The origin of a host's write. -/
def hostOrigin (va pa : Nat) : Origin := { va := va, pa := pa, core := none, engine := false, cls := 0, issued := 0, image := false }
/-- Write a range for such a party, page by page. -/
def State.writeFor (s : State) (w va : Nat) (bytes : List Byte) : State :=
  (pieces (bytes.length / 65536 + 2) va bytes.length).foldl (fun s p =>
    match s.mapFor w p.1 p.2 .write with
    | .ok m => s.store_ w m.durable (hostOrigin p.1 m.pa) (cellsAt m.pa ((bytes.drop (p.1 - va)).take p.2))
    | .error _ => s) s

/-- Apply an atomic's operation to w-bit values (R273): the new value, or none where a compare fails. -/
def amoNew (op : AmoOp) (w : Nat) (old opB opD : Nat) : Option Nat :=
  let m := 2 ^ (8 * w)
  let sx (v : Nat) : Int := if v < m / 2 then (v : Int) else (v : Int) - m
  match op with
  | .add => some ((old + opB) % m)
  | .swap => some opB
  | .cas => if old = opD then some opB else none
  | .and => some (old &&& opB)
  | .or => some (old ||| opB)
  | .xor => some (old ^^^ opB)
  | .min => some (if sx old ≤ sx opB then old else opB)
  | .max => some (if sx opB ≤ sx old then old else opB)
  | .minn => some (min old opB)
  | .maxn => some (max old opB)
/-- The value an atomic returns (R273): sign-extended for min and max. -/
def amoResult (op : AmoOp) (w : Nat) (old : Nat) : Word :=
  if (op = .min ∨ op = .max) ∧ 2 ^ (8 * w - 1) ≤ old then BitVec.ofNat 64 (old + 2 ^ 64 - 2 ^ (8 * w)) else BitVec.ofNat 64 old

end Sys2Proof.Machine
end

