-- ==== Sys2Proof/Machine/Wheel.lean ====
section
/-! DEFINITION. The reservation wheels of the pseudo-channels (R12 to R14): the slot in force, who it serves, and how much it moves. -/
namespace Sys2Proof.Machine

/-- Who presents a request to a wheel (R13, R14): a strict rope, a scan image of a world, or anyone else. -/
inductive Requester where
  | strict (rope : RopeKey)
  | scan (world : Nat)
  | best
deriving DecidableEq, Repr

/-- The slot in force of every wheel (R13). -/
def State.slotInForce (s : State) : Nat := s.gtc.toNat / 8 % 64
/-- 64-byte units that one slot moves on its pseudo-channel (R13). -/
def slotUnits : Nat := 4
/-- Whether a slot of a wheel serves a requester (R13, R14): the Refresh slot 63 serves nobody, a Strict or Scan slot its holder only, an
Open slot best-effort traffic only. -/
def State.serves (s : State) (pc slot : Nat) (q : Requester) : Bool :=
  decide (slot < 63) && (match find s.wheels (pc * 64 + slot) with
    | none => q == .best
    | some (.strict k) => q == .strict k
    | some (.scan w) => q == .scan w)
/-- The `gtc` at which the service slot of a request that comes at a `gtc` begins (R14): the slot in force, or the next one that serves it. -/
def State.serviceSlot (s : State) (pc : Nat) (q : Requester) (g : Nat) : Option Nat :=
  ((List.range 64).find? fun k => s.serves pc ((g / 8 + k) % 64) q).map fun k => (g / 8 + k) * 8
/-- The pseudo-channel of a physical address in HBM (R12): its stack's, and one of the 64 of the stack. DESIGN CHOICE: log 10. -/
def channelOf (pa : Nat) : Nat := pa / Config.stackBytes * 64 + Config.pseudoChannel (pa % Config.stackBytes) % 64
/-- Units that a pseudo-channel has moved in the slot in force. -/
def State.movedIn (s : State) (pc : Nat) : Nat := (find s.moved pc).getD 0
/-- Whether the slot in force of a pseudo-channel has a unit left for a requester (R13, R14). -/
def State.roomFor (s : State) (pc : Nat) (q : Requester) : Bool := s.serves pc s.slotInForce q && decide (s.movedIn pc < slotUnits)
/-- A unit moves on a pseudo-channel. -/
def State.moveUnit (s : State) (pc : Nat) : State := { s with moved := insert s.moved pc (s.movedIn pc + 1) }
/-- The 64-byte units of HBM in a range of physical bytes (R13). -/
def State.unitsIn (s : State) (pa n : Nat) : List Nat :=
  ((List.range ((pa % 64 + n + 63) / 64)).map (pa / 64 + ·)).filter fun u => s.medium (64 * u) == .hbm
/-- The units of HBM in a range of a world's addresses (R13). -/
def State.unitsFor (s : State) (w va n : Nat) (want : Want) : List Nat :=
  (pieces (n / 65536 + 2) va n).flatMap fun p => match s.mapFor w p.1 p.2 want with
    | .ok m => if m.medium = .hbm then s.unitsIn m.pa p.2 else []
    | .error _ => []
/-- Units move as far as the slots in force have room for their requester, who may differ from pseudo-channel to pseudo-channel (R13, R14): the
state, and the units that wait for another slot. -/
def State.moveSome (s : State) (q : Nat → Requester) : List Nat → State × List Nat
  | [] => (s, [])
  | u :: r =>
    let pc := channelOf (64 * u)
    if s.roomFor pc (q pc) then (s.moveUnit pc).moveSome q r
    else
      let a := s.moveSome q r
      (a.1, u :: a.2)
/-- Whose a scan image of a world's ropes is on a wheel (R13, R14, R83): the world's where the wheel has a Scan slot of it, and else its reader's
or writer's, as any other request. DESIGN CHOICE: log 77. -/
def State.scanner (s : State) (w : Nat) (other : Requester) (pc : Nat) : Requester :=
  if (List.range 63).any fun p => find s.wheels (pc * 64 + p) == some (.scan w) then .scan w else other

end Sys2Proof.Machine
end

