-- ==== Sys2Proof/Machine/Ops.lean ====
section
/-! DEFINITION. Shared operations: cores, ropes, registers, responses and events, holds (R96), faults and their entry (R203),
the end of a launch (R101, R102, R208), and the return from a trap (R209). -/
namespace Sys2Proof.Machine

/-- The answer of `exec` and `step`. -/
abbrev Out := Host.Outcome State Fault Refusal

/-! ## Cores, interfaces and ropes -/

/-- A core's record. -/
def State.core (s : State) (id : Nat) : Core := (find s.cores id).getD .clear
/-- Set a core's record. -/
def State.setCore (s : State) (id : Nat) (c : Core) : State := { s with cores := insert s.cores id c }
/-- Change a core's record. -/
def State.onCore (s : State) (id : Nat) (f : Core → Core) : State := s.setCore id (f (s.core id))
/-- The core that acts. -/
def State.here (s : State) : Core := s.core s.cur.core
/-- Change the core that acts. -/
def State.setHere (s : State) (c : Core) : State := s.setCore s.cur.core c
/-- An interface's record. -/
def State.iface (s : State) (n : Nat) : Iface := (find s.ifaces n).getD .fresh
/-- Set an interface's record. -/
def State.setIface (s : State) (n : Nat) (i : Iface) : State := { s with ifaces := insert s.ifaces n i }
/-- Change an interface's record. -/
def State.onIface (s : State) (n : Nat) (f : Iface → Iface) : State := s.setIface n (f (s.iface n))

/-- A rope by its key. -/
def State.rope? (s : State) (k : RopeKey) : Option Rope := s.ropes.find? fun r => r.key == k
/-- Replace a rope's record. -/
def State.setRope (s : State) (r : Rope) : State := { s with ropes := s.ropes.map fun x => if x.key == r.key then r else x }
/-- Change a rope's record, if there is such a rope. -/
def State.onRope (s : State) (k : RopeKey) (f : Rope → Rope) : State :=
  match s.rope? k with
  | some r => s.setRope (f r)
  | none => s

/-- Column of a core on the package grid (R80). -/
def gridX (id : Nat) : Nat := id / 256 % 2 * 16 + id % 16
/-- Row of a core on the package grid (R80). -/
def gridY (id : Nat) : Nat := id / 256 / 2 * 16 + id / 16 % 16
/-- The core at a column and a row of the grid (R11, R80). -/
def coreAt (x y : Nat) : Nat := (y / 16 * 2 + x / 16) * 256 + y % 16 * 16 + x % 16
/-- The cores of a rectangle in row-major order (R51, R80). -/
def rectCores (origin w h : Nat) : List Nat :=
  (List.range (w * h)).map fun i => coreAt (gridX origin + i % w) (gridY origin + i / w)
/-- A rope's cores, by rope-local number. -/
def Rope.cores (r : Rope) : List Nat := rectCores r.origin r.width r.height
/-- A core's rope-local number (R51). -/
def Rope.localOf (r : Rope) (id : Nat) : Nat := (gridY id - gridY r.origin) * r.width + (gridX id - gridX r.origin)
/-- The cluster, which is also the ridge, of a core (R11, R99): die × 16 + cy × 4 + cx. -/
def clusterOf (id : Nat) : Nat := id / 256 * 16 + id / 64 % 4 * 4 + id / 4 % 4
/-- A core's index in its cluster (R124). -/
def clusterIndex (id : Nat) : Nat := id / 16 % 4 * 4 + id % 4
/-- The rope of a core. -/
def State.ropeOf (s : State) (id : Nat) : Option Rope :=
  match (s.core id).rope with
  | some k => s.rope? k
  | none => none
/-- The launch that a core runs, which may be the rope's incoming one (R86). -/
def State.launchOf (s : State) (id : Nat) : Option Launch :=
  match s.ropeOf id with
  | some r => match r.incoming with
    | some l => if l.id = (s.core id).run then some l else r.running
    | none => r.running
  | none => none
/-- The rope tick that a core sees (R98): 0 until every row of its launch has been loaded (R377). DEDUCED: log 18. -/
def State.rtick (s : State) (id : Nat) : Nat :=
  match s.ropeOf id with
  | some r => match r.incoming with
    | some l => if l.id = (s.core id).run then 0 else r.rtick
    | none => r.rtick
  | none => 0
/-- The hold delay of a core's rope (R98). -/
def State.hdly (s : State) (id : Nat) : Nat := match s.ropeOf id with | some r => r.hdly | none => 32
/-- The world of a core's rope. -/
def State.worldOf (s : State) (id : Nat) : Nat := match (s.core id).rope with | some k => k.world | none => 0
/-- The on-chip ASID that a core's accesses use. -/
def State.asidOf (s : State) (id : Nat) : Option Nat :=
  match s.ropeOf id with
  | some r => s.onChip r.key.world r.asid
  | none => none

/-- Whose requests a core's are (R14). -/
def State.requester (s : State) (core : Nat) : Requester :=
  match s.ropeOf core with
  | some r => if r.strict then .strict r.key else .best
  | none => .best

/-! ## Scalar registers -/

/-- `c.bext`: the field, extended (R267). -/
def extractField (a : Word) (pos len : Nat) (sx : Bool) : Word :=
  let f := a.toNat / 2 ^ pos % 2 ^ len
  if sx ∧ 2 ^ (len - 1) ≤ f then BitVec.ofNat 64 (f + 2 ^ 64 - 2 ^ len) else BitVec.ofNat 64 f
/-- A scalar register's value: `s0` reads zero (R108). -/
def Core.reg (c : Core) (r : Reg) : Word := if r = 0 then 0 else c.s[r.toNat]'(r.isLt)
/-- Write a scalar register: a write to `s0` is discarded (R108, R264). -/
def Core.setReg (c : Core) (r : Reg) (v : Word) : Core := if r = 0 then c else { c with s := c.s.set r.toNat v r.isLt }
/-- A branch-target register's value. -/
def Core.breg (c : Core) (r : BitVec 3) : Word := c.b[r.toNat]'(r.isLt)
/-- Write a branch-target register. -/
def Core.setBreg (c : Core) (r : BitVec 3) (v : Word) : Core := { c with b := c.b.set r.toNat v r.isLt }
/-- The register that an outstanding access will write. -/
def AccessKind.dest : AccessKind → Option Reg
  | .load d _ _ => some d
  | .amo _ d _ _ _ => some d
  | .store _ => none
  | .poll _ => none
  | .inbox .. => none
/-- No outstanding access is still to write one of these registers (R265). -/
def Core.ready (c : Core) (rs : List Reg) : Bool :=
  rs.all fun r => r == 0 || c.accesses.all fun a => a.kind.dest != some r
/-- `dbgc` once the instruction at the pc has retired: `skip` clears at the breakpoint address (R226). -/
def Core.skipped (c : Core) : Word := if c.pc = c.dbga &&& 0xFFF8 then c.dbgc &&& 1 else c.dbgc
/-- The instruction retires, and the pc moves on. DESIGN CHOICE: log 5. -/
def Core.retire (c : Core) : Core := { c with pc := (c.pc + 8) &&& 0xFFFF, dbgc := c.skipped }
/-- The instruction retires, and control goes elsewhere. DESIGN CHOICE: log 5. -/
def Core.goto (c : Core) (target : Word) : Core := { c with pc := target, dbgc := c.skipped }
/-- Wait until the source registers are written (R265), then go on. DEDUCED: log 65. -/
def State.waitFor (s : State) (srcs : List Reg) (go : State) : Out := if s.here.ready srcs then .next go else .next s

/-- A register instruction (R264): once its registers are written, d takes the value and the instruction retires. -/
def State.alu (s : State) (d : Reg) (srcs : List Reg) (v : Word) : Out :=
  s.waitFor (d :: srcs) (s.setHere ((s.here.setReg d v).retire))

/-! ## Responses and events -/

/-- Record the end of a command (R47): its response waits to be written. A command that never started has its end as its start. DESIGN CHOICE: log 50. -/
def State.respond (s : State) (c : Cmd) (status result : Nat) : State :=
  s.onIface c.iface fun i =>
    let st := match i.commands.find? (fun p => p.cmd == c) with | some p => if p.started then p.start else s.gtc | none => s.gtc
    { i with commands := i.commands.filter fun p => p.cmd != c,
             replies := i.replies ++ [{ cmd := c, status := status, start := st, fin := s.gtc, result := result }] }
/-- Slots of the wheels that a command had converted return to Open (R83). -/
def State.openSlots (s : State) (c : Cmd) : State :=
  let mine := (s.scanSlots.filter fun e => e.1 == c).flatMap (·.2)
  { s with wheels := s.wheels.filter (fun e => !mine.contains e.1), scanSlots := s.scanSlots.filter fun e => e.1 != c }
/-- A command completes (R47): its response waits to be written, and the slots it had converted are Open again (R83). -/
def State.complete (s : State) (c : Cmd) (status result : Nat) : State := (s.respond c status result).openSlots c
/-- A pending command. -/
def State.pending (s : State) (c : Cmd) : Option Pending := (s.iface c.iface).commands.find? fun p => p.cmd == c
/-- Change a pending command. -/
def State.onPending (s : State) (c : Cmd) (f : Pending → Pending) : State :=
  s.onIface c.iface fun i => { i with commands := i.commands.map fun p => if p.cmd == c then f p else p }
/-- A command that reads or writes a range goes on when every unit of it in HBM has moved, as the slots in force let them (R13, R14). Until then it has
taken effect or not, as `effect` says. DESIGN CHOICE: log 77. -/
def State.haulFor (s : State) (c : Cmd) (effect : Bool) (q : Nat → Requester) (units : List Nat) (go : State → State) : State :=
  let a := s.moveSome q (((s.pending c).bind (·.moving)).getD units)
  if a.2.isEmpty then go (a.1.onPending c fun p => { p with moving := none })
  else a.1.onPending c fun p => { p with moving := some a.2, effect := effect }
/-- An atomic change of an event word of a world (R58), checked as a command's atomic or as the write of a completion: none where it cannot
be performed. -/
def State.eventOp (s : State) (w e : Nat) (want : Want) (f : Word → Word) : Option (State × Word) :=
  let va := (s.iface w).events + 8 * e
  match s.mapFor w va 8 want with
  | .error _ => none
  | .ok m =>
    if s.poisoned m.pa 8 then none
    else
      let old := BitVec.ofNat 64 (leNat (s.readBytes (s.keyFor w m.durable) m.pa 8))
      some (s.store_ w m.durable (hostOrigin va m.pa) (cellsAt m.pa (leBytes 8 (f old).toNat)), old)
/-- An event word as read, if it can be (R45). -/
def State.eventWord (s : State) (w e : Nat) : Option Word :=
  let va := (s.iface w).events + 8 * e
  match s.mapFor w va 8 .readWrite with
  | .error _ => none
  | .ok m => if s.poisoned m.pa 8 then none
             else some (BitVec.ofNat 64 (leNat (s.readBytes (s.keyFor w m.durable) m.pa 8)))

/-- Tell another package something. -/
def State.reply (s : State) (r : Reply) : State := { s with replies := s.replies ++ [r] }

/-! ## Errors and pins -/

/-- The 32 bytes of a record of the error log (R230). -/
def ErrorRecord.bytes (e : ErrorRecord) : List Byte :=
  [BitVec.ofNat 8 e.kind, BitVec.ofNat 8 e.store] ++ leBytes 2 e.core ++ [BitVec.ofNat 8 e.world, 0, 0, 0] ++ leBytes 8 e.gtc.toNat
    ++ leBytes 8 e.addr ++ leBytes 8 e.rtick
/-- Log an error (R230): kinds 3, 4, 6 and 7 drive ALERT_N low. -/
def State.logError (s : State) (kind store core world addr rtick : Nat) : State :=
  let r : ErrorRecord := { kind := kind, store := store, core := core, world := world, gtc := s.gtc, addr := addr, rtick := rtick }
  { s with errors := s.errors ++ [r],
           alert := s.alert || kind == 3 || kind == 4 || kind == 6 || kind == 7 }

/-! ## Holds -/

/-- Raise a hold cause at a rope tick (R96). -/
def Rope.raise (r : Rope) (core : Nat) (kind : HoldKind) (tick : Nat) (left : Option Nat) (stall : Bool) : Rope :=
  { r with holds := r.holds ++ [{ core := core, kind := kind, due := tick + r.hdly, left := left, stall := stall }] }
/-- Raise a hold cause of a core's rope. DEDUCED: log 19, log 68. -/
def State.hold (s : State) (core : Nat) (kind : HoldKind) (tick : Nat) (left : Option Nat) (stall : Bool) : State :=
  match s.ropeOf core with
  | some r => s.setRope (r.raise core kind tick left stall)
  | none => s

/-! ## Writes of engines at their targets -/

/-- The origin of an engine write, for the barriers that wait for it. -/
def engineOrigin (core : Nat) (j : Job) (va pa cls : Nat) : Origin :=
  { va := va, pa := pa, core := some core, engine := true, cls := cls, issued := j.t, image := false }
/-- Leave for another package (R134, R337). DEDUCED: log 72. -/
def State.send (s : State) (core : Nat) (cls issued entry offset : Nat) (kind : PeerKind) (sig : Option (BitVec 16 × Nat))
    (late : Option Reg) (flight : Option (Nat × Nat × Nat)) (va : Nat) (after : List Nat := []) : State :=
  let o : Outgoing := { id := s.serial, entry := entry, offset := offset, kind := kind, rope := (s.core core).rope, core := core,
                        cls := cls, issued := issued, signal := sig, resent := 0, late := late, flight := flight, va := va, after := after,
                        asid := s.asidOf core }
  { s with serial := s.serial + 1, outgoing := s.outgoing ++ [o] }
/-- The package a peer-table entry reaches. -/
def State.peerPkg (s : State) (entry : Nat) : Nat := match find s.peers entry with | some p => p.pkg | none => 0
/-- Merge nibbles into a byte: only the bits of the mask change (R137). DEDUCED: log 36. -/
def mergeByte (old new mask : Byte) : Byte := (old &&& ~~~mask) ||| (new &&& mask)
/-- The nibbles that a row stores into one byte, as one change of it (R137); a later one prevails. DEDUCED: log 36. -/
def joinNibbles : List (Nat × Byte × Byte) → List (Nat × Byte × Byte)
  | [] => []
  | (o, b, m) :: r =>
    match joinNibbles r with
    | (o', b', m') :: t => if o = o' then (o, mergeByte b b' m', m ||| m') :: t else (o, b, m) :: (o', b', m') :: t
    | [] => [(o, b, m)]
/-- A store's bytes as messages: runs of consecutive whole bytes, and single bytes under a mask (R137, R337). -/
def sendRuns : List (Nat × Byte × Byte) → List (Nat × List Byte × Byte)
  | [] => []
  | (o, b, m) :: r =>
    match sendRuns r with
    | (o', bs, m') :: t => if m = 0xFF ∧ m' = 0xFF ∧ o' = o + 1 then (o, b :: bs, 0xFF) :: t else (o, [b], m) :: (o', bs, m') :: t
    | [] => [(o, [b], m)]
/-- Whether an engine write leaves the package, or goes to global memory or the cluster store. -/
def Effect.leavesCore : Effect → Bool
  | .global .. => true
  | .reduce .. => true
  | .signal .. => true
  | .cluster .. => true
  | _ => false
/-- The units that a write of an engine changes in HBM (R13). -/
def State.writeUnits (s : State) (e : Effect) : List Nat :=
  let us : List Nat := match e with
    | .global _ pa _ bytes => bytes.map fun b => (pa + b.1) / 64
    | .reduce _ _ _ adds => adds.map fun a => a.1 / 64
    | .signal _ pa .. => [pa / 64]
    | _ => []
  (us.filter fun u => s.medium (64 * u) == .hbm).eraseDups
/-- The class of an engine instruction's accesses (R245). -/
def classOf : Instr → Nat
  | .lGet o | .lGetw o | .lGetb o | .lGath o | .lCget o | .lTcpy o | .lPref o | .lCbld o | .lZero o => o.h.oc.toNat
  | .sPut o | .sCput o | .sScat o | .sRed o | .sSig o | .sPbar o => o.h.oc.toNat
  | .mWld o | .mWldr o | .mWsw o | .mMac o | .mMacz o | .mTov o | .mFrv o | .mClr o | .mOut o | .mKat o | .mTr o | .mAdd o => o.h.oc.toNat
  | .vLd o | .vLds o | .vLdx o | .vSt o | .vSts o | .vStx o | .vStm o | .vPst o | .vPld o | .vStw o => o.h.oc.toNat
  | _ => 0
/-- The signal counters of a rope stand in its origin core (R221). DEDUCED: log 30. -/
def State.signalCore (s : State) (core : Nat) : Nat := match s.ropeOf core with | some r => r.origin | none => core
/-- Remember what a rope wrote: while reads of engines are under way, since such a read never returns a later write of its own rope
(R144), and in a replayable phase, since a replay leaves reads of it open (R234). `at_` is the base of the phase that an engine's write belongs
to, or the rope tick of a write of the control core. -/
def State.noteOwn (s : State) (core at_ : Nat) (cells : List (Nat × Byte)) : State :=
  match (s.core core).rope with
  | none => s
  | some k =>
    let addrs := cells.map (·.1)
    { s with
      ownWrites := match (s.cores.flatMap fun e => e.2.flights.map (·.id)).min? with
        | some oldest => (s.ownWrites.filter fun w => decide (oldest < w.serial)) ++ [{ cells := addrs, rope := k, serial := s.serial }]
        | none => [],
      phaseWrites := if (s.core core).replayable then s.phaseWrites ++ [(k, at_, addrs)] else s.phaseWrites }
/-- The writes of a rope that have left for another package and are not acknowledged, and that a signal releases (R150): of its class, to that
package, issued before it. What control cores have stored is not among them: such a store has no issue tick. DESIGN CHOICE: log 30. -/
def State.sentBefore (s : State) (core cls tick pkg : Nat) : List Nat :=
  (s.outgoing.filter fun o => (s.core core).rope.isSome && o.rope == (s.core core).rope && o.cls == cls && s.peerPkg o.entry == pkg && decide (0 < o.issued)
    && decide (o.issued < tick) && o.signal.isNone && (match o.kind with | .read _ => false | _ => true)).map (·.id)
/-- Perform a write that leaves the core (R140), issued on a tick: plain, i4 nibbles, additions, signals, and the cluster store. -/
def State.performOut (s : State) (core : Nat) (j : Job) (issued : Nat) : Effect → State
  | .global va pa durable nibbles =>
    let bytes := joinNibbles nibbles
    let w := s.worldOf core
    let k := s.keyFor w durable
    let cells := bytes.map fun b => (pa + b.1, mergeByte (if b.2.2 = 0xFF then 0 else s.readByte k (pa + b.1)) b.2.1 b.2.2)
    if pa / 2 ^ 44 = 15 then
      (sendRuns bytes).foldl (fun s r =>
        s.send core (classOf j.entry.ins) issued (pa / 2 ^ 36 % 256) (pa % 2 ^ 36 + r.1) (.write r.2.1 r.2.2) none none none va) s
    else (s.store_ w durable (engineOrigin core j va pa (classOf j.entry.ins)) cells).noteOwn core j.phase cells
  | .reduce va pa durable adds =>
    let w := s.worldOf core
    let k := s.keyFor w durable
    adds.foldl (fun s a =>
      if a.1 / 2 ^ 44 = 15 then
        s.send core (classOf j.entry.ins) issued (a.1 / 2 ^ 36 % 256) (a.1 % 2 ^ 36) (.amo .add false (BitVec.ofNat 64 a.2.toNat) 0) none none none va
      else
        let old := leNat (s.readBytes k a.1 4)
        let cells := cellsAt a.1 (leBytes 4 (old + a.2.toNat))
        (s.store_ w durable (engineOrigin core j va pa (classOf j.entry.ins)) cells).noteOwn core j.phase cells) s
  | .signal va pa durable value count =>
    let w := s.worldOf core
    let k := s.keyFor w durable
    if pa / 2 ^ 44 = 15 then
      let alloc := match s.ropeOf core with | some r => r.alloc | none => 0
      let pkg := s.peerPkg (pa / 2 ^ 36 % 256)
      let s1 := s.send core (classOf j.entry.ins) issued (pa / 2 ^ 36 % 256) (pa % 2 ^ 36) (.amo .add true value 0) (some (alloc, count)) none none va
        (s.sentBefore core (classOf j.entry.ins) issued pkg)
      match s.ropeOf core with
      | some r => s1.onRope r.key fun r => { r with peers := if r.peers.contains pkg then r.peers else r.peers ++ [pkg] }
      | none => s1
    else
      let old := leNat (s.readBytes k pa 8)
      let cells := cellsAt pa (leBytes 8 (old + value.toNat))
      (s.store_ w durable (engineOrigin core j va pa (classOf j.entry.ins)) cells).noteOwn core j.phase cells
  | .cluster addr bytes => { s with store := writeAllZ s.store (cellsAt (clusterOf core * 2 ^ 23 + addr) bytes) }
  | _ => s
/-- The package whose memory a write of an engine goes to (R150): none if it goes to no memory, `some none` for this package. -/
def State.packageOf (s : State) (e : Effect) : Option (Option Nat) :=
  let of (pa : Nat) : Option Nat := if pa / 2 ^ 44 = 15 then some (s.peerPkg (pa / 2 ^ 36 % 256)) else none
  match e with
  | .global _ pa .. => some (of pa)
  | .reduce _ pa .. => some (of pa)
  | .signal _ pa .. => some (of pa)
  | _ => none
/-- Whether a write of a rope is one that a signal of it releases (R150): of its class, to the package of its word, issued before it. -/
def State.isPrior (s : State) (j : Job) (pkg : Option Nat) (id : Nat) (f : Flight) : Bool :=
  decide (f.id < id) && s.packageOf f.effect == some pkg && classOf f.job.entry.ins == classOf j.entry.ins && f.job.t + f.upc != j.t
/-- The writes still to perform that a signal releases (R150). What control cores have stored is not among them: such a store has no issue tick.
DESIGN CHOICE: log 30. -/
def State.prior (s : State) (core : Nat) (j : Job) (pkg : Option Nat) (id : Nat) : List Flight :=
  match s.ropeOf core with
  | none => []
  | some r => r.cores.flatMap fun c => (s.core c).flights.filter (s.isPrior j pkg id)
/-- Whether a signal whose tick has come still waits for a write that it releases (R150), which a fault has kept from performing on its tick. -/
def State.unreleased (s : State) (core : Nat) (f : Flight) : Bool :=
  match f.effect, s.packageOf f.effect with
  | .signal .., some pkg => !(s.prior core f.job pkg f.id).isEmpty
  | _, _ => false
/-- Whether a flight belongs to the suspended part of its entry (R207): it stands still with it. -/
def Core.parked (c : Core) (f : Flight) : Bool :=
  match ((c.queues[f.job.q]?).getD .empty).susp with
  | some x => x.job.seq == f.job.seq && decide (x.upc ≤ f.upc)
  | none => false
/-- Whether a write stands still: it met an error (R229), it belongs to a suspended entry (R207), or it is a signal that releases such a write (R150). -/
def State.stands (s : State) (core : Nat) (f : Flight) : Bool :=
  let still (c : Nat) (x : Flight) : Bool := x.bad || (s.core c).parked x
  still core f || (match f.effect, s.packageOf f.effect, s.ropeOf core with
    | .signal .., some pkg, some r => r.cores.any fun c => (s.core c).flights.any fun x => still c x && s.isPrior f.job pkg f.id x
    | _, _, _ => false)
/-- Whether a flight is a write that a freeze has to wait for (R214). -/
def State.leaving (s : State) (core : Nat) (f : Flight) : Bool := f.effect.leavesCore && !s.stands core f
/-- Take a flight off its core. -/
def State.dropFlight (s : State) (core id : Nat) : State := s.onCore core fun c => { c with flights := c.flights.filter fun f => f.id != id }
/-- Writes of a core perform one after the other, until one has to wait for a slot of its wheel (R13, R14). -/
def State.flushFrom (s : State) (core : Nat) : List Flight → State
  | [] => s
  | f :: r =>
    if !s.leaving core f || s.unreleased core f then s.flushFrom core r
    else
      let a := s.moveSome (fun _ => s.requester core) ((s.writeUnits f.effect).filter fun u => !f.served.contains u)
      if a.2.isEmpty then ((a.1.dropFlight core f.id).performOut core f.job (f.job.t + f.upc) f.effect).flushFrom core r
      else a.1.onCore core fun c => { c with flights := c.flights.map fun x =>
        if x.id = f.id then { x with served := (s.writeUnits f.effect).filter fun u => !a.2.contains u } else x }
/-- The writes of a core that have left it perform, in tick and issue order, as far as the wheels let them (R13, R50, R214). DEDUCED: log 67. -/
def State.flushWrites (s : State) (id : Nat) : State :=
  s.flushFrom id (((s.core id).flights.filter fun f => f.effect.leavesCore).mergeSort fun a b =>
    decide (a.tick < b.tick) || (a.tick == b.tick && decide (a.job.seq ≤ b.job.seq)))

/-- The queue state that a clear of the engines leaves (R61). DEDUCED: log 67. -/
def Core.dropEngines (c : Core) : Core :=
  { c with queues := List.replicate 4 .empty, flights := [], tokens := List.replicate 6 0, busy := List.replicate 6 0,
           sets := List.replicate 8 [], timed := [false, false, false, false], starts := [], yields := [0, 0, 0, 0], yieldPcs := [], haltIn := false, fetched := [],
           fetching := [], replayable := false, restart := none, wrote := [], opens := [], bars := [], pending := [], wfe := none, accesses := [], inbox := [],
           dbgEvent := none, scan := none, moving := none, lacked := (0, 0), ports := [], carder := { c.carder with busy := false, dead := false } }
/-- A core without a launch: its control core is halted (R101). -/
def Core.idle (c : Core) : Core := { c.dropEngines with run := 0, halted := true, stopped := true }

/-! ## Accesses of a control core -/

/-- The bytes that an access touches: a space and a range. -/
def Access.span (a : Access) : Nat × Nat × Nat :=
  let n := match a.kind with
    | .load _ n _ => n
    | .store bs => bs.length
    | .amo _ _ n _ _ => n
    | .poll n => n
    | .inbox _ n => n
  match a.place with
  | .global _ pa _ => (0, pa, n)
  | .peer _ e o => (4, e * 2 ^ 36 + o, n)
  | .cluster o => (1, o, n)
  | .tile o => (2, o, n)
  | .spill o => (3, o, n)
/-- The bytes from a mapped place on. -/
def Mapped.span (m : Mapped) (n : Nat) : Nat × Nat × Nat := if m.medium = .peer then (4, m.pa % 2 ^ 44, n) else (0, m.pa, n)
/-- Whether two spans have a common byte. -/
def spansMeet (x y : Nat × Nat × Nat) : Bool := x.1 == y.1 && decide (x.2.1 < y.2.1 + y.2.2) && decide (y.2.1 < x.2.1 + x.2.2)
/-- Whether two accesses touch a common byte (R142). -/
def Access.overlaps (a b : Access) : Bool := spansMeet a.span b.span
/-- Whether an access writes. -/
def AccessKind.writes : AccessKind → Bool
  | .store _ => true
  | .amo .. => true
  | _ => false
/-- Whether an access may perform: no earlier one of its class, and none that touches its bytes, is still out (R142, R143). DEDUCED: log 65. -/
def Core.mayPerform (c : Core) (a : Access) : Bool :=
  (c.accesses.takeWhile fun x => x.id != a.id).all fun x => x.cls != a.cls && !x.overlaps a
/-- Read the bytes of a place for a core; a stale tag reads zeros (R68). -/
def State.readPlace (s : State) (core : Nat) (gen : BitVec 24) (pl : Place) (n : Nat) : List Byte :=
  match pl with
  | .tile o => bytesZ (s.core core).tile o n
  | .spill o => bytesZ (s.core core).spill o n
  | .cluster o => if gen = s.gen (s.worldOf core) then bytesZ s.store (clusterOf core * 2 ^ 23 + o) n else List.replicate n 0
  | .global _ pa durable =>
    if gen = s.gen (s.worldOf core) then s.readBytes (s.keyFor (s.worldOf core) durable) pa n else List.replicate n 0
  | .peer .. => List.replicate n 0
/-- Write the bytes of a place for a core; a stale tag is dropped (R68). -/
def State.writePlace (s : State) (core cls : Nat) (gen : BitVec 24) (pl : Place) (bs : List Byte) : State :=
  match pl with
  | .tile o => s.onCore core fun c => { c with tile := writeAllZ c.tile (cellsAt o bs) }
  | .spill o => s.onCore core fun c => { c with spill := writeAllZ c.spill (cellsAt o bs) }
  | .cluster o =>
    if gen = s.gen (s.worldOf core) then { s with store := writeAllZ s.store (cellsAt (clusterOf core * 2 ^ 23 + o) bs) } else s
  | .global va pa durable =>
    if gen = s.gen (s.worldOf core) then
      (s.store_ (s.worldOf core) durable
        { va := va, pa := pa, core := some core, engine := false, cls := cls, issued := 0, image := false } (cellsAt pa bs)).noteOwn core (s.rtick core) (cellsAt pa bs)
    else s
  | .peer .. => s
/-- A loaded value (R270). -/
def loadValue (n : Nat) (sx : Bool) (bs : List Byte) : Word := extractField (BitVec.ofNat 64 (leNat bs)) 0 (8 * n) sx
/-- Take an access off the list of its core. -/
def State.dropAccess (s : State) (core id : Nat) : State :=
  s.onCore core fun c => { c with accesses := c.accesses.filter fun a => a.id != id }
/-- Mark the phase of every core of a core's rope as not replayable (R233): not the one that an error cancels, once its commit point has passed (R235). -/
def State.unreplayable (s : State) (core : Nat) : State :=
  match s.ropeOf core with
  | some r => if r.cancel.any (·.passed) then s else r.cores.foldl (fun s c => s.onCore c fun x => { x with replayable := false }) s
  | none => s
/-- What an access asks of another package (R134). -/
def AccessKind.peerKind : AccessKind → PeerKind
  | .load _ n _ => .read n
  | .poll n => .read n
  | .inbox _ n => .read n
  | .store bs => .write bs 0xFF
  | .amo op _ n b d => .amo op (n == 8) b d
/-- The units of HBM that an access moves (R13). -/
def State.accessUnits (s : State) (a : Access) : List Nat :=
  match a.place with
  | .global _ pa _ => s.unitsIn pa a.span.2.2
  | _ => []
/-- Whether an access can be served now (R13, R14): the slot in force has a unit left for its rope, or it moves none. -/
def State.servable (s : State) (core : Nat) (a : Access) : Bool :=
  a.bad || (s.moveSome (fun _ => s.requester core) (s.accessUnits a)).2.isEmpty
/-- The units of an access move. -/
def State.serveAccess (s : State) (core : Nat) (a : Access) : State := (s.moveSome (fun _ => s.requester core) (s.accessUnits a)).1
/-- An access of a control core that met an uncorrected error in global memory performs nowhere and is fault 0x0E (R228, R229), at the next
instruction boundary. DEDUCED: log 49. -/
def State.badAccess (s : State) (core : Nat) (a : Access) : State :=
  let va := match a.place with | .global va .. => va | .peer va .. => va | .cluster o => o | .tile o => o | .spill o => o
  (s.dropAccess core a.id).onCore core fun c =>
    { c with pending := c.pending ++ [{ code := 0x0E, sub := 0, value := BitVec.ofNat 64 va, source := 0, slot := 0, upc := 0,
                                        tick := s.rtick core, nested := c.handler, tpc := some a.pc }] }
/-- Perform one access of a core at its target (R140), or send it to another package. DEDUCED: log 65. -/
def State.performAccess (s0 : State) (core : Nat) (a : Access) : State :=
  if a.bad then s0.badAccess core a
  else
  let s := s0.serveAccess core a
  match a.place with
  | .peer va e o =>
    if a.sent.isSome then s
    else
      let s1 := s.onCore core fun c =>
        { c with accesses := c.accesses.map fun x => if x.id = a.id then { x with sent := some s.serial } else x }
      s1.send core a.cls 0 e o a.kind.peerKind none a.kind.dest none va
  | pl =>
    let s1 := s.dropAccess core a.id
    match a.kind with
    | .load d n sx => s1.onCore core fun c => c.setReg d (loadValue n sx (s.readPlace core a.gen pl n))
    | .store bs => s1.writePlace core a.cls a.gen pl bs
    | .amo op d n b dv =>
      let old := leNat (s.readPlace core a.gen pl n)
      let s2 := match amoNew op n old (b.toNat % 2 ^ (8 * n)) (dv.toNat % 2 ^ (8 * n)) with
        | some v => s1.writePlace core a.cls a.gen pl (leBytes n v)
        | none => s1
      (s2.onCore core fun c => c.setReg d (amoResult op n old)).unreplayable core
    | .poll n =>
      s1.onCore core fun c =>
        { c with wfe := c.wfe.map fun w =>
            { w with reading := false, value := some (BitVec.ofNat 64 (leNat (s.readPlace core a.gen pl n))), back := s.gtc } }
    | .inbox va n => s1.onCore core fun c => { c with inbox := insert c.inbox va (s.readPlace core a.gen pl n) }
/-- Accesses of a control core perform in their order, and those for another package leave, until none may (R142, R143). -/
def State.finishFrom (s : State) (core : Nat) : Nat → State
  | 0 => s
  | fuel + 1 =>
    match (s.core core).accesses.find? fun a => a.sent.isNone && (s.core core).mayPerform a && s.servable core a with
    | some a => (s.performAccess core a).finishFrom core fuel
    | none => s
/-- Accesses of a control core that have left it are dealt with (R214): one that an earlier access of its class still holds back, since another
package has not answered, stays (R143), and so does one that waits for a slot (R13). DEDUCED: log 67. -/
def State.finishAccesses (s : State) (core : Nat) : State := s.finishFrom core (s.core core).accesses.length
/-- What has left some cores is dealt with, as far as it can be (R214): twice, since a signal of one core may wait for writes of another (R150). -/
def State.settleCores (s : State) (cores : List Nat) : State :=
  let pass (s : State) : State := cores.foldl (fun s c => (s.finishAccesses c).flushWrites c) s
  pass (pass s)
/-- Whether something that left some cores has still to be dealt with (R214): accesses of control cores, writes of engines, and what other packages have
not answered. -/
def State.stillOut (s : State) (cores : List Nat) : Bool :=
  cores.any (fun c => !(s.core c).accesses.isEmpty || (s.core c).flights.any (s.leaving c)) || s.outgoing.any fun o => cores.contains o.core

/-! ## The end of a launch -/

/-- A launch with its hold and stall ticks as its cores count them now (R98, R102): those of cores that a next launch has are in the launch
already, and so are all of one that has ended faulted. -/
def State.tally (s : State) (r : Rope) (l : Launch) : Launch :=
  let mine := r.cores.filter fun c => (s.core c).run == l.id
  if l.failed then l
  else
    { l with holds := match mine with | c :: _ => (s.core c).holdc | [] => l.holds,
             stalls := l.stalls + (mine.map fun c => (s.core c).stallc.toNat).sum }
/-- Bytes of the completion record (R102), as a little-endian number, of a launch whose ticks have been counted. -/
def State.recordOf (s : State) (r : Rope) (l : Launch) (status : Nat) : Nat :=
  status + l.firstSub * 2 ^ 8 + min l.faults 0xFFFF * 2 ^ 16 + l.firstCode * 2 ^ 32 + l.firstCore * 2 ^ 48
    + l.firstBase.toNat * 2 ^ 64 + s.gtc.toNat * 2 ^ 128 + l.holds.toNat * 2 ^ 192
    + l.stalls % 2 ^ 64 * 2 ^ 256 + r.key.num * 2 ^ 320 + r.width * r.height * 2 ^ 336
/-- Write the completion record where the mode asks for it (R102); the flag says that it was dropped (R58). -/
def State.writeRecord (s : State) (r : Rope) (l : Launch) (status : Nat) : State × Bool :=
  if s.mode = 0 then (s, false)
  else
    let va := (s.iface r.key.world).events + 0x8000 + 64 * r.key.num
    if s.rangeOk r.key.world va 64 .write && !s.poisonedAs r.key.world va 64 .write then
      (s.writeFor r.key.world va (leBytes 64 (s.recordOf r l status)), false)
    else (s, true)
/-- The completion of a launch whose ticks have been counted (R58, R101, R102): record, event, response; a launch without a command has
none (R215). DEDUCED: log 46. -/
def State.finishLaunch (s : State) (r : Rope) (l : Launch) (faulted : Bool) : State :=
  if l.adopted then s
  else
  let (s1, lost) := s.writeRecord r l (if faulted then 1 else 0)
  let (s2, dropped) := match s1.eventOp r.key.world l.event .write (· + 1) with
    | some (s', _) => (s', 0)
    | none => (s1, 1)
  let result := l.holds.toNat + l.stalls % 2 ^ 64 * 2 ^ 64 + l.firstCode * 2 ^ 128
    + (dropped + (if lost then 2 else 0)) * 2 ^ 136
  s2.complete l.cmd (if faulted then 7 else 0) result
/-- Bytes of a range under a rope's local ASID; none where a page is missing. DEDUCED: log 60. -/
def State.readRope (s : State) (r : Rope) (va n : Nat) : Option (List Byte) :=
  ((pieces (n / 65536 + 2) va n).mapM fun p => (s.walk (s.onChip r.key.world r.asid) p.1).map fun e =>
    s.readBytes (s.keyFor r.key.world e.durable) (e.phys p.1) p.2).map List.flatten
/-- The shape table of a rope as the registers of its origin core name it (R75). DEDUCED: log 60. -/
def State.shapeTable (s : State) (r : Rope) : Option (List Byte) :=
  s.readRope r (s.core r.origin).shbase.toNat (64 * (s.core r.origin).shlim.toNat)
/-- The shape table that a rope keeps once a launch ends (R75): as that launch left it, if it still has the origin core. -/
def State.tableAfter (s : State) (r : Rope) (id : Nat) : Option (List Byte) := if (s.core r.origin).run = id then s.shapeTable r else r.table
/-- A rope's record of a launch that ends (R57, R75): the end is the record's only where the start is that launch's. -/
def Rope.noteEnd (r : Rope) (id : Nat) (g : Word) (table : Option (List Byte)) : Rope :=
  { r with lastEnd := if r.last = id then g else r.lastEnd, table := table }
/-- Record a fault in the launch it happened in (R102, R208): every trap but 0x03 and 0x04 counts. -/
def Launch.note (l : Launch) (core code sub : Nat) : Launch :=
  if code = 3 ∨ code = 4 then l
  else { l with faults := l.faults + 1,
                firstCode := if l.faults = 0 then code else l.firstCode,
                firstSub := if l.faults = 0 then sub else l.firstSub,
                firstCore := if l.faults = 0 then core else l.firstCore }
/-- Note a fault in the launch of a core. -/
def State.noteFault (s : State) (id code sub : Nat) : State :=
  match s.ropeOf id with
  | none => s
  | some r =>
    let run := (s.core id).run
    s.setRope { r with running := r.running.map fun l => if l.id = run then l.note id code sub else l,
                       incoming := r.incoming.map fun l => if l.id = run then l.note id code sub else l }
/-- A debug event that waits for the thaw is to be taken at the next instruction boundary (R226, R227). -/
def Core.releaseDebug (c : Core) (tick : Nat) : Core :=
  match c.dbgEvent with
  | none => c
  | some (address, a) =>
    { c with dbgEvent := none, brkHit := address,
             pending := c.pending ++ [{ code := 3, sub := 0, value := BitVec.ofNat 64 (a.toNat * 8), source := 0, slot := 0, upc := 0, tick := tick,
                                        nested := c.handler, tpc := none }] }
/-- A rope that was sealed runs on (R205): a breakpoint that it met while sealed is taken as if it had not been. DEDUCED: log 44. -/
def State.unseal (s : State) (k : RopeKey) : State :=
  match s.rope? k with
  | none => s
  | some r => r.cores.foldl (fun s c => s.onCore c fun x => x.releaseDebug (s.rtick c)) (s.setRope { r with freezing := .no })
/-- A `k.frz` that waits has no effect when a trap arrives at its core, or its launch ends (R205): the rope is unsealed, or runs on. DEDUCED: log 44. -/
def State.cancelFrz (s : State) (id : Nat) : State :=
  match (s.core id).scan with
  | some { rect := _, ticket := _, stage := .frz k } =>
    (match s.rope? k with
     | none => s
     | some r => match r.freezing with
       | .sealed _ => s.unseal k
       | .frozen => s.setRope { r with freezing := if r.running.isSome || r.incoming.isSome then .thawing 1 else .no }
       | _ => s)
  | _ => s
/-- A core whose launch ends faulted: it runs nothing more, and keeps what has left it and has not been dealt with (R208, R214). -/
def Core.quit (c : Core) (keep : List Flight) : Core :=
  { c.dropEngines with flights := keep, accesses := c.accesses, halted := true, stopped := true }
/-- Take a launch off its cores (R50, R208): writes that have left are still to perform, the rest is discarded. DEDUCED: log 67. -/
def State.quitLaunch (s : State) (r : Rope) (run : Nat) : State :=
  let mine := r.cores.filter fun c => (s.core c).run == run
  let s1 := mine.foldl (fun s c => s.cancelFrz c) s
  let s2 := { s1 with outgoing := s1.outgoing.filter fun o => !(mine.contains o.core && o.flight.isSome) }
  mine.foldl (fun t c => t.onCore c fun x => x.quit (x.flights.filter (s1.leaving c))) s2
/-- The fault that ends a launch is its first where no counted one came before it (R102). DEDUCED: log 22. -/
def Launch.endedBy (l : Launch) (core code sub : Nat) : Launch :=
  if l.faults = 0 then { l with firstCode := code, firstSub := sub, firstCore := core } else l
/-- The launch of a rope that has ended faulted and waits for its accesses. -/
def Rope.failing (r : Rope) : Option Launch := (r.running.toList ++ r.incoming.toList).find? (·.failed)
/-- A launch that has ended leaves its rope; an EVICT of it has nothing left to evict (R49, R104). -/
def State.leaveRope (s : State) (k : RopeKey) (l : Launch) (table : Option (List Byte)) : State :=
  match s.rope? k with
  | none => s
  | some r =>
    let running := if (r.running.map (·.id)) = some l.id then none else r.running
    let incoming := if (r.incoming.map (·.id)) = some l.id then none else r.incoming
    let s1 := match running, r.evict with | none, some e => s.complete e.cmd 2 0 | _, _ => s
    s1.onRope k fun r => { r.noteEnd l.id s.gtc table with running := running, incoming := incoming, evict := if running.isNone then none else r.evict }
/-- A launch that has ended faulted is complete once all that left its cores has been dealt with (R58, R102, R208, R214). DEDUCED: log 67. -/
def State.settleEnd (s : State) (k : RopeKey) : State :=
  match s.rope? k with
  | none => s
  | some r => match r.failing with
    | none => s
    | some l =>
      let mine := r.cores.filter fun c => (s.core c).run == l.id
      let s1 := s.settleCores mine
      if s1.stillOut mine then s1
      else ((mine.foldl (fun s c => s.onCore c Core.idle) s1).finishLaunch r l true).leaveRope k l (s.tableAfter r l.id)
/-- The launch of a core ends faulted (R208), by a fault that has been counted: its accesses are dealt with as at a freeze (R214), and it is then
complete. DEDUCED: log 22, log 67. -/
def State.endFaulted (s : State) (id code sub : Nat) : State :=
  match s.ropeOf id, s.launchOf id with
  | some r, some l =>
    if l.failed then s
    else
      let x : Launch := { (s.tally r l).endedBy id code sub with failed := true }
      let put (y : Launch) : Launch := if y.id = l.id then x else y
      let whole := r.running.all fun y => y.id == l.id
      ((s.quitLaunch r l.id).onRope r.key fun r =>
        { r with running := r.running.map put, incoming := r.incoming.map put,
                 holds := r.holds.filter (fun h => (s.core h.core).run != l.id && !(h.kind == .stretch && (r.running.map (·.id)) == some l.id)),
                 freezing := if whole then .no else r.freezing, cancel := if whole then none else r.cancel,
                 replaying := r.replaying && !whole, barrier4 := if whole then none else r.barrier4 }).settleEnd r.key
  | _, _ => s

/-! ## Taking a trap -/

/-- The trap registers after the entry of a fault with restart address `tpc` (R203 to R205). -/
def Core.enterTrap (c : Core) (f : PendingFault) (tpc : Word) : Core :=
  { c with tcause := BitVec.ofNat 64 (f.sub * 256 + f.code), tval := f.value,
           tinfo := BitVec.ofNat 64 (f.tick % 2 ^ 32 * 2 ^ 32 + f.upc % 2 ^ 16 * 2 ^ 16 + f.slot % 64 * 2 ^ 8 + f.source % 8),
           tpc := tpc, prev := c.level, level := if c.level.toNat < 2 then 2 else c.level, handler := true,
           pc := c.tvec &&& 0xFFF8, wfe := none, inbox := [], scan := none, moving := none }
/-- Whether a fault ends the launch instead of entering the handler (R203). -/
def Core.fatal (c : Core) (code : Nat) : Bool :=
  c.handler || !c.tvec.getLsbD 0 || code == 0x28 || code == 0x29 || code == 0x2A
/-- TAKING A TRAP (R203): one operation for every fault of a core, at an instruction boundary.
Accesses that have left the core complete first, so until then the instruction stands where it is. DEDUCED: log 21, log 65. -/
def State.trap (s : State) (id : Nat) (f : PendingFault) (tpc : Word) : State :=
  if !(s.core id).accesses.isEmpty then s
  else if (s.core id).fatal f.code then (s.noteFault id f.code f.sub).endFaulted id f.code f.sub
  else
    let s1 := ((s.noteFault id f.code f.sub).cancelFrz id).onCore id fun c => c.enterTrap f tpc
    if f.source = 0 then s1.hold id .trap (s.rtick id) none false else s1
/-- A fault of the control core or of routing at the core that acts (R205). -/
def State.fault (s : State) (code sub : Nat) (value : Word) (tpc : Word) : State :=
  s.trap s.cur.core { code := code, sub := sub, value := value, source := 0, slot := 0, upc := 0,
                      tick := s.rtick s.cur.core, nested := false, tpc := none } tpc
/-- A fault precise at the instruction: `tpc` names it (R205). -/
def State.faultHere (s : State) (code : Nat) (value : Word) : State := s.fault code 0 value s.here.pc
/-- The word at the pc of the core that acts (R108, R240). DESIGN CHOICE: log 5. -/
def State.fetch (s : State) : Word := BitVec.ofNat 64 (leNat (bytesZ s.here.im (s.here.pc.toNat % 65536) 8))
/-- Fault 0x01 or 0x02, whose value is the word (R258). -/
def State.faultWord (s : State) (code : Nat) : State := s.faultHere code s.fetch

/-- An engine fault (R207, R380): it waits for the control core, and its trap hold is raised at once.
A fault that arrives while a handler runs, but not at the tick of the handler's own engine fault, will end the launch (R203). DEDUCED: log 21, log 22. -/
def State.engineFault (s : State) (id : Nat) (code sub : Nat) (value : Word) (q slot upc tick : Nat) : State :=
  let c := s.core id
  let same := c.tinfo.toNat % 8 != 0 && c.tinfo.toNat / 2 ^ 32 == tick % 2 ^ 32
  let f : PendingFault := { code := code, sub := sub, value := value, source := q + 1, slot := slot, upc := upc, tick := tick,
                            nested := c.handler && !same, tpc := none }
  (s.hold id .trap tick none false).setCore id { c with pending := c.pending ++ [f] }

/-! ## Return from a trap -/

/-- Let one trap hold of a core run out `hdly` ticks after now (R96, R209). DEDUCED: log 21. -/
def Rope.releaseTrap (r : Rope) (id : Nat) : Rope :=
  let rec go : List Hold → List Hold
    | [] => []
    | h :: t =>
      if h.core == id && h.kind == .trap && h.left.isNone then
        { h with left := some (if r.rtick < h.due then max 1 (r.hdly - (h.due - r.rtick)) else r.hdly) } :: t
      else h :: go t
  { r with holds := go r.holds }
/-- The registers after `k.rett` (R209); after an address breakpoint, `dbgc.skip` is set (R226). DEDUCED: log 21. -/
def Core.leaveTrap (c : Core) : Core :=
  { c with level := c.prev, handler := false, pc := c.tpc,
           dbgc := if c.brkHit then c.dbgc ||| 2 else c.dbgc, brkHit := false }

end Sys2Proof.Machine
end

