-- ==== Sys2Proof/Machine/Operands.lean ====
section
/-! DEFINITION. Operand forms: bit fields, generic pointers (R127), rectangle words (R211), vector register names (R118), MRF
directions (R116), shape records and their elements (R136, R137), and the tile-memory checks of engines (R293, R336). -/
namespace Sys2Proof.Machine

/-! ## Scalars -/

/-- Sign-extension of a 32-bit immediate (R264). -/
def immI (imm : BitVec 32) : Word := imm.signExtend 64
/-- 1 or 0. -/
def boolW (b : Bool) : Word := if b then 1 else 0
/-- Leading zero bits of an n-bit string. -/
def clzOf {n : Nat} (x : BitVec n) : Nat := ((List.range n).find? fun i => x.getLsbD (n - 1 - i)).getD n
/-- Trailing zero bits of an n-bit string. -/
def ctzOf {n : Nat} (x : BitVec n) : Nat := ((List.range n).find? fun i => x.getLsbD i).getD n
/-- One bits of an n-bit string. -/
def popOf {n : Nat} (x : BitVec n) : Nat := ((List.range n).filter fun i => x.getLsbD i).length
/-- `c.bins`: D with a field replaced by A's low bits (R267). -/
def insertField (d a : Word) (pos len : Nat) : Word :=
  let mask : Word := BitVec.ofNat 64 ((2 ^ len - 1) * 2 ^ pos)
  (d &&& ~~~mask) ||| (BitVec.ofNat 64 (a.toNat % 2 ^ len * 2 ^ pos))
/-- `c.fshl` (R266). -/
def funnelLeft (a b x : Word) : Word := BitVec.ofNat 64 ((a.toNat * 2 ^ 64 + b.toNat) * 2 ^ (x.toNat % 64) / 2 ^ 64)
/-- `c.fshr` (R266). -/
def funnelRight (a b x : Word) : Word := BitVec.ofNat 64 ((a.toNat * 2 ^ 64 + b.toNat) / 2 ^ (x.toNat % 64))

/-! ## Generic pointers -/

/-- A pointer's space code, owner and offset (R127): none where `decode` faults. -/
def decodePtr (p : Word) : Option (Nat × Option Nat × Nat) :=
  let n := p.toNat
  let w := n / 2 ^ 52
  if w = 0x000 then some (0, none, n)
  else if w = 0xFFE then if n / 2 ^ 23 % 2 ^ 29 = 0 then some (1, none, n % 2 ^ 23) else none
  else if w = 0xFFD then if n / 2 ^ 20 % 2 ^ 22 = 0 then some (2, some (n / 2 ^ 42 % 2 ^ 10), n % 2 ^ 20) else none
  else if w = 0xFFC then if n / 2 ^ 13 % 2 ^ 29 = 0 then some (3, some (n / 2 ^ 42 % 2 ^ 10), n % 2 ^ 13) else none
  else none
/-- The space code of `c.spt` (R275). -/
def spaceCode (p : Word) : Nat := match decodePtr p with | some (c, _, _) => c | none => 7
/-- The largest offset of a space plus one (R275). -/
def spaceSize (space : Nat) : Nat := if space = 0 then 2 ^ 52 else if space = 1 then 2 ^ 23 else if space = 2 then 2 ^ 20 else 2 ^ 13
/-- The pointer to an offset of a space, stamped with a core (R275). -/
def makePtr (space core off : Nat) : Word :=
  BitVec.ofNat 64 (if space = 0 then off else if space = 1 then 0xFFE * 2 ^ 52 + off
    else if space = 2 then 0xFFD * 2 ^ 52 + core * 2 ^ 42 + off else 0xFFC * 2 ^ 52 + core * 2 ^ 42 + off)

/-- The regions of the cluster store that a core's rope may reach (R124). -/
def State.regionOk (s : State) (core off : Nat) : Bool :=
  match s.ropeOf core with
  | none => false
  | some r => r.strict || r.cores.any fun c => clusterOf c == clusterOf core && clusterIndex c == off / 2 ^ 18 / 2

/-! ## Rectangles -/

/-- A rectangle word (R211): origin, width, height; none when malformed or off the grid. -/
def rectOf (v : Word) : Option (Nat × Nat × Nat) :=
  let n := v.toNat
  let o := n % 2 ^ 10
  let w := n / 2 ^ 16 % 2 ^ 6
  let h := n / 2 ^ 24 % 2 ^ 6
  if n / 2 ^ 30 = 0 ∧ n / 2 ^ 22 % 4 = 0 ∧ n / 2 ^ 10 % 2 ^ 6 = 0 ∧ 1 ≤ w ∧ w ≤ 32 ∧ 1 ≤ h ∧ h ≤ 32
      ∧ gridX o + w ≤ 32 ∧ gridY o + h ≤ 32
  then some (o, w, h) else none
/-- Whether an `scom` value covers a local rope number (R211). -/
def scomCovers (scom : Word) (num : Nat) : Bool :=
  let base := scom.toNat % 2 ^ 12
  decide (base ≤ num) && decide (num - base < 52) && scom.getLsbD (12 + (num - base))

/-! ## Vector registers and predicates -/

/-- The physical register of a name (R118). -/
def physReg (vrb : BitVec 6) (n : Nat) : Nat := if n < 192 then n else 192 + (n - 192 + vrb.toNat) % 64
/-- What a replay reads in a register that the attempt has written and it has not (R234), by number: VRF lanes, then MRF entries from 16,384
on, then predicate bits from 49,152 on. DESIGN CHOICE: log 48. -/
def Core.opened (c : Core) (i : Nat) : Option Word := find c.opens i
/-- A lane of the VRF as an instruction reads it, by physical register × 64 + lane. -/
def Core.lane (c : Core) (i : Nat) : Lane := match c.opened i with | some w => w.truncate 32 | none => readZ c.vrf i
/-- An entry of the MRF as an instruction reads it. -/
def Core.entry (c : Core) (k : Nat) : Lane := match c.opened (16384 + k) with | some w => w.truncate 32 | none => readZ c.mrf k
/-- The 64 lanes of a named register. -/
def Core.lanes (c : Core) (v : BitVec 8) : List Lane := (List.range 64).map fun j => c.lane (physReg c.vrb v.toNat * 64 + j)
/-- A predicate's 64 bits as they stand: `p0` reads all ones (R118). -/
def Core.predStore (c : Core) (p : Nat) : Word := if p % 16 = 0 then ~~~(0 : Word) else c.preds[p % 16]'(Nat.mod_lt _ (by decide))
/-- A predicate's 64 bits as an instruction reads them (R118, R234). -/
def Core.predicate (c : Core) (p : Nat) : Word :=
  c.opens.foldl (fun w e => if e.1 / 64 = 768 + p % 16 ∧ p % 16 ≠ 0 then
    (w &&& ~~~((1 : Word) <<< (e.1 % 64))) ||| (e.2 &&& ((1 : Word) <<< (e.1 % 64))) else w) (c.predStore p)
/-- Registers are written for an instance: its phase has written them, and they are open no more (R234). -/
def Core.noteWrite (c : Core) (j : Job) (is : List Nat) : Core :=
  { c with wrote := if c.restart.any fun x => x.base == j.phase then c.wrote ++ is.filter fun i => !c.wrote.contains i else c.wrote,
           opens := c.opens.filter fun e => !is.contains e.1 }
/-- The register numbers of the bits of a predicate under a mask (R234). -/
def predBits (p : Nat) (mask : Word) : List Nat := ((List.range 64).filter mask.getLsbD).map (49152 + 64 * (p % 16) + ·)
/-- The active lanes of a V-R or V-I word (R288). -/
def Core.activeMask (c : Core) (g : BitVec 4) (n : Bool) : Word := if n then ~~~(c.predicate g.toNat) else c.predicate g.toNat

/-! ## MRF entries -/

/-- The entry of lane j under a direction and index (R116): row and column. -/
def mrfLane (dir idx j : Nat) : Nat × Nat := if dir = 0 then (idx, j) else if dir = 1 then (j, idx) else (j, (j + idx) % 64)
/-- The MRF key of an entry. -/
def mrfKey (bank i j : Nat) : Nat := bank * 4096 + i * 64 + j

/-! ## Shape records and elements -/

/-- Twice the bytes per element of a format (R137, R333): 1 for i4. -/
def halfBytes (f : BitVec 4) : Nat :=
  if f = 12 then 1 else if f = 0 ∨ f = 1 ∨ f = 9 ∨ f = 10 ∨ f = 11 then 2 else if f = 4 ∨ f = 5 ∨ f = 8 then 8 else 4
/-- Size of a dimension. -/
def ShapeRec.dim (r : ShapeRec) (d : Nat) : Nat := r.size.getD d 1
/-- Element offset of indices (R137). -/
def ShapeRec.offset (r : ShapeRec) (e : List Nat) : Int :=
  ((List.range 4).map fun d => (e.getD d 0 : Int) * (if d < r.rank then r.stride.getD d 0 else 0)).sum
/-- Virtual byte address of an element, and whether an i4 element is its high nibble (R137). -/
def ShapeRec.place (r : ShapeRec) (e : List Nat) : Int × Bool :=
  let off := r.offset e
  if r.format = 12 then ((r.base : Int) + off / 2, off % 2 == 1) else ((r.base : Int) + off * ((halfBytes r.format / 2 : Nat) : Int), false)
/-- The four indices that the offset registers carry (R332). -/
def indicesOf (va vb : Word) : List Nat :=
  [va.toNat % 2 ^ 32, va.toNat / 2 ^ 32, vb.toNat % 2 ^ 32, vb.toNat / 2 ^ 32]

/-! ## Tile-memory checks -/

/-- Whether a byte address lies in a declared range word (R92). -/
def inRange (range addr : Nat) : Bool :=
  decide (range % 4096 * 256 ≤ addr) && decide (addr < (range % 4096 + range / 4096 % 4096) * 256)
/-- The lowest address that no declared range of an instance holds (R94): reads may use both sets. -/
def Job.outside (j : Job) (write : Bool) (addrs : List Nat) : Option Nat :=
  let ranges := if write then j.writes else j.reads ++ j.writes
  addrs.find? fun a => !ranges.any fun r => inRange r a
/-- The same over whole byte ranges. -/
def Job.outsideSpan (j : Job) (write : Bool) (a n : Nat) : Option Nat := j.outside write ((List.range n).map (a + ·))

end Sys2Proof.Machine
end

