-- ==== Sys2Proof/Machine/Flags.lean ====
section
/-! DEFINITION. Number formats (R167 to R171), rounding and conversion with every flag it sets (R173), exact sums and products
(R175 to R179, R289), and status words (R185, R186, R294). -/
namespace Sys2Proof.Machine

/-! ## Status words -/

/-- The flags of R185, bits [5:0]. -/
def fInvalid : BitVec 6 := 0b000001
def fOverflow : BitVec 6 := 0b000010
def fUnderflow : BitVec 6 := 0b000100
def fNan : BitVec 6 := 0b001000
def fSubst : BitVec 6 := 0b010000
def fSat : BitVec 6 := 0b100000

/-- Merge two statuses (R186): counts add and saturate, the lower first element stands. -/
def Status.merge (a b : Status) : Status :=
  { first := min a.first b.first, sat := min (a.sat + b.sat) 0xFFFF, sub := min (a.sub + b.sub) 0xFF, flags := a.flags ||| b.flags }
/-- The status of one element: its index, its flags, one saturation if flagged, and its substitutions. -/
def Status.one (index : Nat) (flags : BitVec 6) (subs : Nat) : Status :=
  let fl := if subs = 0 then flags else flags ||| fSubst
  if fl = 0 then .none
  else { first := index, sat := if fl.getLsbD 5 then 1 else 0, sub := subs, flags := fl }
/-- The status word (R185). -/
def Status.word (s : Status) : Word :=
  BitVec.ofNat 64 (s.first % 2 ^ 16 * 2 ^ 32 + s.sat % 2 ^ 16 * 2 ^ 16 + s.sub % 2 ^ 8 * 2 ^ 8 + s.flags.toNat)
/-- A status from its word. -/
def Status.ofWord (n : Nat) : Status :=
  { first := n / 2 ^ 32 % 2 ^ 16, sat := n / 2 ^ 16 % 2 ^ 16, sub := n / 2 ^ 8 % 2 ^ 8, flags := BitVec.ofNat 6 n }

/-! ## Values -/

/-- A value that an element stands for: NaN (or NaR), an infinity, or sign × magnitude × 2^exp exactly. -/
inductive Val where
  | nan
  | inf (neg : Bool)
  | fin (neg : Bool) (mag : Nat) (exp : Int)
deriving DecidableEq, Repr

/-- Mantissa bits, bias and largest finite code of a floating format (R168); none for the others. -/
def floatParams (f : BitVec 4) : Option (Nat × Nat × Nat × Nat) :=
  if f = 6 then some (7, 127, 0x7F7F, 16)
  else if f = 7 then some (10, 15, 0x7BFF, 16)
  else if f = 8 then some (23, 127, 0x7F7FFFFF, 32)
  else if f = 9 then some (3, 7, 0x7E, 8)
  else if f = 10 then some (2, 15, 0x7B, 8)
  else none
/-- Width in bits of a format (R287). -/
def widthOf (f : BitVec 4) : Nat :=
  if f = 12 then 4 else if f = 11 then 6 else if f = 0 ∨ f = 1 ∨ f = 9 ∨ f = 10 then 8
  else if f = 4 ∨ f = 5 ∨ f = 8 then 32 else 16
/-- Whether an integer format is signed (R171). -/
def isSigned (f : BitVec 4) : Bool := f == 0 || f == 2 || f == 4 || f == 12
/-- Two's complement of w bits (R9). -/
def sextNat (w n : Nat) : Int := if n < 2 ^ (w - 1) then (n : Int) else (n : Int) - 2 ^ w
/-- The T table of l6 (R170). -/
def l6T (f : Nat) : Nat := if f = 0 then 1024 else if f = 1 then 1218 else if f = 2 then 1448 else 1722
/-- Octave and step of an l6 code k, extended upward without bound (R170, R173). -/
def l6Octave (k : Nat) : Int := ((k : Int) - 16) / 4
/-- The magnitude of l6 code k as T × 2^(n−10). -/
def l6Mag (k : Nat) : Nat × Int := (l6T (((k : Int) - 16) % 4).toNat, l6Octave k - 10)
/-- An integer as a value. -/
def Val.ofInt (i : Int) : Val := .fin (decide (i < 0)) i.natAbs 0

/-- The value of an element code (R168 to R171); an i4 0b1000 is read as 0. -/
def decodeElem (f : BitVec 4) (bits : Nat) : Val :=
  let n := bits % 2 ^ widthOf f
  match floatParams f with
  | some (m, bias, top, w) =>
    let neg := n / 2 ^ (w - 1) == 1
    let mag := n % 2 ^ (w - 1)
    let e := mag / 2 ^ m
    let frac := mag % 2 ^ m
    if f = 9 then
      if mag = 0x7F then .nan
      else if e = 0 then .fin neg frac (1 - (bias : Int) - m) else .fin neg (2 ^ m + frac) ((e : Int) - bias - m)
    else if top < mag then (if frac = 0 then .inf neg else .nan)
    else if e = 0 then .fin neg frac (1 - (bias : Int) - m)
    else .fin neg (2 ^ m + frac) ((e : Int) - bias - m)
  | none =>
    if f = 11 then
      if n = 0x20 then .nan
      else if n % 32 = 0 then .fin false 0 0
      else .fin (n / 32 == 1) (l6Mag (n % 32)).1 (l6Mag (n % 32)).2
    else if f = 12 then (if n = 8 then .fin false 0 0 else .ofInt (sextNat 4 n))
    else if isSigned f then .ofInt (sextNat (widthOf f) n) else .ofInt n
/-- Whether reading an element substitutes an i4 0b1000 (R171). -/
def substituted (f : BitVec 4) (bits : Nat) : Bool := f == 12 && bits % 16 == 8

/-! ## Rounding -/

/-- Magnitude × 2^exp over 2^q: the quotient rounded (to nearest even, or toward zero), and whether anything was lost. -/
def roundMag (rtz : Bool) (mag : Nat) (exp q : Int) : Nat × Bool :=
  if q ≤ exp then (mag * 2 ^ (exp - q).toNat, false)
  else
    let k := (q - exp).toNat
    let n := mag / 2 ^ k
    let r := mag % 2 ^ k
    if r = 0 then (n, false)
    else if rtz then (n, true)
    else if 2 * r < 2 ^ k ∨ (2 * r = 2 ^ k ∧ n % 2 = 0) then (n, true) else (n + 1, true)
/-- Compare two exact magnitudes. -/
def magLt (a : Nat) (ea : Int) (b : Nat) (eb : Int) : Bool :=
  let e := min ea eb
  decide (a * 2 ^ (ea - e).toNat < b * 2 ^ (eb - e).toNat)
/-- Twice a magnitude against the sum of two l6 magnitudes: less, equal or greater. -/
def l6Nearer (mag : Nat) (exp : Int) (lo hi : Nat) : Ordering :=
  let l := if lo = 0 then (0, (0 : Int)) else l6Mag lo
  let h := l6Mag hi
  let e := min exp (min l.2 h.2)
  compare (2 * mag * 2 ^ (exp - e).toNat) (l.1 * 2 ^ (l.2 - e).toNat + h.1 * 2 ^ (h.2 - e).toNat)
/-- The extended l6 code of a nonzero magnitude (R173). -/
def l6Code (rtz : Bool) (mag : Nat) (exp : Int) : Nat :=
  let n := exp + mag.log2
  let f := if !magLt mag exp 1722 (n - 10) then 3 else if !magLt mag exp 1448 (n - 10) then 2
    else if !magLt mag exp 1218 (n - 10) then 1 else 0
  let k := 4 * n + 16 + f
  let lo := if k < 1 then 0 else k.toNat
  if rtz then lo
  else match l6Nearer mag exp lo (lo + 1) with
    | .lt => lo
    | .gt => lo + 1
    | .eq => if lo % 2 = 0 then lo else lo + 1
/-- Range of an integer format: lowest and highest. -/
def intLo (f : BitVec 4) : Int := if f = 12 then -7 else if isSigned f then -(2 ^ (widthOf f - 1) : Nat) else 0
def intHi (f : BitVec 4) : Int := if f = 12 then 7 else if isSigned f then (2 ^ (widthOf f - 1) : Nat) - 1 else (2 ^ widthOf f : Nat) - 1
/-- An integer as the low bits of a format. -/
def intBits (w : Nat) (i : Int) : Nat := (i % (2 ^ w : Nat)).toNat

/-- `RNE_to_format` and its round-toward-zero counterpart (R173): the element code and its flags.
The NaN-input flag belongs to the NaN that was read. -/
def toFormat (f : BitVec 4) (rtz sat : Bool) (v : Val) : Nat × BitVec 6 :=
  match floatParams f with
  | some (m, bias, top, w) =>
    let sign (neg : Bool) (n : Nat) : Nat := if neg then n + 2 ^ (w - 1) else n
    let infinity := if f = 9 then 0x7F else top + 1
    match v with
    | .nan => (if f = 6 then 0x7FC0 else if f = 7 then 0x7E00 else if f = 8 then 0x7FC00000 else if f = 9 then 0x7F else 0x7E, fNan)
    | .inf neg =>
      if f = 9 then (if sat then (sign neg top, fOverflow ||| fSat) else (0x7F, fOverflow)) else (sign neg infinity, 0)
    | .fin neg mag exp =>
      if mag = 0 then (sign neg 0, 0)
      else
        let emin : Int := 1 - (bias : Int)
        let e := exp + mag.log2
        let q := (if emin ≤ e then e else emin) - m
        let (n, lost) := roundMag rtz mag exp q
        let code := ((q + m + bias - 1).toNat) * 2 ^ m + n
        if top < code then
          if sat then (sign neg top, fOverflow ||| fSat)
          else if rtz then (sign neg top, fOverflow)
          else (if f = 9 then 0x7F else sign neg infinity, fOverflow)
        else (sign neg code, if decide (e < emin) && lost then fUnderflow else 0)
  | none =>
    if f = 11 then
      match v with
      | .nan => (0x20, fNan)
      | .inf neg => if sat then ((if neg then 32 else 0) + 31, fOverflow ||| fSat) else (0x20, fOverflow)
      | .fin neg mag exp =>
        if mag = 0 then (0, 0)
        else
          let k := l6Code rtz mag exp
          if 31 < k then
            if sat then ((if neg then 32 else 0) + 31, fOverflow ||| fSat)
            else if rtz then ((if neg then 32 else 0) + 31, fOverflow)
            else (0x20, fOverflow)
          else if k = 0 then (0, fUnderflow) else ((if neg then 32 else 0) + k, 0)
    else
      let w := widthOf f
      match v with
      | .nan => (0, fInvalid ||| fNan)
      | .inf neg => (intBits w (if neg then intLo f else intHi f), fSat)
      | .fin neg mag exp =>
        let n := (roundMag rtz mag exp 0).1
        let i : Int := if neg then -(n : Int) else n
        if i < intLo f ∨ intHi f < i then
          if sat ∨ f = 12 then (intBits w (if i < intLo f then intLo f else intHi f), fSat) else (intBits w i, fSat)
        else (intBits w i, 0)

/-! ## Exact arithmetic -/

/-- Exact product (R289): 0 × ∞ is NaN and invalid. -/
def Val.mul : Val → Val → Val × BitVec 6
  | .nan, _ => (.nan, 0)
  | _, .nan => (.nan, 0)
  | .inf a, .inf b => (.inf (a != b), 0)
  | .inf a, .fin b m _ => if m = 0 then (.nan, fInvalid) else (.inf (a != b), 0)
  | .fin a m _, .inf b => if m = 0 then (.nan, fInvalid) else (.inf (a != b), 0)
  | .fin a m e, .fin b n f => (.fin (a != b) (m * n) (e + f), 0)
/-- Exact sum (R289): opposite infinities are NaN and invalid; an exact zero is +0 unless both addends are −0. -/
def Val.add : Val → Val → Val × BitVec 6
  | .nan, _ => (.nan, 0)
  | _, .nan => (.nan, 0)
  | .inf a, .inf b => if a = b then (.inf a, 0) else (.nan, fInvalid)
  | .inf a, .fin .. => (.inf a, 0)
  | .fin .., .inf b => (.inf b, 0)
  | .fin a m e, .fin b n f =>
    let x := min e f
    let i : Int := (if a then -1 else 1) * ((m * 2 ^ (e - x).toNat : Nat) : Int)
      + (if b then -1 else 1) * ((n * 2 ^ (f - x).toNat : Nat) : Int)
    if i = 0 then (.fin (a && b && m == 0 && n == 0) 0 0, 0) else (.fin (decide (i < 0)) i.natAbs x, 0)
/-- The value with its sign turned. -/
def Val.neg : Val → Val
  | .nan => .nan
  | .inf a => .inf (!a)
  | .fin a m e => .fin (!a) m e
/-- Whether a value is NaN. -/
def Val.isNan : Val → Bool
  | .nan => true
  | _ => false
/-- Order of two values that are not NaN, as reals: −0 equals +0 (R299). -/
def Val.lt : Val → Val → Bool
  | .nan, _ => false
  | _, .nan => false
  | .inf a, .inf b => a && !b
  | .inf a, .fin .. => a
  | .fin .., .inf b => !b
  | .fin a m e, .fin b n f =>
    if a && m != 0 then (if b && n != 0 then magLt n f m e else true)
    else if b && n != 0 then false else magLt m e n f
/-- Flags of reading values: NaN input if any is NaN. -/
def nanFlag (vs : List Val) : BitVec 6 := if vs.any Val.isNan then fNan else 0
/-- Round a computed value to a destination format: flags of the operation, of the rounding, and of NaN inputs (R289). -/
def finish (f : BitVec 4) (rtz : Bool) (ins : List Val) (r : Val × BitVec 6) : Nat × BitVec 6 :=
  let o := toFormat f rtz false r.1
  (o.1, r.2 ||| (o.2 &&& ~~~fNan) ||| nanFlag ins)

end Sys2Proof.Machine
end

