-- ==== Sys2Proof/Machine/Translate.lean ====
section
/-! DEFINITION. Translation for a core (R129 to R135): core TLB, cluster TLB, walk, rights, poison; and invalidation (R133). -/
namespace Sys2Proof.Machine

/-- The cluster TLB of a core. -/
def State.clusterEntries (s : State) (core : Nat) : List TlbEntry := (find s.clusterTlb (clusterOf core)).getD []
/-- The translation a core uses (R132): core TLB, else cluster TLB, else a walk. DESIGN CHOICE: log 24. -/
def State.lookup (s : State) (core va : Nat) : Option TlbEntry :=
  match s.asidOf core with
  | none => none
  | some a =>
    match (s.core core).tlb.find? fun e => e.maps a va with
    | some e => some e
    | none =>
      match (s.clusterEntries core).find? fun e => e.maps a va with
      | some e => some e
      | none => s.walk (some a) va
/-- The 64 KiB part of a translation that an address touches (R132). -/
def TlbEntry.part (e : TlbEntry) (va : Nat) : TlbEntry :=
  { e with va := va / 65536 * 65536, pa := e.phys (va / 65536 * 65536), size := 65536 }
/-- A TLB with one more entry; which entry a full one drops is not given (R132). DESIGN CHOICE: log 24. -/
def pushTlb (cap pick : Nat) (t : List TlbEntry) (e : TlbEntry) : List TlbEntry :=
  if t.contains e then t else e :: (if t.length < cap then t else t.eraseIdx (pick % cap))
/-- The set of a cluster TLB that a translation falls in: one of 256 (R132). DESIGN CHOICE: log 24. -/
def TlbEntry.set (e : TlbEntry) : Nat := Config.tlbSet e.asid e.va e.size % 256
/-- A cluster TLB with one more page, in its set of 8 ways (R132). DESIGN CHOICE: log 24. -/
def pushSet (pick : Nat) (t : List TlbEntry) (e : TlbEntry) : List TlbEntry :=
  let mine := t.filter fun x => x.set == e.set
  if t.contains e then t
  else e :: (if mine.length < 8 then t else t.filter fun x => some x != mine[pick % 8]?)
/-- Both TLBs after a translation has been used (R132): a hit in the core's leaves them; a hit in the cluster's fills the core's with the 64 KiB
touched; a walk fills both. DESIGN CHOICE: log 24. -/
def State.fillTlb (s : State) (core va : Nat) (e : TlbEntry) : State :=
  if (s.core core).tlb.any fun t => t.maps e.asid va then s
  else
    let s1 := if (s.clusterEntries core).any (fun t => t.maps e.asid va) then s
              else { s with clusterTlb := insert s.clusterTlb (clusterOf core) (pushSet (Config.freeNat s.free) (s.clusterEntries core) e) }
    s1.onCore core fun c => { c with tlb := pushTlb 64 (Config.freeNat s.free) c.tlb (e.part va) }

/-- The page that an access of a core to global memory finds (R128 step 5), before the poison check: the fault code, or the place and the
translation. DEDUCED: log 27, log 35. -/
def State.mapPage (s : State) (core level va n : Nat) (want : Want) : Except Nat (Mapped × TlbEntry) :=
  match (if va + n ≤ 2 ^ 52 then s.lookup core va else none) with
  | none => .error 0x08
  | some e =>
    let pa := e.phys va
    if s.rightsFault (s.worldOf core) level want e pa then .error 0x09
    else .ok ({ pa := pa, durable := e.durable, medium := s.medium pa }, e)
/-- The same with the poison check (R135). -/
def State.mapCore (s : State) (core level va n : Nat) (want : Want) : Except Nat (Mapped × TlbEntry) :=
  match s.mapPage core level va n want with
  | .error c => .error c
  | .ok (m, e) => if want ≠ .write ∧ s.poisoned m.pa n then .error 0x0E else .ok (m, e)

/-- Drop the translations that a test picks, in both TLB levels of the package (R133). -/
def State.invalidate (s : State) (p : TlbEntry → Bool) : State :=
  { s with clusterTlb := s.clusterTlb.map fun e => (e.1, e.2.filter fun t => !p t),
           cores := s.cores.map fun e => (e.1, { e.2 with tlb := e.2.tlb.filter fun t => !p t }) }
/-- The on-chip ASIDs of a world. -/
def State.asidsOf (s : State) (w : Nat) : List Nat := (s.asids.filter fun a => a.2.world == w).map (·.1)

/-- Documented latency of a medium for an engine of a rope (R126). The table gives a peer window none: it has the CXL tier's here. DESIGN CHOICE: log 23. -/
def Rope.latency (r : Rope) (m : Medium) : Nat :=
  match m with
  | .cxl | .durable => 1400
  | .peer => 1400
  | _ =>
    if r.strict then
      let ps := (List.range r.slots).map fun j => (r.offset + j * 63 / r.slots) % 63
      let sorted := ps.mergeSort (fun a b => decide (a ≤ b))
      let gaps := (sorted.zip (sorted.drop 1 ++ (sorted.head?.map (· + 64)).toList)).map fun p => p.2 - p.1
      600 + 8 * gaps.foldl max 0
    else 1100
/-- Latency for a core. -/
def State.latency (s : State) (core : Nat) (m : Medium) : Nat := match s.ropeOf core with | some r => r.latency m | none => 1100
/-- Whether an engine access to a medium is refused in a timed phase of a strict rope (R94, R337). -/
def State.untimely (s : State) (core : Nat) (j : Job) (write : Bool) (m : Medium) : Bool :=
  (match s.ropeOf core with | some r => r.strict | none => false) && j.timed
    && (m == .cxl || m == .durable || (m == .peer && !write))

end Sys2Proof.Machine
end

