-- ==== Sys2Proof/Machine/Engine.lean ====
section
/-! DEFINITION. What every engine instruction does alike: its issue at the current instance (`State.cur`), its flights, its faults
(R207), its ports (R121, R122), its tokens (R91), and the performing of its writes on their rope ticks (R144). -/
namespace Sys2Proof.Machine

/-- Whether a rope of a core is strict (R81). -/
def State.strict (s : State) (core : Nat) : Bool := match s.ropeOf core with | some r => r.strict | none => false

/-! ## Flights and faults -/

/-- Whether a flight is a step that reads, rather than a write. -/
def Effect.isStep : Effect → Bool
  | .macRow .. | .tap .. | .step .. | .index _ => true
  | _ => false
/-- Put a step, a read or a write of an instance on a rope tick (R144), naming the micro-PC that made it; `late` says that its data
will not be there (R132), `spots` where its reads of global memory go. -/
def State.flySpots (s : State) (core : Nat) (j : Job) (upc tick : Nat) (late : Bool) (spots : List Mapped) (e : Effect) : State :=
  let f : Flight := { tick := tick, id := s.serial, job := j, upc := upc, effect := e, late := late, spots := spots, served := [], bad := false,
                      waited := 0, resent := false, asid := if spots.isEmpty && !e.leavesCore then none else s.asidOf core }
  State.onCore { s with serial := s.serial + 1 } core fun c => { c with flights := c.flights ++ [f] }
/-- A flight that goes on waiting for link data as the row that it serves does (R380). -/
def State.flyWaited (s : State) (core : Nat) (j : Job) (upc tick waited : Nat) (e : Effect) : State :=
  let f : Flight := { tick := tick, id := s.serial, job := j, upc := upc, effect := e, late := false, spots := [], served := [], bad := false,
                      waited := waited, resent := false, asid := none }
  State.onCore { s with serial := s.serial + 1 } core fun c => { c with flights := c.flights ++ [f] }
/-- The same without a read of global memory. -/
def State.flyFrom (s : State) (core : Nat) (j : Job) (upc tick : Nat) (late : Bool) (e : Effect) : State := s.flySpots core j upc tick late [] e
/-- The same for micro-PC 0, with its data in time. -/
def State.fly (s : State) (core : Nat) (j : Job) (tick : Nat) (e : Effect) : State := s.flyFrom core j 0 tick false e
/-- Several at once. -/
def State.flyAll (s : State) (core : Nat) (j : Job) (es : List (Nat × Effect)) : State :=
  es.foldl (fun s e => s.fly core j e.1 e.2) s
/-- A fault of an instance at a micro-PC (R207): its queue is suspended there. -/
def State.suspendAt (s : State) (again : Again) (core : Nat) (j : Job) (upc : Nat) (carry : Status) (code sub : Nat) (value : Word)
    (tick : Nat) : State :=
  (s.engineFault core code sub value j.q j.entry.slot upc tick).onCore core fun c =>
    { c with queues := alter c.queues j.q fun q => { q with susp := some { again := again, job := j, upc := upc, tick := tick, carry := carry } } }
/-- Keep a write that did not perform, with its suspended entry. -/
def State.keep (s : State) (core : Nat) (f : Flight) : State := s.onCore core fun c => { c with flights := f :: c.flights }
/-- A fault of a step. -/
def State.suspend (s : State) (core : Nat) (j : Job) (upc : Nat) (carry : Status) (code sub : Nat) (value : Word) (tick : Nat) : State :=
  s.suspendAt .step core j upc carry code sub value tick
/-- A fault of the current instance at its issue, micro-PC 0. -/
def State.issueFault (s : State) (code sub value : Nat) : State :=
  s.suspend s.cur.core s.cur.job 0 .none code sub (BitVec.ofNat 64 value) s.cur.job.t

/-! ## Ports -/

/-- Ticks an access of words needs on its port (R122): the most distinct words of one bank. -/
def wordTicks (words : List Nat) : Nat :=
  let ws := words.eraseDups
  (List.range 64).foldl (fun m b => max m (ws.filter fun w => w % 64 == b).length) 0
/-- The words that byte addresses touch. -/
def wordsOf (addrs : List Nat) : List Nat := (addrs.map (· / 4)).eraseDups
/-- Count an access on the V port or the S-read port (R121, R122). -/
def Core.port (c : Core) (p : Nat) (addrs : List Nat) : Core := { c with ports := c.ports ++ [(p, wordTicks (wordsOf addrs))] }
/-- Count the words of an access on the M-read port or the L-write port. -/
def Core.portWords (c : Core) (p : Nat) (addrs : List Nat) : Core := { c with ports := c.ports ++ (wordsOf addrs).map fun w => (p, w) }
/-- Count VRF registers touched on this tick (R119, R292). -/
def Core.touch (c : Core) (regs : List Nat) : Core := { c with ports := c.ports ++ regs.map fun r => (0, r) }
/-- Extra ticks that the ports of this tick need (R122). -/
def Core.portExtra (c : Core) : Nat :=
  let of (p : Nat) := (c.ports.filter fun e => e.1 == p).map (·.2)
  max (max ((of 1).sum - 1) ((of 2).sum - 1)) (max (wordTicks (of 3) - 1) (wordTicks (of 4) - 1))

/-! ## Occupancy (R317, R338) -/

/-- First tick at which path p of a core is free: 0 L, 1 S, 2 load, 3 drive, 4 output, 5 line. -/
def Core.freeAt (c : Core) (p : Nat) : Nat := c.busy.getD p 0
/-- Occupy a path up to a tick, exclusive. -/
def Core.occupy (c : Core) (p upTo : Nat) : Core := { c with busy := alter c.busy p fun _ => upTo }

/-! ## Reading stores -/

/-- A byte of tile memory. -/
def Core.tileByte (c : Core) (a : Nat) : Byte := readZ c.tile a
/-- n bytes of tile memory as a little-endian number. -/
def Core.tileNat (c : Core) (a n : Nat) : Nat := leNat (bytesZ c.tile a n)
/-- The active or shadow plane (R112). -/
def Core.plane (c : Core) (second : Bool) : List (Nat × BitVec 16) := if second then c.planes.2 else c.planes.1
/-- A plane's scale store (R318). -/
def Core.scaleStore (c : Core) (second : Bool) : List (Nat × Byte) := if second then c.planeScales.2 else c.planeScales.1
/-- Write elements of a plane. -/
def Core.setPlane (c : Core) (second : Bool) (es : List (Nat × BitVec 16)) : Core :=
  { c with planes := if second then (c.planes.1, writeAllZ c.planes.2 es) else (writeAllZ c.planes.1 es, c.planes.2) }
/-- Write a plane's scale store. -/
def Core.setScales (c : Core) (second : Bool) (bs : List Byte) : Core :=
  { c with planeScales := if second then (c.planeScales.1, writeAllZ c.planeScales.2 (cellsAt 0 bs))
                          else (writeAllZ c.planeScales.1 (cellsAt 0 bs), c.planeScales.2) }
/-- What an instance of an earlier phase changes after base B stands in the restart state of the phase too: a replay does not do it again (R231, R232). -/
def Core.atBase (c : Core) (j : Job) (g : Restart → Restart) : Core := { c with restart := c.restart.map fun x => if j.t < x.base then g x else x }
/-- An instance merges into an MRF bank's sticky status (R186). -/
def Core.mergeBank (c : Core) (j : Job) (bank : Nat) (st : Status) : Core :=
  { c with mstatus := alter c.mstatus bank fun x => x.merge st }.atBase j fun x => { x with mstatus := alter x.mstatus bank fun y => y.merge st }
/-- An instance merges into the V engine's sticky status (R294). -/
def Core.mergeV (c : Core) (j : Job) (st : Status) : Core := { c with vstatus := c.vstatus.merge st }.atBase j fun x => { x with vstatus := x.vstatus.merge st }
/-- Write a predicate under a mask; `p0` discards it (R118). -/
def Core.setPred (c : Core) (p : Nat) (mask bits : Word) : Core :=
  if p % 16 = 0 then c
  else { c with preds := c.preds.set (p % 16) ((c.predStore p &&& ~~~mask) ||| (bits &&& mask)) (Nat.mod_lt _ (by decide)) }

/-! ## Sums of the array -/

/-- A value as a block sum. -/
def Val.toSum : Val → Sum
  | .nan => .nan
  | .inf n => .inf n
  | .fin n m e => .fin (if n then -(m : Int) else m) e
/-- A block sum as a value. -/
def Sum.toVal : Sum → Val
  | .nan => .nan
  | .inf n => .inf n
  | .fin i e => .fin (decide (i < 0)) i.natAbs e
/-- A block sum scaled by 2^k (R177). -/
def Sum.scale (k : Int) : Sum → Sum
  | .fin i e => .fin i (e + k)
  | x => x
/-- One rounding step of accumulation (R177): c + S, to f32, nearest even. `read`: the values that were read, whose NaN sets NaN input (R185). -/
def accStep (c : Nat) (x : Sum) (read : List Val) : Nat × BitVec 6 := finish 8 false read ((decodeElem 8 c).add x.toVal)
/-- The new entry of R177 or R178 and its flags. -/
def accumulate (float : Bool) (c0 : Nat) (s0 s1 : Sum) : Nat × BitVec 6 :=
  if float then
    let a := accStep c0 s0 [decodeElem 8 c0]
    let b := accStep a.1 s1 []
    (b.1, a.2 ||| b.2)
  else
    let n : Int := sextNat 32 c0 + (match s0 with | .fin i _ => i | _ => 0) + (match s1 with | .fin i _ => i | _ => 0)
    (intBits 32 n, if n < -(2 ^ 31) ∨ 2 ^ 31 ≤ n then fSat else 0)

/-! ## Links between arrays (R114, R115) -/

/-- The neighbour east or south of a core in the same rope, with the link latency (R114): none where the link is cut. -/
def State.neighbour (s : State) (core : Nat) (south : Bool) : Option (Nat × Nat) :=
  let x := gridX core + (if south then 0 else 1)
  let y := gridY core + (if south then 1 else 0)
  if 32 ≤ x ∨ 32 ≤ y then none
  else
    let n := coreAt x y
    if (s.core n).rope.isSome ∧ (s.core n).rope = (s.core core).rope then
      some (n, if clusterOf n = clusterOf core then 1 else if n / 256 = core / 256 then 6 else 24)
    else none
/-- Whether a core's west or north link is uncut. -/
def State.linked (s : State) (core : Nat) (north : Bool) : Bool :=
  if north then
    decide (0 < gridY core) && (s.core (coreAt (gridX core) (gridY core - 1))).rope == (s.core core).rope && (s.core core).rope.isSome
  else
    decide (0 < gridX core) && (s.core (coreAt (gridX core - 1) (gridY core))).rope == (s.core core).rope && (s.core core).rope.isSome
/-- The core that drives a core's west or north link, if the link is uncut. -/
def State.sender (s : State) (core : Nat) (north : Bool) : Option Nat :=
  if !s.linked core north then none
  else some (if north then coreAt (gridX core) (gridY core - 1) else coreAt (gridX core - 1) (gridY core))
/-- Whether a core's link data may be late: the sender's M queue is suspended or behind its timetable (R380). -/
def State.senderLate (s : State) (core : Nat) (north : Bool) : Bool :=
  match s.sender core north with
  | some n => (match (s.core n).queues[1]? with | some q => q.susp.isSome || q.lagging | none => false)
  | none => false
/-- Drive an A element eastward (R324): it reaches the neighbour's PE row k 63 ticks and the link's latency later. `half`: which of the A rows that
share a tick at rate 2 it is of. -/
def State.driveEast (s : State) (core : Nat) (j : Job) (tick k half : Nat) (code : BitVec 16) (sa0 sa1 : Nat) : State :=
  match s.neighbour core false with
  | some (_, lat) => s.onCore core fun c => { c with east := (c.east.filter fun a => !(a.row == k && a.half == half && a.tick == tick + 63 + lat)) ++
      [{ tick := tick + 63 + lat, nominal := tick + 63 + lat - j.lag, row := k, half := half, code := code, sa0 := sa0, sa1 := sa1 }] }
  | none => s
/-- Drive a sum southward (R324). -/
def State.driveSouth (s : State) (core : Nat) (j : Job) (tick col half : Nat) (v : Lane) : State :=
  match s.neighbour core true with
  | some (_, lat) => s.onCore core fun c => { c with south := (c.south.filter fun a => !(a.col == col && a.half == half && a.tick == tick + lat)) ++
      [{ tick := tick + lat, nominal := tick + lat - j.lag, col := col, half := half, value := v }] }
  | none => s
/-- What a tap of a link finds: a value, with the ticks by which it is late; or nothing yet, from a sender that is late itself (R380). -/
inductive Tapped (α : Type) where
  | value (x : α) (late : Nat)
  | wait
deriving DecidableEq, Repr
/-- The first element that passes a test, one of a half before any other. -/
def preferring {α : Type} (l : List α) (test half : α → Bool) : Option α :=
  match l.find? fun a => test a && half a with
  | some a => some a
  | none => l.find? test
/-- What the west link holds at PE row k on a tick, for an instance that has waited for it (R115, R324, R380): zero if cut or never driven; what
its sender was to have there then, late or not; else what arrives then; and where nothing fixes it a free value. DESIGN CHOICE: log 34. DEDUCED: log 76. -/
def State.tapWest (s : State) (core : Nat) (j : Job) (tick waited k half : Nat) : Tapped (BitVec 16 × Nat × Nat) :=
  match s.sender core false with
  | none => .value (0, 127, 127) 0
  | some n =>
    let c := s.core n
    match preferring c.east (fun a => a.row == k && a.nominal + waited + j.lag == tick && decide (tick ≤ a.tick)) (·.half == half) with
    | some a => .value (a.code, a.sa0, a.sa1) (a.tick - tick)
    | none =>
      if s.senderLate core false then .wait
      else match preferring c.east (fun a => a.row == k && a.tick == tick) (·.half == half) with
        | some a => .value (a.code, a.sa0, a.sa1) 0
        | none =>
          if !c.used.1 && c.east.all (fun a => decide (tick < a.tick)) then .value (0, 127, 127) 0
          else .value (BitVec.ofNat 16 (Config.freeNat (s.free + k)), Config.freeNat (s.free + k) % 256, Config.freeNat (s.free + k + 1) % 256) 0
/-- What the north link holds at a column on a tick (R115, R324, R380). DESIGN CHOICE: log 34. DEDUCED: log 76. -/
def State.tapNorth (s : State) (core : Nat) (j : Job) (tick waited col half : Nat) : Tapped Lane :=
  match s.sender core true with
  | none => .value 0 0
  | some n =>
    let c := s.core n
    match preferring c.south (fun a => a.col == col && a.nominal + waited + j.lag == tick && decide (tick ≤ a.tick)) (·.half == half) with
    | some a => .value a.value (a.tick - tick)
    | none =>
      if s.senderLate core true then .wait
      else match preferring c.south (fun a => a.col == col && a.tick == tick) (·.half == half) with
        | some a => .value a.value 0
        | none =>
          if !c.used.2.1 && c.south.all (fun a => decide (tick < a.tick)) then .value 0 0
          else .value (BitVec.ofNat 32 (Config.freeNat (s.free + col))) 0
/-- Elements enter the A streams of their PE rows at the west edge (R113): the tick they reach PE(k, 0). -/
def Core.enterStream (c : Core) (es : List (Nat × Nat × BitVec 16)) : Core := { c with stream := c.stream ++ es }
/-- Forget what has left the streams and the links by a tick (R113, R324), but for what a replay of the phase finds there again (R239). -/
def Core.pruneStreams (c : Core) (tick : Nat) : Core :=
  let kept (last : Nat) : Bool := decide (tick ≤ last) || (c.replayable && c.restart.any fun x => decide (x.base ≤ last))
  { c with east := c.east.filter fun a => kept a.tick, south := c.south.filter fun a => kept (a.tick + 1),
           stream := c.stream.filter fun a => kept (a.1 + 64),
           used := (c.used.1 || c.east.any (fun a => !kept a.tick), c.used.2.1 || c.south.any (fun a => !kept (a.tick + 1)),
                    c.used.2.2 || c.stream.any (fun a => !kept (a.1 + 64))) }

end Sys2Proof.Machine
end

