-- ==== Sys2Proof/Machine/Matrix.lean ====
section
/-! DEFINITION. Matrix engine instructions (R112 to R117, R174 to R179, R315 to R331): issue, and the array's sums. -/
namespace Sys2Proof.Machine

/-! ## Format words (R181) -/

def fmtA (f : Word) : BitVec 4 := BitVec.ofNat 4 f.toNat
def fmtB (f : Word) : BitVec 4 := BitVec.ofNat 4 (f.toNat / 2 ^ 4)
/-- Accumulate type: f32 rather than i32. -/
def fmtFloat (f : Word) : Bool := f.toNat / 2 ^ 8 % 4 == 1
def fmtBlock (f : Word) : Bool := f.getLsbD 10
/-- A scales in use: block scaling and A scales present. -/
def fmtScalesA (f : Word) : Bool := f.getLsbD 10 && f.getLsbD 11
/-- B scales in use: block scaling and B scales present. -/
def fmtScalesB (f : Word) : Bool := f.getLsbD 10 && f.getLsbD 12
def fmtOut (f : Word) : BitVec 4 := BitVec.ofNat 4 (f.toNat / 2 ^ 13)
def fmtSat (f : Word) : Bool := f.getLsbD 17
def fmtRtz (f : Word) : Bool := f.getLsbD 18
def fmtSlot (f : Word) : Nat := f.toNat / 2 ^ 24 % 4
def fmtScale (f : Word) : Nat := f.toNat / 2 ^ 32
/-- Row pitch in bytes of 64 elements (R320). -/
def pitch (f : BitVec 4) : Nat := 32 * halfBytes f
/-- Row function of R323. -/
def rowTick (f : Word) (i : Nat) : Nat :=
  let a := fmtA f
  let b := fmtB f
  if (a = 12 ∧ b = 12) ∨ (a = 11 ∧ b = 11) then i / 2 else if a = 6 ∨ a = 7 then 2 * i else i
/-- Drive length D of R323. -/
def driveTicks (f : Word) : Nat := rowTick f 64
/-- Element k of a packed row at an address (R320). -/
def Core.element (c : Core) (f : BitVec 4) (row k : Nat) : Nat :=
  if f = 12 then (c.tileByte (row + k / 2)).toNat / (if k % 2 = 0 then 1 else 16) % 16
  else c.tileNat (row + k * (halfBytes f / 2)) (halfBytes f / 2)

/-! ## Block sums (R175, R176) -/

/-- Product of two elements: an exact value and its flags. -/
def product (fa fb : BitVec 4) (a b : Nat) : Val × BitVec 6 :=
  if fa = 11 ∧ fb = 11 then
    let x := a % 64
    let y := b % 64
    if x = 32 ∨ y = 32 then (.nan, fNan)
    else if x % 32 = 0 ∨ y % 32 = 0 then (.fin false 0 0, 0)
    else
      let p : Int := (x % 32 : Nat) + (y % 32 : Nat) - 32
      (.fin (x / 32 != y / 32) (l6T (p % 4).toNat) (p / 4 + 8 - 18), 0)
  else
    let u := decodeElem fa a
    let v := decodeElem fb b
    let r := u.mul v
    (r.1, r.2 ||| nanFlag [u, v])
/-- The leading position of a nonzero product. -/
def leading : Val → Option Int
  | .fin _ m e => if m = 0 then none else some (e + m.log2)
  | _ => none
/-- `blocksum_float` (R176). -/
def blocksumFloat (ps : List Val) : Sum × BitVec 6 :=
  if ps.any Val.isNan then (.nan, 0)
  else
    let pos := ps.any (· == .inf false)
    let neg := ps.any (· == .inf true)
    if pos && neg then (.nan, fInvalid)
    else if pos then (.inf false, 0)
    else if neg then (.inf true, 0)
    else match (ps.filterMap leading).max? with
      | none => (.fin 0 0, 0)
      | some e =>
        let q := e - 64
        let term (v : Val) : Int := match v with
          | .fin n m x => (if n then -1 else 1) * (((roundMag true m x q).1 : Nat) : Int)
          | _ => 0
        (.fin (ps.map term).sum q, 0)
/-- An exact sum of dyadic products (R176: integers, l6 with l6). -/
def exactSum (ps : List Val) : Sum :=
  if ps.any Val.isNan then .nan
  else
    let e := (ps.map fun v => match v with | .fin _ _ x => x | _ => 0).foldl min 0
    .fin ((ps.map fun v => match v with
      | .fin n m x => (if n then -1 else 1) * ((m * 2 ^ (x - e).toNat : Nat) : Int)
      | _ => 0).sum) e
/-- The block sum of 32 element pairs. -/
def blocksum (fa fb : BitVec 4) (as bs : List Nat) : Sum × BitVec 6 :=
  let ps := (as.zip bs).map fun p => product fa fb p.1 p.2
  let fl := ps.foldl (fun f p => f ||| p.2) 0
  let vs := ps.map (·.1)
  if (isInt fa || fa == 12) || (fa = 11 ∧ fb = 11) then (exactSum vs, fl)
  else
    let r := blocksumFloat vs
    (r.1, r.2 ||| fl)
/-- One column of a row (R177, R178): scaled block sums and the flags met in forming them. -/
def column (f : Word) (as bs : List Nat) (sa0 sa1 sb0 sb1 : Nat) : Sum × Sum × BitVec 6 :=
  let r0 := blocksum (fmtA f) (fmtB f) (as.take 32) (bs.take 32)
  let r1 := blocksum (fmtA f) (fmtB f) (as.drop 32) (bs.drop 32)
  let scaled (r : Sum × BitVec 6) (a b : Nat) : Sum × BitVec 6 :=
    if a = 255 ∨ b = 255 then (.nan, r.2 ||| fNan) else (r.1.scale ((a : Int) + b - 254), r.2)
  if fmtFloat f then
    let x := scaled r0 sa0 sb0
    let y := scaled r1 sa1 sb1
    (x.1, y.1, x.2 ||| y.2)
  else (r0.1, r1.1, r0.2 ||| r1.2)

/-! ## Issue -/

/-- The tile address of the instance, stepped in a loop (R354). -/
def State.mBase (s : State) (addr : BitVec 20) : Nat := addr.toNat + s.cur.job.tileStep * 256
/-- Issue checks in the order of R316, on a path: ranges as address, length and whether they are written. -/
def State.mCheck (s : State) (path : Nat) (unit : Nat) (spans : List (Nat × Nat × Bool)) (align : Nat) (go : State) : Out :=
  let t := s.cur.job.t
  if t < s.here.freeAt path then .next (s.issueFault 0x10 2 t)
  else if 1536 ≤ unit then .next (s.issueFault 0x0A 0 unit)
  else match spans.find? fun r => decide (2 ^ 20 < r.1 + r.2.1) with
    | some r => .next (s.issueFault 0x0A 0 r.1)
    | none =>
      match spans.find? fun r => r.1 % align != 0 with
      | some r => .next (s.issueFault 0x0F 0 r.1)
      | none =>
        match (spans.filterMap fun r => s.cur.job.outsideSpan r.2.2 r.1 r.2.1).min? with
        | some a => .next (s.issueFault 0x16 0 a)
        | none => .next go
/-- Occupy a path from the issue tick. -/
def State.busyFor (s : State) (path ticks : Nat) : State := s.onCore s.cur.core fun c => c.occupy path (s.cur.job.t + ticks)
/-- Put an effect on a tick after the issue. -/
def State.after (s : State) (n : Nat) (e : Effect) : State := s.fly s.cur.core s.cur.job (s.cur.job.t + n) e
/-- Last product tick plus one of the rows that used the shadow plane (R321). -/
def Core.shadowUsed (c : Core) : Nat := if c.active then c.planeUse.1 else c.planeUse.2
/-- Note that rows use the active plane up to a tick (R321). -/
def Core.usePlane (c : Core) (upTo : Nat) : Core :=
  { c with planeUse := if c.active then (c.planeUse.1, max c.planeUse.2 upTo) else (max c.planeUse.1 upTo, c.planeUse.2) }

/-- `m.wld` (R195, R196, R319): the carder starts, on the tile whose length its header now gives; scales are read now and written at t+4. A
carder that met an error writes nothing (R361). -/
def execMWld (o : MW) (s : State) : Out :=
  let j := s.cur.job
  let unit := o.bank.toNat * 256 + o.dir.toNat * 64 + o.idx.toNat + j.tileStep
  let scaled := fmtScalesB j.entry.fmt
  let sAddr := o.addr.toNat + (if scaled then j.tileStep * 256 else 0)
  let scales := if scaled then bytesZ s.here.tile sAddr 128 else List.replicate 128 0x7F
  let go := ((s.onCore s.cur.core fun c =>
      { (if scaled then c.portWords 3 ((List.range 128).map (sAddr + ·)) else c) with
        carder := { c.carder with busy := true, slot := fmtSlot j.entry.fmt, seg := 0, step := 0, pos := 0, unit := unit,
                                  total := leNat (bytesZ c.batt (unit * 256 + 8) 4), issued := j.t, lanes := List.replicate 16 0 } }).busyFor 2 264)
  let flown := if s.here.carder.dead then go else (go.after 4 (.scales scales)).after 3 (.step 0 .none)
  if j.t < s.here.shadowUsed then .next (s.issueFault 0x10 2 j.t)
  else s.mCheck 2 unit (if scaled then [(sAddr, 128, false)] else []) 128 flown
/-- `m.wldr` (R320): one row a tick, then the scales. -/
def execMWldr (o : MW) (s : State) : Out :=
  let j := s.cur.job
  let b := s.mBase o.addr
  let n := 64 * pitch (fmtB j.entry.fmt) + (if fmtScalesB j.entry.fmt then 128 else 0)
  if j.t < s.here.shadowUsed then .next (s.issueFault 0x10 2 j.t)
  else s.mCheck 2 0 [(b, n, false)] 256 ((s.busyFor 2 65).after 0 (.step 0 .none))
/-- Whether any write of a plane load is still to perform after the current tick (R321). -/
def Core.planeLoading (c : Core) (t : Nat) : Bool :=
  c.flights.any fun f => match f.effect with
    | .plane _ => decide (t < f.tick)
    | .scales _ => decide (t < f.tick)
    | .step u _ => (match f.job.entry.ins with | .mWld _ => decide (u ≤ 256) | .mWldr _ => true | _ => false)
    | _ => false
/-- `m.wsw` (R321): the planes and their scale stores change places. -/
def execMWsw (_o : MW) (s : State) : Out :=
  let t := s.cur.job.t
  if t < s.here.freeAt 3 ∨ s.here.planeLoading t then .next (s.issueFault 0x10 2 t)
  else .next (s.onCore s.cur.core fun c => { c with active := !c.active })
/-- The ports of the A scales that `m.mac` and `m.macz` read as they issue (R121, R322). -/
def State.portScales (s : State) (scaled : Bool) (at_ : Nat) : State :=
  if scaled then s.onCore s.cur.core fun c => c.portWords 3 ((List.range 128).map (at_ + ·)) else s
/-- The issue of `m.mac` and `m.macz` (R322, R323): rows on their drive ticks, each with its micro-PC (R317); A scales are read now. -/
def State.macIssue (s : State) (o : MW) : Out :=
  let j := s.cur.job
  let f := j.entry.fmt
  let a := s.mBase o.addr
  let aw := o.m.getLsbD 1
  let len := 64 * pitch (fmtA f)
  let scaled := fmtScalesA f && !aw
  let sc (k : Nat) : Nat := if scaled then (s.here.tileByte (a + len + k)).toNat else 127
  let s1 := s.onCore s.cur.core fun c => (c.occupy 3 (j.t + driveTicks f)).usePlane (j.t + rowTick f 63 + 130)
  let go := (List.range 64).foldl (fun s' i =>
    if aw then s'.flyFrom s.cur.core j (rowTick f i) (j.t + rowTick f i + 3) false (.tap i 0 [] s.here.active 127 127)
    else s'.flyFrom s.cur.core j (rowTick f i) (j.t + rowTick f i) false (.macRow i (sc i) (sc (64 + i)))) (s1.portScales scaled (a + len))
  s.mCheck 3 0 (if aw then [] else [(a, len + (if scaled then 128 else 0), false)]) 256 go
/-- `m.mac` (R322). -/
def execMMac (o : MW) (s : State) : Out := s.macIssue o
/-- `m.macz` (R322): c0 is zero. -/
def execMMacz (o : MW) (s : State) : Out := s.macIssue o
/-- The vector register of `m.tov` and `m.frv` (R315). -/
def MW.vreg (o : MW) : BitVec 8 := BitVec.ofNat 8 (o.addr.toNat / 4096)
/-- `m.tov` (R325): reads now, writes the vector register at t+2. -/
def execMTov (o : MW) (s : State) : Out :=
  let c := s.here
  let phys := physReg c.vrb (o.addr.toNat / 4096)
  let lanes := (List.range 64).map fun j =>
    let e := mrfLane o.dir.toNat o.idx.toNat j
    (phys * 64 + j, c.entry (mrfKey o.bank.toNat e.1 e.2))
  s.mCheck 5 0 [] 1 ((s.busyFor 5 1).after 2 (.vrf lanes))
/-- `m.frv` (R325): reads the vector register now, writes the entries at t+2. -/
def execMFrv (o : MW) (s : State) : Out :=
  let c := s.here
  let phys := physReg c.vrb (o.addr.toNat / 4096)
  let lanes := (List.range 64).map fun j =>
    let e := mrfLane o.dir.toNat o.idx.toNat j
    (mrfKey o.bank.toNat e.1 e.2, c.lane (phys * 64 + j))
  s.mCheck 5 0 [] 1 (((s.onCore s.cur.core fun c => c.touch [phys]).busyFor 5 1).after 2 (.mrf lanes o.bank.toNat .none))
/-- The entries that a direction and index name: a line, or the whole bank (R116). -/
def mrfEntries (bank dir idx : Nat) : List Nat :=
  if dir = 3 then (List.range 4096).map (bank * 4096 + ·)
  else (List.range 64).map fun j => mrfKey bank (mrfLane dir idx j).1 (mrfLane dir idx j).2
/-- `m.clr` (R326). -/
def execMClr (o : MW) (s : State) : Out :=
  let s1 := (s.busyFor 5 1).after 1 (.mrf ((mrfEntries o.bank.toNat o.dir.toNat o.idx.toNat).map fun k => (k, 0)) o.bank.toNat .none)
  s.mCheck 5 0 [] 1 (if o.m.getLsbD 0 then s1.after 1 (.mrfClear o.bank.toNat) else s1)
/-- `m.out` (R329): the sticky status is read and cleared now and carried with the conversions' flags. -/
def execMOut (o : MW) (s : State) : Out :=
  let a := s.mBase o.addr
  let st := s.here.mstatus.getD o.bank.toNat .none
  let go := (((s.onCore s.cur.core fun c => { c with mstatus := alter c.mstatus o.bank.toNat fun _ => .none }).busyFor 4 65).after
    0 (.step 0 st))
  s.mCheck 4 0 [(a, 64 * pitch (fmtOut s.cur.job.entry.fmt) + 8, true)] 256 go

/-! ## Known-answer tiles (R330, R236) -/

/-- An element code of a test tile: codes that stand for no finite number become 0 (R330). -/
def katCode (f : BitVec 4) (n : Nat) : Nat :=
  let w := widthOf f
  let x := n % 2 ^ w
  if f = 9 ∧ (x = 0x7F ∨ x = 0xFF) then 0
  else if f = 10 ∧ x / 4 % 32 = 31 then 0
  else if f = 6 ∧ x / 2 ^ 7 % 256 = 255 then 0
  else if f = 7 ∧ x / 2 ^ 10 % 32 = 31 then 0
  else if f = 11 ∧ x = 0x20 then 0
  else if f = 12 ∧ x = 8 then 0
  else x
/-- One byte of a CRC-32C (R236). -/
def crcByte (crc b : Nat) : Nat :=
  (List.range 8).foldl (fun c _ => if c % 2 = 1 then c / 2 ^^^ 0x82F63B78 else c / 2) (crc ^^^ b)
/-- CRC-32C of bytes (R236). -/
def crc32c (bs : List Nat) : Nat := bs.foldl crcByte 0xFFFFFFFF ^^^ 0xFFFFFFFF
/-- The 64×64 results of a known-answer tile, row by row (R330). DEDUCED: log 32. -/
def katResults (f : Word) (p : Nat) : List Nat :=
  let a (i k : Nat) := katCode (fmtA f) (37 * i + 11 * k + 5 * p)
  let b (k n : Nat) := katCode (fmtB f) (13 * k + 29 * n + 3 * p + 1)
  (List.range 64).flatMap fun i => (List.range 64).map fun n =>
    let c := column f ((List.range 64).map (a i ·)) ((List.range 64).map (b · n)) 127 127 127 127
    (accumulate (fmtFloat f) 0 c.1 c.2.1).1
/-- `m.kat` (R330): the drive path is busy for D ticks, and the CRC is compared when the last entry would be written. -/
def execMKat (o : MW) (s : State) : Out :=
  let f := s.cur.job.entry.fmt
  let crc := o.bank.toNat * 2 ^ 29 + o.dir.toNat * 2 ^ 27 + o.idx.toNat * 2 ^ 21 + o.addr.toNat * 2 + o.m.toNat / 64
  let found := crc32c ((katResults f (o.m.toNat % 64)).flatMap fun x => (leBytes 4 x).map (·.toNat))
  s.mCheck 3 0 [] 1 ((s.busyFor 3 (driveTicks f)).after (rowTick f 63 + 133) (.kat (BitVec.ofNat 32 found) (BitVec.ofNat 32 crc)))
/-- `m.tr` (R327): one column read and one row written a tick. -/
def execMTr (_o : MW) (s : State) : Out := s.mCheck 5 0 [] 1 ((s.busyFor 5 64).after 0 (.step 0 .none))
/-- Sum of two entries by `m.add` (R328). -/
def addEntry (float : Bool) (a b : Lane) : Nat × BitVec 6 :=
  if float then
    let u := decodeElem 8 a.toNat
    let v := decodeElem 8 b.toNat
    finish 8 false [u, v] (u.add v)
  else
    let n := sextNat 32 a.toNat + sextNat 32 b.toNat
    (intBits 32 n, if n < -(2 ^ 31) ∨ 2 ^ 31 ≤ n then fSat else 0)
/-- The sums of entries and the flags they leave: keys within a bank (R328). -/
def Core.addLine (c : Core) (o : MW) (keys : List Nat) : Effect :=
  let r := keys.map fun k =>
    (k, addEntry (o.m.getLsbD 6) (c.entry (o.m.toNat % 8 * 4096 + k)) (c.entry (o.m.toNat / 8 % 8 * 4096 + k)))
  .mrf (r.map fun x => (o.bank.toNat * 4096 + x.1, BitVec.ofNat 32 x.2.1)) o.bank.toNat
    (r.foldl (fun st x => st.merge (Status.one x.1 x.2.2 0)) .none)
/-- `m.add` (R328): a line at t+3, or the whole bank row by row. -/
def execMAdd (o : MW) (s : State) : Out :=
  if o.dir = 3 then s.mCheck 5 0 [] 1 ((s.busyFor 5 64).after 0 (.step 0 .none))
  else s.mCheck 5 0 [] 1 ((s.busyFor 5 1).after 3 (s.here.addLine o (mrfEntries 0 o.dir.toNat o.idx.toNat)))

/-! ## Rows in the array -/

/-- The sums of a row against a plane, and the entry that will be written first, 70 ticks after the row's drive tick (R323). -/
def State.rowSums (s : State) (core : Nat) (j : Job) (o : MW) (tick i : Nat) (codes : List Nat) (second : Bool) (sa0 sa1 : Nat)
    (aSubs : Nat) : State :=
  let c := s.core core
  let f := j.entry.fmt
  let plane := c.plane second
  let sb (k : Nat) : Nat := if fmtScalesB f then (readZ (c.scaleStore second) k).toNat else 127
  let elem (k n : Nat) : Nat := (readZ plane (64 * k + n)).toNat
  let cols := (List.range 64).map fun n =>
    let r := column f codes ((List.range 64).map (elem · n)) sa0 sa1 (sb n) (sb (64 + n))
    (r.1, r.2.1, Status.one (64 * i + n) r.2.2 0)
  let bSubs := if i = 0 ∧ fmtB f = 12 then (plane.filter fun e => e.2.toNat % 16 == 8).length else 0
  let sub := (Status.one (64 * i) 0 aSubs).merge (Status.one 0 0 bSubs)
  let fresh := match j.entry.ins with | .mMacz _ => true | _ => false
  s.flyFrom core j (rowTick f i) (tick + 70) false
    (.macCol i 0 o.bank.toNat cols (fmtFloat f) fresh (o.m.getLsbD 2) (o.m.getLsbD 3) sub)
/-- The M word of a multiplying instruction. -/
def macWord : Instr → Option MW
  | .mMac o => some o
  | .mMacz o => some o
  | _ => none
/-- Which of the A rows that share a tick (rate 2) row i is: 0 for the first, and for every row that has its tick alone (R317). -/
def Job.half (j : Job) (i : Nat) : Nat := if i % 2 = 1 ∧ rowTick j.entry.fmt (i - 1) = rowTick j.entry.fmt i then 1 else 0
/-- A row read from tile memory on its drive tick (R322, R323), driven east with `ae` (R324). -/
def State.macRow (s : State) (core : Nat) (j : Job) (i sa0 sa1 : Nat) : State :=
  match macWord j.entry.ins with
  | none => s
  | some o =>
    let f := j.entry.fmt
    let c := s.core core
    let row := o.addr.toNat + j.tileStep * 256 + i * pitch (fmtA f)
    let codes := (List.range 64).map fun k => c.element (fmtA f) row k
    let subs := (codes.filter fun x => substituted (fmtA f) x).length
    let s1 := s.onCore core fun c => (c.portWords 3 ((List.range (pitch (fmtA f))).map (row + ·))).enterStream
      (codes.mapIdx fun k x => (j.t + rowTick f i + 3 + k, k, BitVec.ofNat 16 x))
    let s2 := s1.rowSums core j o (j.t + rowTick f i) i codes c.active sa0 sa1 subs
    if o.m.getLsbD 0 then
      (codes.mapIdx fun k x => (k, x)).foldl
        (fun s p => s.driveEast core j (j.t + rowTick f i + 3 + p.1) p.1 (j.half i) (BitVec.ofNat 16 p.2) sa0 sa1) s2
    else s2
/-- The micro-PC that a flight of a row names (R317). -/
def Job.rowPc (j : Job) (i : Nat) : Nat := rowTick j.entry.fmt i
/-- One PE row's tap of the west link (R324): after PE row 63 the row's sums are known. `waited`: ticks that the row has waited for late link data. -/
def State.tapRow (s : State) (core : Nat) (j : Job) (tick waited i k : Nat) (codes : List (BitVec 16)) (second : Bool) (sa0 sa1 : Nat) : State :=
  match macWord j.entry.ins, s.tapWest core j tick waited k (j.half i) with
  | some o, .value a late =>
    let x0 := if k = 0 then a.2.1 else sa0
    let x1 := if k = 0 then a.2.2 else sa1
    let codes' := codes ++ [a.1]
    let h := if late = 0 then s else s.hold core .late tick (some late) true
    let s0 := h.onCore core fun c => c.enterStream [(tick, k, a.1)]
    let s1 := if o.m.getLsbD 0 then s0.driveEast core j tick k (j.half i) a.1 x0 x1 else s0
    if k < 63 then s1.flyWaited core j (j.rowPc i) (tick + 1) waited (.tap i (k + 1) codes' second x0 x1)
    else
      let f := j.entry.fmt
      let ns := codes'.map (·.toNat)
      let sc (x : Nat) := if fmtScalesA f then x else 127
      s1.rowSums core j o (tick - 66) i ns second (sc x0) (sc x1) ((ns.filter fun x => substituted (fmtA f) x).length)
  | _, _ => s
/-- One entry of a row on its write tick (R177, R178, R186, R323): c0 as the tick before left it, the new value, its flags, and the
next column. -/
def State.macEntry (s : State) (old : Core) (core : Nat) (j : Job) (tick waited row col bank : Nat) (sums : List (Sum × Sum × Status))
    (float fresh south north : Bool) (sub : Status) : State :=
  let tapped : Lane × Nat := if north then (match s.tapNorth core j (tick - 1) waited col (j.half row) with | .value x late => (x, late) | .wait => (0, 0)) else (0, 0)
  let c0 : Nat := if fresh then 0 else if north then tapped.1.toNat else (old.entry (mrfKey bank row col)).toNat
  let x := sums.getD col (.fin 0 0, .fin 0 0, .none)
  let r := accumulate float c0 x.1 x.2.1
  let st := (Status.one (64 * row + col) (r.2 ||| x.2.2.flags) 0).merge (if col = 0 then sub else .none)
  let v : Lane := BitVec.ofNat 32 r.1
  let s0 := if tapped.2 = 0 then s else s.hold core .late tick (some tapped.2) true
  let s1 := s0.onCore core fun c => c.mergeBank j bank st
  let s2 := if south then s1.driveSouth core j tick col (j.half row) v
    else s1.onCore core fun c => { c.noteWrite j [16384 + mrfKey bank row col] with mrf := writeZ c.mrf (mrfKey bank row col) v }
  if col < 63 then
    s2.flyWaited core j (j.rowPc row) (tick + 1) waited (.macCol row (col + 1) bank sums float fresh south north sub)
  else s2

end Sys2Proof.Machine
end

