-- ==== Sys2Proof/Machine/Carder.lean ====
section
/-! DEFINITION. The later steps of matrix instructions: the carder's decode (R190 to R198), `m.wldr`, `m.out`, `m.tr` and `m.add`
row by row (R320, R327 to R329), and the carder's catch-up before a replay (R200). -/
namespace Sys2Proof.Machine

/-! ## The carder -/

/-- First byte in the batt of the tile in decode. -/
def Core.tileBase (c : Core) : Nat := c.carder.unit * 256
/-- n bytes of the coded tile at an offset, as a number. -/
def Core.coded (c : Core) (off n : Nat) : Nat := leNat (bytesZ c.batt (c.tileBase + off) n)
/-- A piton: the offset of a segment, or of the tile's end (R190, R191). -/
def Core.piton (c : Core) (s : Nat) : Nat := if s < 4 then c.coded (16 + 4 * s) 4 else c.carder.total
/-- `tval` of fault 0x18 (R197). DEDUCED: log 33. -/
def malformed (sub seg sym off : Nat) : Word := BitVec.ofNat 64 (sub + seg * 2 ^ 8 + sym * 2 ^ 16 + off % 2 ^ 32 * 2 ^ 32)
/-- The first header check that fails (R190, R191, R197): its subcode and the offset of the field. DEDUCED: log 33. -/
def Core.headerFault (c : Core) (f : Word) : Option (Nat × Nat) :=
  let total := c.coded 8 4
  let fields : List (Nat × Bool) :=
    [(0, c.coded 0 2 == 0x5743), (2, c.coded 2 1 == 1), (3, c.coded 3 1 == (fmtB f).toNat), (4, c.coded 4 1 == fmtSlot f),
     (5, c.coded 5 1 == 64), (6, c.coded 6 1 == 64), (7, c.coded 7 1 == 4),
     (8, total % 32 == 0 && decide (288 ≤ total) && decide (total ≤ 8480) && decide (c.tileBase + total ≤ 1536 * 256)),
     (12, c.coded 12 4 == 0)]
  match fields.find? fun x => !x.2 with
  | some x => some (1, x.1)
  | none =>
    let b := c.codebooks.getD (fmtSlot f) .empty
    if !b.loaded then some (2, 4)
    else if b.sum ≠ 4096 then some (3, 4)
    else
      let p (s : Nat) : Nat := if s < 4 then c.coded (16 + 4 * s) 4 else total
      match (List.range 4).find? fun s => p s % 32 != 0 || (s == 0 && p 0 != 32) || decide (p (s + 1) < p s + 64) with
      | some s => some (7, 16 + 4 * s)
      | none => none
/-- The symbol whose interval holds a slot, with its cumulative frequency (R187, R192). -/
def findSymbol : List Nat → Nat → Nat → Nat → Option (Nat × Nat × Nat)
  | [], _, _, _ => none
  | q :: r, sym, cum, slot => if slot < cum + q then some (sym, q, cum) else findSymbol r (sym + 1) (cum + q) slot
/-- What one lane's step gives (R192): symbol, state, next word position, and whether a word past the end was needed. -/
def Core.laneStep (c : Core) (freq : List Nat) (stop x pos : Nat) : Nat × Nat × Nat × Bool :=
  let slot := x % 4096
  match findSymbol freq 0 0 slot with
  | none => (0, x, pos, false)
  | some (sym, q, cum) =>
    let y := q * (x / 4096) + slot - cum
    if 0x10000 ≤ y then (sym, y, pos, false)
    else if stop < pos + 2 then (sym, y, pos, true)
    else (sym, y * 65536 + c.coded pos 2, pos + 2, false)
/-- A decode step in progress: symbols so far, states so far, next word, and the faults met (R197): subcode, symbol, offset. -/
structure DecodeRun where
  syms : List Nat
  states : List Nat
  pos : Nat
  short : Option (Nat × Nat)
  bad : Option (Nat × Nat)
deriving DecidableEq, Repr
/-- One more lane of a step. -/
def Core.decodeLane (c : Core) (freq : List Nat) (limit stop first : Nat) (r : DecodeRun) (x : Nat) : DecodeRun :=
  if r.short.isSome then r
  else
    let i := first + r.syms.length
    let n := c.laneStep freq stop x r.pos
    { syms := r.syms ++ [n.1], states := r.states ++ [n.2.1], pos := n.2.2.1,
      short := if n.2.2.2 then some (i, r.pos) else none,
      bad := match r.bad with
        | some b => some b
        | none => if limit < n.1 then some (i, r.pos) else none }
/-- The largest element code that a format allows (R197). -/
def codeLimit (f : BitVec 4) : Nat := if f = 11 then 0x3F else if f = 12 then 0x0F else 0xFF
/-- Step c of segment s (R192, R193, R197): the carder after it, the symbols decoded, and the fault if there is one. -/
def Core.decodeStep (c : Core) (f : Word) (s k : Nat) : Carder × List Nat × Option Word :=
  let start := c.piton s
  let stop := c.piton (s + 1)
  let lanes := if k = 0 then (List.range 16).map (fun l => c.coded (start + 4 * l) 4) else c.carder.lanes
  let pos := if k = 0 then start + 64 else c.carder.pos
  match (if k = 0 then lanes.findIdx? fun x => decide (x < 0x10000) else none) with
  | some l => (c.carder, [], some (malformed 5 s 0xFFFF (start + 4 * l)))
  | none =>
    let r := lanes.foldl (c.decodeLane (c.codebooks.getD (fmtSlot f) .empty).freq (codeLimit (fmtB f)) stop (16 * k))
      { syms := [], states := [], pos := pos, short := none, bad := none }
    let next : Carder := { c.carder with seg := if k = 63 then s + 1 else s, step := if k = 63 then 0 else k + 1, pos := r.pos,
                                         lanes := r.states }
    match r.short, r.bad with
    | some x, _ => (c.carder, [], some (malformed 4 s x.1 x.2))
    | none, some x => (c.carder, [], some (malformed 8 s x.1 x.2))
    | none, none =>
      if k ≠ 63 then (next, r.syms, none)
      else match r.states.findIdx? fun x => x != 0x10000 with
        | some l => (c.carder, [], some (malformed 5 s 0xFFFF (start + 4 * l)))
        | none =>
          if r.pos + 32 < stop ∨ (bytesZ c.batt (c.tileBase + r.pos) (stop - r.pos)).any (fun b => b != 0) then
            (c.carder, [], some (malformed 6 s 0xFFFF r.pos))
          else (next, r.syms, none)
/-- A malformed tile stops the carder (R198): writes that have not performed are dropped. DEDUCED: log 33. -/
def State.carderFault (s : State) (core : Nat) (j : Job) (u tick : Nat) (v : Word) : State :=
  (s.suspend core j u .none 0x18 0 v tick).onCore core fun c =>
    { c with carder := { c.carder with busy := false }, busy := alter c.busy 2 fun _ => 0,
             flights := c.flights.filter fun f => f.job.seq != j.seq }
/-- One step of `m.wld` (R195): the header at t+3, a decode step, or the end at t+264. DEDUCED: log 33. -/
def State.carderStep (s : State) (core : Nat) (j : Job) (u tick : Nat) : State :=
  let c := s.core core
  let f := j.entry.fmt
  if !c.carder.busy || c.carder.dead then s
  else if u = 0 then
    match c.headerFault f with
    | some (sub, off) => s.carderFault core j 0 tick (malformed sub 0xFF 0xFFFF off)
    | none =>
      (s.onCore core fun c => { c with carder := { c.carder with total := c.coded 8 4 } }).flyFrom core j 1 (tick + 1) false (.step 1 .none)
  else if 257 ≤ u then s.onCore core fun c => { c with carder := { c.carder with busy := false } }
  else
    let seg := (u - 1) / 64
    let k := (u - 1) % 64
    let r := c.decodeStep f seg k
    match r.2.2 with
    | some v => s.carderFault core j u tick v
    | none =>
      let elems := r.2.1.mapIdx fun i x => (64 * (16 * seg + k / 4) + 16 * (k % 4) + i, BitVec.ofNat 16 x)
      let s1 := (s.onCore core fun c => { c with carder := r.1 }).flyFrom core j u (tick + 4) false (.plane elems)
      s1.flyFrom core j (u + 1) (tick + (if u = 256 then 5 else 1)) false (.step (u + 1) .none)
/-- The carder at the restart point of a phase (R200): lane states decoded again up to the recorded step, with nothing written. -/
def Core.catchUp (c : Core) (saved : Carder) (f : Word) : Carder :=
  if !saved.busy then saved
  else match saved.restart with
    | none => saved
    | some (seg, step) =>
      let c0 := { c with carder := { saved with seg := seg, step := 0 } }
      ((List.range step).foldl (fun (c : Core) k => { c with carder := (c.decodeStep f seg k).1 }) c0).carder

/-! ## The other steps -/

/-- One step of `m.wldr` (R320): a row, then the scales. -/
def State.wldrStep (s : State) (core : Nat) (j : Job) (o : MW) (u tick : Nat) : State :=
  let c := s.core core
  let f := j.entry.fmt
  let fb := fmtB f
  let b := o.addr.toNat + j.tileStep * 256
  if u < 64 then
    let row := b + u * pitch fb
    let elems := (List.range 64).map fun n =>
      (64 * u + n, BitVec.ofNat 16 (let x := c.element fb row n; if fb = 11 then x % 64 else x))
    let s1 := s.onCore core fun c => c.portWords 3 ((List.range (pitch fb)).map (row + ·))
    (s1.flyFrom core j u (tick + 2) false (.plane elems)).flyFrom core j (u + 1) (tick + 1) false (.step (u + 1) .none)
  else
    let scaled := fmtScalesB f
    let s1 := if scaled then s.onCore core fun c => c.portWords 3 ((List.range 128).map (b + 64 * pitch fb + ·)) else s
    s1.flyFrom core j u (tick + 1) false
      (.scales (if scaled then bytesZ c.tile (b + 64 * pitch fb) 128 else List.replicate 128 0x7F))
/-- One converted entry of `m.out` (R179). -/
def outEntry (f : Word) (x : Lane) : Nat × BitVec 6 :=
  let v : Val := if fmtFloat f then decodeElem 8 x.toNat else .ofInt (sextNat 32 x.toNat)
  let k := decodeElem 8 (fmtScale f)
  let p := v.mul k
  let r := toFormat (fmtOut f) (fmtRtz f) (fmtSat f) p.1
  let nan := nanFlag [v, k]
  (r.1, p.2 ||| (r.2 &&& ~~~fNan) ||| nan)
/-- A row of element codes packed as `m.out` writes it (R329). -/
def packElems (f : BitVec 4) (codes : List Nat) : List Byte :=
  if f = 12 then (List.range 32).map fun i => BitVec.ofNat 8 (codes.getD (2 * i) 0 % 16 + codes.getD (2 * i + 1) 0 % 16 * 16)
  else codes.flatMap fun x => leBytes (halfBytes f / 2) (if f = 11 then x % 64 else x)
/-- One step of `m.out` (R329): a row; after the last one the status word. -/
def State.outStep (s : State) (core : Nat) (j : Job) (o : MW) (u tick : Nat) (carry : Status) : State :=
  let c := s.core core
  let f := j.entry.fmt
  let at_ := o.addr.toNat + j.tileStep * 256
  let p := pitch (fmtOut f)
  let r := (List.range 64).map fun n => outEntry f (c.entry (mrfKey o.bank.toNat u n))
  let st := (r.mapIdx fun n x => Status.one (64 * u + n) x.2 0).foldl Status.merge carry
  let s1 := s.flyFrom core j u (tick + 4) false (.tile (cellsAt (at_ + u * p) (packElems (fmtOut f) (r.map (·.1)))))
  if u < 63 then s1.flyFrom core j (u + 1) (tick + 1) false (.step (u + 1) st)
  else s1.flyFrom core j u (tick + 5) false (.tile (cellsAt (at_ + 64 * p) (leBytes 8 st.word.toNat)))
/-- One step of `m.tr` (R327). -/
def State.trStep (s : State) (core : Nat) (j : Job) (o : MW) (u tick : Nat) : State :=
  let c := s.core core
  let lanes := (List.range 64).map fun n => (mrfKey o.bank.toNat u n, c.entry (mrfKey (o.m.toNat % 8) n u))
  let s1 := s.flyFrom core j u (tick + 2) false (.mrf lanes o.bank.toNat .none)
  if u < 63 then s1.flyFrom core j (u + 1) (tick + 1) false (.step (u + 1) .none) else s1
/-- One step of `m.add` over a whole bank (R328). -/
def State.addStep (s : State) (core : Nat) (j : Job) (o : MW) (u tick : Nat) : State :=
  let s1 := s.flyFrom core j u (tick + 3) false ((s.core core).addLine o (mrfEntries 0 0 u))
  if u < 63 then s1.flyFrom core j (u + 1) (tick + 1) false (.step (u + 1) .none) else s1
/-- One later step of an M instruction at its tick. -/
def State.mStep (s : State) (core : Nat) (j : Job) (u tick : Nat) (carry : Status) : State :=
  match j.entry.ins with
  | .mWldr o => s.wldrStep core j o u tick
  | .mOut o => s.outStep core j o u tick carry
  | .mTr o => s.trStep core j o u tick
  | .mAdd o => s.addStep core j o u tick
  | _ => s

end Sys2Proof.Machine
end

