-- ==== Sys2Proof/Machine/CtlMem.lean ====
section
/-! DEFINITION. Control-core memory: spill (R269), loads and stores (R270 to R272), atomics (R273), their performing (R140 to R143),
fences and persist barriers (R146, R147, R159, R161, R274), and the wait on a word (R282). -/
namespace Sys2Proof.Machine

/-! ## Issue -/

/-- The checks of a dereference in the order of R128: a fault code with its value, or the place and the translation used. -/
def State.placeOf (s : State) (p : Word) (n : Nat) (want : Want) (atomic : Bool) : Except (Nat × Word) (Place × Option TlbEntry) :=
  match decodePtr p with
  | none => .error (0x0A, p)
  | some (sp, own, off) =>
    if atomic ∧ 2 ≤ sp then .error (0x0A, p)
    else if own.isSome ∧ own ≠ some s.cur.core then .error (0x0B, p)
    else if off % n ≠ 0 then .error (0x0F, p)
    else if sp = 1 then if s.regionOk s.cur.core off then .ok (.cluster off, none) else .error (0x09, BitVec.ofNat 64 off)
    else if sp = 2 then .ok (.tile off, none)
    else if sp = 3 then .ok (.spill off, none)
    else match s.mapCore s.cur.core s.here.level.toNat off n want with
      | .error c => .error (c, p)
      | .ok (m, e) =>
        if m.medium = .peer then .ok (.peer off (m.pa / 2 ^ 36 % 256) (m.pa % 2 ^ 36), some e)
        else .ok (.global off m.pa m.durable, some e)
/-- Whether a place lies in another package, so that the instruction waits for the answer (R134). -/
def Place.remote : Place → Bool
  | .peer .. => true
  | _ => false
/-- Whether a kind returns a value. -/
def AccessKind.returns : AccessKind → Bool
  | .load .. => true
  | .amo .. => true
  | .inbox .. => true
  | _ => false
/-- Whether a kind is an atomic (R148). -/
def AccessKind.atomic : AccessKind → Bool
  | .amo .. => true
  | _ => false
/-- An access that leaves the core that acts, with what it left with (R60, R133, R205). -/
def State.newAccess (s : State) (cls : Nat) (pl : Place) (kind : AccessKind) (translated : Bool) : Access :=
  { id := s.serial, cls := cls, place := pl, kind := kind, gen := s.gen (s.worldOf s.cur.core), sent := none, bad := false, pc := s.here.pc,
    tick := s.rtick s.cur.core, asid := if translated then s.asidOf s.cur.core else none }
/-- Let an access leave the core (R265): at most 16 are out; an access that asks another package for a value keeps
the instruction waiting until the answer comes (R134), every other one retires. DEDUCED: log 65. -/
def State.issueAccess (s : State) (cls : Nat) (p : Word) (n : Nat) (want : Want) (kind : AccessKind) : State :=
  if 16 ≤ s.here.accesses.length ∨ (s.here.accesses.any fun a => a.place.remote && a.kind.returns) then s
  else match s.placeOf p n want kind.atomic with
    | .error (c, v) => s.faultHere c v
    | .ok (pl, e) =>
      let a := s.newAccess cls pl kind e.isSome
      let s1 := match e with | some e => s.fillTlb s.cur.core (p.toNat) e | none => s
      let s2 := { s1 with serial := s1.serial + 1 }.setHere { s1.here with accesses := s1.here.accesses ++ [a] }
      if pl.remote ∧ kind.returns then s2 else s2.setHere s2.here.retire

/-- A load (R270): P := A + I. -/
def State.load (s : State) (d a : Reg) (cls : BitVec 4) (imm : BitVec 32) (n : Nat) (sx : Bool) : Out :=
  s.waitFor [d, a] (s.issueAccess cls.toNat (s.here.reg a + immI imm) n .read (.load d n sx))
/-- A store (R270) of B's low bytes. -/
def State.storeReg (s : State) (b a : Reg) (cls : BitVec 4) (imm : BitVec 32) (n : Nat) : Out :=
  s.waitFor [b, a] (s.issueAccess cls.toNat (s.here.reg a + immI imm) n .write (.store (leBytes n (s.here.reg b).toNat)))
/-- An atomic (R273) at address A; d is the compare value of `cas` and receives the old value. -/
def State.amo (s : State) (op : AmoOp) (d a b : Reg) (wide : Bool) (cls : BitVec 4) : Out :=
  let n := if wide then 8 else 4
  s.waitFor [d, a, b] (s.issueAccess cls.toNat (s.here.reg a) n .readWrite (.amo op d n (s.here.reg b) (s.here.reg d)))

/-- `c.ld.i8` (R270, R271). -/
def execCLdI8 (d a : Reg) (cls : BitVec 4) (imm : BitVec 32) (s : State) : Out :=
  s.load d a cls imm 1 true

/-- `c.ld.n8` (R270, R271). -/
def execCLdN8 (d a : Reg) (cls : BitVec 4) (imm : BitVec 32) (s : State) : Out :=
  s.load d a cls imm 1 false

/-- `c.ld.i16` (R270, R271). -/
def execCLdI16 (d a : Reg) (cls : BitVec 4) (imm : BitVec 32) (s : State) : Out :=
  s.load d a cls imm 2 true

/-- `c.ld.n16` (R270, R271). -/
def execCLdN16 (d a : Reg) (cls : BitVec 4) (imm : BitVec 32) (s : State) : Out :=
  s.load d a cls imm 2 false

/-- `c.ld.i32` (R270, R271). -/
def execCLdI32 (d a : Reg) (cls : BitVec 4) (imm : BitVec 32) (s : State) : Out :=
  s.load d a cls imm 4 true

/-- `c.ld.n32` (R270, R271). -/
def execCLdN32 (d a : Reg) (cls : BitVec 4) (imm : BitVec 32) (s : State) : Out :=
  s.load d a cls imm 4 false

/-- `c.ld.64` (R270, R271). -/
def execCLd64 (d a : Reg) (cls : BitVec 4) (imm : BitVec 32) (s : State) : Out :=
  s.load d a cls imm 8 false

/-- `c.st.8` (R270, R271). -/
def execCSt8 (b a : Reg) (cls : BitVec 4) (imm : BitVec 32) (s : State) : Out :=
  s.storeReg b a cls imm 1

/-- `c.st.16` (R270, R271). -/
def execCSt16 (b a : Reg) (cls : BitVec 4) (imm : BitVec 32) (s : State) : Out :=
  s.storeReg b a cls imm 2

/-- `c.st.32` (R270, R271). -/
def execCSt32 (b a : Reg) (cls : BitVec 4) (imm : BitVec 32) (s : State) : Out :=
  s.storeReg b a cls imm 4

/-- `c.st.64` (R270, R271). -/
def execCSt64 (b a : Reg) (cls : BitVec 4) (imm : BitVec 32) (s : State) : Out :=
  s.storeReg b a cls imm 8

/-- `c.amo.add` (R273). -/
def execCAmoAdd (d a b : Reg) (wide : Bool) (cls : BitVec 4) (s : State) : Out :=
  s.amo .add d a b wide cls

/-- `c.amo.swap` (R273). -/
def execCAmoSwap (d a b : Reg) (wide : Bool) (cls : BitVec 4) (s : State) : Out :=
  s.amo .swap d a b wide cls

/-- `c.amo.cas` (R273). -/
def execCAmoCas (d a b : Reg) (wide : Bool) (cls : BitVec 4) (s : State) : Out :=
  s.amo .cas d a b wide cls

/-- `c.amo.and` (R273). -/
def execCAmoAnd (d a b : Reg) (wide : Bool) (cls : BitVec 4) (s : State) : Out :=
  s.amo .and d a b wide cls

/-- `c.amo.or` (R273). -/
def execCAmoOr (d a b : Reg) (wide : Bool) (cls : BitVec 4) (s : State) : Out :=
  s.amo .or d a b wide cls

/-- `c.amo.xor` (R273). -/
def execCAmoXor (d a b : Reg) (wide : Bool) (cls : BitVec 4) (s : State) : Out :=
  s.amo .xor d a b wide cls

/-- `c.amo.min` (R273). -/
def execCAmoMin (d a b : Reg) (wide : Bool) (cls : BitVec 4) (s : State) : Out :=
  s.amo .min d a b wide cls

/-- `c.amo.max` (R273). -/
def execCAmoMax (d a b : Reg) (wide : Bool) (cls : BitVec 4) (s : State) : Out :=
  s.amo .max d a b wide cls

/-- `c.amo.minn` (R273). -/
def execCAmoMinn (d a b : Reg) (wide : Bool) (cls : BitVec 4) (s : State) : Out :=
  s.amo .minn d a b wide cls

/-- `c.amo.maxn` (R273). -/
def execCAmoMaxn (d a b : Reg) (wide : Bool) (cls : BitVec 4) (s : State) : Out :=
  s.amo .maxn d a b wide cls

/-! ## Performing -/

/-- CONTROL_CORE_ACCESS_PERFORM (R13, R14, R140 to R143): one outstanding access performs, if its order allows, and in HBM the slot in force. -/
def execEvControlCoreAccessPerform (core id : Nat) (s : State) : Out :=
  match (s.core core).accesses.find? fun a => a.id == id with
  | some a => if (s.core core).mayPerform a && s.servable core a then .next (s.performAccess core a) else .next s
  | none => .next s

/-! ## Spill memory -/

/-- Whether an outstanding private access touches a spill word (R142, R269). -/
def Core.spillBusy (c : Core) (off : Nat) : Bool :=
  c.accesses.any fun a => a.span.1 == 3 && decide (a.span.2.1 < off + 8) && decide (off < a.span.2.1 + a.span.2.2)
/-- `c.spl.ld` (R269). -/
def execCSplLd (d : Reg) (off : BitVec 32) (s : State) : Out :=
  if s.here.spillBusy off.toNat then .next s
  else s.alu d [] (BitVec.ofNat 64 (leNat (bytesZ s.here.spill off.toNat 8)))
/-- `c.spl.st` (R269). -/
def execCSplSt (a : Reg) (off : BitVec 32) (s : State) : Out :=
  if s.here.spillBusy off.toNat then .next s
  else s.waitFor [a] (s.setHere
    ({ s.here with spill := writeAllZ s.here.spill (cellsAt off.toNat (leBytes 8 (s.here.reg a).toNat)) }.retire))

/-! ## Fences and persist barriers -/

/-- Whether a class mask names a class. -/
def inMask (m : BitVec 16) (cls : Nat) : Bool := m.getLsbD cls
/-- The scope from which a fence covers a place (R146). -/
def Place.scope : Place → Nat
  | .tile _ => 0
  | .spill _ => 0
  | .cluster _ => 1
  | .global .. => 2
  | .peer .. => 3
/-- The scope from which a fence covers an engine instruction that has not finished (R146); none: it accesses no target. -/
def scopeOf : Instr → Option Nat
  | .lGet _ | .lGetb _ | .lGath _ | .lCget _ | .lTcpy _ | .lZero _ => some 0
  | .lGetw _ | .lCbld _ => some 2
  | .sPut _ | .sCput _ | .sScat _ | .sRed _ => some 0
  | .sSig _ => some 2
  | .mWld _ | .mWldr _ | .mMac _ | .mMacz _ | .mOut _ => some 0
  | .vLd _ | .vLds _ | .vLdx _ | .vSt _ | .vSts _ | .vStx _ | .vStm _ | .vPst _ | .vPld _ | .vStw _ => some 0
  | _ => none
/-- The scope from which a fence covers an effect that has not performed. -/
def Effect.scope : Effect → Option Nat
  | .tile _ => some 0
  | .cluster .. => some 1
  | .batt .. => some 2
  | .codebook .. => some 2
  | .index _ => some 2
  | .global _ pa _ _ => some (if pa / 2 ^ 44 = 15 then 3 else 2)
  | .signal _ pa _ _ _ => some (if pa / 2 ^ 44 = 15 then 3 else 2)
  | .reduce .. => some 2
  | _ => none
/-- Whether an effect is of an access of its instruction to tile memory that is still to perform, or comes of one that is. -/
def Effect.ofTile : Effect → Bool
  | .step .. | .macRow .. | .vrf _ | .pred .. | .plane _ | .scales _ => true
  | _ => false
/-- The scope from which a fence covers a flight (R146). -/
def Flight.scope (f : Flight) : Option Nat := if f.effect.ofTile then scopeOf f.job.entry.ins else f.effect.scope
/-- The engine accesses of a core that a fence still waits for (R146). DEDUCED: log 38. -/
def Core.engineBusy (c : Core) (m : BitVec 16) (scope : Nat) : Bool :=
  let covers (i : Instr) : Bool := inMask m (classOf i) && (match scopeOf i with | some k => decide (k ≤ scope) | none => false)
  c.queues.any (fun q => q.entries.any (fun e => covers e.ins) || (match q.susp with | some x => covers x.job.entry.ins | none => false))
    || c.flights.any fun f => inMask m (classOf f.job.entry.ins) && (match f.scope with | some k => decide (k ≤ scope) | none => false)
/-- The durable writes that a barrier of this core waits for (R159): classes of a mask. -/
def DurableWrite.ofCore (d : DurableWrite) (core : Nat) (m : BitVec 16) : Bool := d.core == some core && inMask m d.cls && !d.image
/-- The lowest virtual address of failed writes (R161). -/
def lowestFailed (ds : List DurableWrite) : Option Nat :=
  (ds.filter (·.failed)).foldl (fun m d => match m with | some v => some (min v d.va) | none => some d.va) none
/-- A barrier's guarantee lapses for durable writes that it waited for (R161). -/
def State.lapse (s : State) (p : DurableWrite → Bool) : State :=
  { s with durable := s.durable.map fun d => if p d then { d with failed := false, lapsed := true } else d }
/-- The failure of a persist barrier or fence (R161): the guarantee lapses for every write it waited for. Accesses that have left the core complete
before the fault is taken (R203), so until then it waits. -/
def State.persistFault (s : State) (p : DurableWrite → Bool) (va : Nat) : State :=
  if !s.here.accesses.isEmpty then s else (s.lapse p).faultHere 0x31 (BitVec.ofNat 64 va)

/-- `c.fence` (R146, R147, R274): retires once nothing that it covers is left, and waits where it stands until then. DEDUCED: log 38. -/
def execCFence (mask : BitVec 16) (scope : BitVec 3) (s : State) : Out :=
  let sc := scope.toNat
  let c := s.here
  let mine (d : DurableWrite) : Bool := d.ofCore s.cur.core mask && !d.accepted
  let busy := (c.accesses.any fun a => inMask mask a.cls && decide (a.place.scope ≤ sc)) || c.engineBusy mask sc
    || (decide (3 ≤ sc) && s.outgoing.any fun o => o.core == s.cur.core && inMask mask o.cls)
    || c.bars.any fun l => decide (l ≤ sc + 1)
  if busy then .next s
  else if sc = 4 then
    match lowestFailed (s.durable.filter mine) with
    | some va => .next (s.persistFault mine va)
    | none => if s.durable.any mine then .next s else .next (s.setHere c.retire)
  else .next (s.setHere c.retire)

/-- The iterations of an entry of a queue (R352): its loop's, where it stands in a body. -/
def Queue.trips (q : Queue) (e : Entry) : Nat :=
  if e.body.isNone then 1
  else match (q.entries.filterMap fun x => match x.ins with | .yLoop _ => if x.seq < e.seq then some x.va.toNat else none | _ => none).getLast? with
    | some n => n
    | none => match q.loop with | some l => l.trip | none => 1
/-- The rows of a shape record that an S entry may write, as their indices, before it issues (R333, R341, R354). -/
def Queue.rowsOf (q : Queue) (e : Entry) (r : ShapeRec) : List (List Nat) :=
  let i := indicesOf e.va e.vb
  match e.ins with
  | .sScat _ => (List.range (r.dim 1)).map fun k => [i.getD 0 0, k, 0, 0]
  | _ => (List.range (min (q.trips e) (r.dim (r.rank - 1) - i.getD (r.rank - 1) 0))).flatMap fun n =>
      let at_ := i.modify (r.rank - 1) (· + n)
      (List.range (min 64 (r.dim 1 - at_.getD 1 0))).map fun k => at_.modify 1 (· + k)
/-- The rows that an instance of an S entry has still to write, from a micro-PC on (R111, R333, R341, R354); `word`: the list word of a row of `s.scat`. -/
def Job.rowsLeft (j : Job) (r : ShapeRec) (u word : Nat) : List (List Nat) :=
  let i := indicesOf j.entry.va j.entry.vb
  match j.entry.ins with
  | .sScat _ => if u = 0 then (List.range (r.dim 1)).map fun k => [i.getD 0 0, k, 0, 0] else [[i.getD 0 0, word, 0, 0]]
  | _ =>
    let at_ := i.modify (r.rank - 1) (· + j.iter.toNat)
    (List.range (min 64 (r.dim 1 - at_.getD 1 0) - u)).map fun k => at_.modify 1 (· + (u + k))
/-- Whether an address lies on a durable page of a core. -/
def State.onDurable (s : State) (core va : Nat) : Bool := match s.lookup core va with | some t => t.durable | none => false
/-- Whether an element of some rows of a record stands on a durable page. -/
def State.rowsDurable (s : State) (core : Nat) (r : ShapeRec) (rows : List (List Nat)) : Bool :=
  rows.any fun i => (List.range (min 64 (r.dim 0 - i.getD 0 0))).any fun k => s.onDurable core (r.place (i.modify 0 (· + k))).1.toNat
/-- Whether an S entry may still write a durable page (R159): any element of any row that it may write stands on one. -/
def State.mayBeDurable (s : State) (core : Nat) (q : Queue) (e : Entry) : Bool :=
  match e.ins, e.shape with
  | .sSig _, _ => s.onDurable core e.va.toNat
  | .sPut _, some r | .sRed _, some r | .sScat _, some r => s.rowsDurable core r (q.rowsOf e r)
  | _, _ => false
/-- The same of an instance that has begun: of the rows that it has still to write. -/
def State.stepDurable (s : State) (core : Nat) (j : Job) (u word : Nat) : Bool :=
  match j.entry.ins, j.entry.shape with
  | .sSig _, _ => s.onDurable core j.entry.va.toNat
  | .sPut _, some r | .sRed _, some r | .sScat _, some r => s.rowsDurable core r (j.rowsLeft r u word)
  | _, _ => false
/-- `c.pbar` (R159, R161, R274): retires once every covered durable write is accepted. DESIGN CHOICE: log 63. -/
def execCPbar (mask : BitVec 16) (s : State) : Out :=
  let c := s.here
  let mine (d : DurableWrite) : Bool := d.ofCore s.cur.core mask && !d.accepted
  let durablePlace (p : Place) : Bool := match p with | .global _ _ d => d | _ => false
  let may (q : Queue) (e : Entry) : Bool := inMask mask (classOf e.ins) && s.mayBeDurable s.cur.core q e
  let goesOn (j : Job) (u word : Nat) : Bool := inMask mask (classOf j.entry.ins) && s.stepDurable s.cur.core j u word
  let busy := (c.accesses.any fun a => inMask mask a.cls && a.kind.writes && durablePlace a.place)
    || c.queues.any (fun q => q.entries.any (may q) || (match q.susp with | some x => goesOn x.job x.upc x.carry.first | none => false))
    || c.flights.any fun f => inMask mask (classOf f.job.entry.ins) &&
        (match f.effect with
         | .global _ _ d _ => d
         | .reduce _ _ d _ => d
         | .signal _ _ d _ _ => d
         | .step u carry => goesOn f.job u carry.first
         | _ => false)
  if busy then .next s
  else match lowestFailed (s.durable.filter mine) with
    | some va => .next (s.persistFault mine va)
    | none =>
      if s.durable.any mine then .next s
      else .next ((s.cover fun d => d.ofCore s.cur.core mask && !d.lapsed).setHere c.retire)

/-! ## Ranges read at once -/

/-- The first piece of a range, read at a level, that lies in another package and has not come (R134). -/
def State.lacking (s : State) (level : Nat) (ps : List (Nat × Nat)) : Option (Nat × Nat × Place) :=
  ps.findSome? fun p => match s.mapPage s.cur.core level p.1 p.2 .read with
    | .ok (m, _) =>
      if m.medium = .peer ∧ ((find s.here.inbox p.1).getD []).length < p.2 then some (p.1, p.2, .peer p.1 (m.pa / 2 ^ 36 % 256) (m.pa % 2 ^ 36)) else none
    | .error _ => none
/-- An instruction that reads a range at once goes on when all of it is here: what lies in another package is asked for, piece by piece, in a
class (R134). DEDUCED: log 29. -/
def State.withPieces (s : State) (cls level : Nat) (ps : List (Nat × Nat)) (go : State) : State :=
  if s.here.accesses.any fun a => match a.kind with | .inbox .. => true | _ => false then s
  else match s.lacking level ps with
    | none => go
    | some (va, n, pl) =>
      let a := s.newAccess cls pl (.inbox va n) true
      State.setHere { s with serial := s.serial + 1 } { s.here with accesses := s.here.accesses ++ [a] }
/-- The units of HBM that the pieces of a range move for the core that acts (R13). -/
def State.pieceUnits (s : State) (level : Nat) (want : Want) (ps : List (Nat × Nat)) : List Nat :=
  ps.flatMap fun p => match s.mapPage s.cur.core level p.1 p.2 want with
    | .ok (m, _) => if m.medium = .hbm then s.unitsIn m.pa p.2 else []
    | .error _ => []
/-- An instruction that reads or writes a range at once goes on when every unit of it in HBM has moved, as the slots in force let them (R13, R14).
DESIGN CHOICE: log 77. -/
def State.haulHere (s : State) (q : Nat → Requester) (units : List Nat) (go : State → State) : State :=
  let a := s.moveSome q (s.here.moving.getD units)
  if a.2.isEmpty then go (a.1.setHere { a.1.here with moving := none }) else a.1.setHere { a.1.here with moving := some a.2 }
/-- The bytes of a piece, with its checks passed: of this package's memory, or as another package answered. -/
def State.pieceBytes (s : State) (va n : Nat) (m : Mapped) : List Byte :=
  if m.medium = .peer then ((find s.here.inbox va).getD []).take n
  else s.readBytes (s.keyFor (s.worldOf s.cur.core) m.durable) m.pa n

/-! ## Waiting on a word -/

/-- `k.wfe` ends with a value (R282). DEDUCED: log 66. -/
def State.wfeDone (s : State) (d : Reg) (v : Word) : State := s.setHere (({ s.here with wfe := none }.setReg d v).retire)
/-- `k.wfe` lets one read leave (R282): a load of its class, with the checks of R271. DEDUCED: log 66. -/
def State.wfeRead (s : State) (start : Word) (p : Word) (cls n : Nat) : State :=
  if 16 ≤ s.here.accesses.length then s
  else match s.placeOf p n .read false with
    | .error (c, v) => { s with }.setHere { s.here with wfe := none } |>.faultHere c v
    | .ok (pl, e) =>
      let a := s.newAccess cls pl (.poll n) e.isSome
      let s1 := match e with | some e => s.fillTlb s.cur.core (p.toNat) e | none => s
      { s1 with serial := s1.serial + 1 }.setHere
        { s1.here with accesses := s1.here.accesses ++ [a],
                       wfe := some { start := start, reading := true, value := none, back := s.gtc } }
/-- One look of `k.wfe` at what it has: end, time out (judged as the value came back), or read (again once 256 nominal ticks have passed)
(R282). DEDUCED: log 66. -/
def State.wfeStep (s : State) (d a b : Reg) (narrow : Bool) (cls : BitVec 4) (timeout : BitVec 24) : State :=
  let n := if narrow then 4 else 8
  match s.here.wfe with
  | none => s.wfeRead s.gtc (s.here.reg a) cls.toNat n
  | some w =>
    if w.reading then s
    else match w.value with
      | none => s.wfeRead w.start (s.here.reg a) cls.toNat n
      | some v =>
        if v.toNat ≠ (s.here.reg b).toNat % 2 ^ (8 * n) then s.wfeDone d v
        else if timeout ≠ 0 ∧ timeout.toNat * Config.ticksPerMicro ≤ w.back.toNat - w.start.toNat then s.wfeDone d v
        else if w.back.toNat + 256 ≤ s.gtc.toNat then s.wfeRead w.start (s.here.reg a) cls.toNat n
        else s
/-- `k.wfe` (R282). DEDUCED: log 66. -/
def execKWfe (d a b : Reg) (narrow : Bool) (cls : BitVec 4) (timeout : BitVec 24) (s : State) : Out :=
  s.waitFor [d, a, b] (s.wfeStep d a b narrow cls timeout)
/-- K_WFE_POLL (R282): the `k.wfe` at the pc of the core that acts looks again. DEDUCED: log 66. -/
def execKWfePoll (s : State) : Out :=
  match decode s.fetch with
  | .ok (.kWfe d a b narrow cls timeout) => if s.here.wfe.isSome then .next (s.wfeStep d a b narrow cls timeout) else .next s
  | _ => .next s

end Sys2Proof.Machine
end

