-- ==== Sys2Proof/Machine/CtlSys.lean ====
section
/-! DEFINITION. Special registers and format words (R256, R257, R276), branches (R277 to R280), traps, breakpoints and returns
(R203, R209, R227, R281), overlays (R283), and words that are no instruction (R241). -/
namespace Sys2Proof.Machine

/-! ## Special registers -/

/-- The `lvl` register (R202). DESIGN CHOICE: log 4. -/
def Core.lvl (c : Core) : Word :=
  BitVec.ofNat 64 ((if c.handler then 256 else 0) + c.prev.toNat * 16 + c.level.toNat)
/-- The value `c.mfs` reads (R256). DEDUCED: log 18. -/
def State.special (s : State) (num : Nat) : Word :=
  let c := s.here
  let n (x : Nat) : Word := BitVec.ofNat 64 x
  if num = 0x00 then n s.cur.core
  else if num = 0x01 then n (match c.rope with | some k => k.num | none => 0)
  else if num = 0x02 then n (match s.ropeOf s.cur.core with | some r => if r.asid then 1 else 0 | none => 0)
  else if num = 0x03 then n (s.worldOf s.cur.core)
  else if num = 0x04 then c.lvl
  else if num = 0x08 then n (s.rtick s.cur.core)
  else if num = 0x09 then s.gtc
  else if num = 0x0A then c.holdc
  else if num = 0x0B then c.stallc
  else if num = 0x0C then n (match s.ropeOf s.cur.core with | some r => if r.strict then 1 else 0 | none => 0)
  else if num = 0x0D then n (s.hdly s.cur.core)
  else if num = 0x10 then c.dom1
  else if num = 0x11 then c.dom2
  else if num = 0x12 then c.dom3
  else if num = 0x13 then c.dom4
  else if num = 0x18 then c.tvec
  else if num = 0x19 then c.tcause
  else if num = 0x1A then c.tpc
  else if num = 0x1B then c.tval
  else if num = 0x1C then c.tinfo
  else if num = 0x1D then c.tsave
  else if num = 0x20 then c.scom
  else if num = 0x21 then c.shbase
  else if num = 0x22 then c.shlim
  else if num = 0x28 then n c.fmtq.length
  else if num = 0x30 then n c.vrb.toNat
  else if num = 0x38 then c.katc
  else if num = 0x40 then c.dbgc
  else c.dbga
/-- The registers that `c.mts` may change (R256): those with an RW field. -/
def writable (num : Nat) : Bool :=
  num = 0x13 || (0x18 ≤ num && num ≤ 0x1D) || num = 0x21 || num = 0x22 || num = 0x40 || num = 0x41
/-- The RW fields of a special register take a value (R99, R139, R204, R226, R257). -/
def Core.setSpecial (c : Core) (num : Nat) (v : Word) : Core :=
  if num = 0x13 then { c with dom4 := v &&& 0x8000FFFFFFFFFFFF }
  else if num = 0x18 then { c with tvec := v &&& 0xFFF9 }
  else if num = 0x19 then { c with tcause := v &&& 0xFFFF }
  else if num = 0x1A then { c with tpc := v }
  else if num = 0x1B then { c with tval := v }
  else if num = 0x1C then { c with tinfo := v &&& 0xFFFFFFFFFFFF3F07 }
  else if num = 0x1D then { c with tsave := v }
  else if num = 0x21 then { c with shbase := v &&& 0xFFFFFFFFFFFFFFC0 }
  else if num = 0x22 then { c with shlim := v &&& 0xFFFF }
  else if num = 0x40 then { c with dbgc := (c.dbgc &&& 2) ||| (v &&& 1) }
  else if num = 0x41 then { c with dbga := v &&& 0xFFF8 }
  else c
/-- `c.mfs` (R256, R276). -/
def execCMfs (d : Reg) (num : BitVec 8) (s : State) : Out := s.alu d [] (s.special num.toNat)
/-- `c.mts` (R257): `scom` is fault 0x02 at every level; a register with an RW field needs level 2; others change nothing. -/
def execCMts (a : Reg) (num : BitVec 8) (s : State) : Out :=
  if num = 0x20 ∨ (writable num.toNat ∧ s.here.level.toNat < 2) then .next (s.faultWord 0x02)
  else s.waitFor [a] (s.setHere ((s.here.retire).setSpecial num.toNat (s.here.reg a)))
/-- `c.fmt` (R182, R276): a push onto 16 held words is fault 0x14 and pushes nothing. -/
def execCFmt (a : Reg) (s : State) : Out :=
  s.waitFor [a] (
    if 16 ≤ s.here.fmtq.length then s.faultHere 0x14 (s.here.reg a)
    else s.setHere ({ s.here with fmtq := s.here.fmtq ++ [s.here.reg a] }.retire))

/-! ## Branches -/

/-- `k.pbr` (R277). -/
def execKPbr (d : BitVec 3) (off : BitVec 32) (s : State) : Out :=
  .next (s.setHere ((s.here.setBreg d ((s.here.pc + 8 * immI off) &&& 0xFFFF)).retire))
/-- `k.pbrr` (R277): fault 0x0F on a target that is no instruction address. -/
def execKPbrr (d : BitVec 3) (a : Reg) (s : State) : Out :=
  s.waitFor [a] (
    let v := s.here.reg a
    if v.toNat % 8 ≠ 0 ∨ 0x10000 ≤ v.toNat then s.faultHere 0x0F v
    else s.setHere ((s.here.setBreg d v).retire))
/-- The conditions of `k.br` (R278): A read as signed. -/
def condHolds (cond : BitVec 3) (a : Word) : Bool :=
  if cond = 0 then a == 0 else if cond = 1 then a != 0 else if cond = 2 then a.msb else if cond = 3 then !a.msb
  else if cond = 4 then !a.msb && a != 0 else if cond = 5 then a.msb || a == 0 else true
/-- `k.br` (R278). -/
def execKBr (b : BitVec 3) (a : Reg) (cond : BitVec 3) (s : State) : Out :=
  s.waitFor [a] (s.setHere (if condHolds cond (s.here.reg a) then s.here.goto (s.here.breg b) else s.here.retire))
/-- `k.jmp` (R278). -/
def execKJmp (b : BitVec 3) (s : State) : Out := .next (s.setHere (s.here.goto (s.here.breg b)))
/-- `k.call` (R278): the target is read before `b7` is written. -/
def execKCall (b : BitVec 3) (s : State) : Out :=
  .next (s.setHere ((s.here.setBreg 7 ((s.here.pc + 8) &&& 0xFFFF)).goto (s.here.breg b)))
/-- `k.ret` (R278). -/
def execKRet (s : State) : Out := .next (s.setHere (s.here.goto (s.here.breg 7)))
/-- `k.tsb` (R280). -/
def execKTsb (b : BitVec 3) (a : Reg) (none : Bool) (mask : BitVec 32) (s : State) : Out :=
  s.waitFor [a] (s.setHere (
    if ((s.here.reg a).truncate 32 &&& mask == 0) == none then s.here.goto (s.here.breg b) else s.here.retire))

/-! ## Traps and returns -/

/-- WAIT of a Y entry (R249). -/
def Entry.waitBits (e : Entry) : Nat :=
  match e.ins with
  | .yAlign o | .yIdle o | .yTchk o | .yLoop o | .yBar o | .yHalt o | .yYield o => o.wait.toNat
  | _ => 0

/-- Whether the rope of a core is sealed (R213). -/
def State.sealed (s : State) (core : Nat) : Bool :=
  match s.ropeOf core with
  | some r => r.freezing != .no
  | none => false
/-- The address of the next instruction. -/
def Core.nextPc (c : Core) : Word := (c.pc + 8) &&& 0xFFFF
/-- `k.trap` (R281): fault 0x04; `tpc` names the next instruction. -/
def execKTrap (imm : BitVec 32) (s : State) : Out := .next (s.fault 0x04 0 (imm.zeroExtend 64) s.here.nextPc)
/-- `k.brk` (R227, R281): fault 0x03; while the rope is sealed, the core stops behind it and the event waits for the thaw. -/
def execKBrk (s : State) : Out :=
  if s.sealed s.cur.core then
    .next (s.setHere { s.here.retire with dbgEvent := some (false, BitVec.ofNat 13 (s.here.pc.toNat / 8)) })
  else .next (s.fault 0x03 0 s.here.pc s.here.nextPc)
/-- `k.nop` (R281). -/
def execKNop (s : State) : Out := .next (s.setHere s.here.retire)
/-- Squash the entry that an engine fault of a queue suspended (R209, R380): its remaining steps write nothing, the engine is
free, and an entry that still stands at the head of its queue leaves it. Nothing else of the queue issues before the trap hold has taken effect,
`hdly` ticks after the fault. DEDUCED: log 70. -/
def Core.squash (c : Core) (q hdly : Nat) : Core :=
  let c1 : Core := { c with flights := c.flights.filter fun f => !(f.job.q == q && c.parked f),
                            busy := if q = 0 then alter c.busy 0 fun _ => 0 else if q = 3 then alter c.busy 1 fun _ => 0 else c.busy }
  { c1 with queues := alter c1.queues q fun x =>
      let head := match x.susp, x.entries with
        | some p, e :: _ => if e.seq = p.job.entry.seq ∧ e.body.isNone then some e else none
        | _, _ => none
      let stop := match x.susp with | some p => p.tick + hdly | none => x.stop
      match head with
      | some e => { x with susp := none, stop := stop, lagging := true, wait := .none, entries := x.entries.drop 1,
                           nextT := e.fixedT.getD (x.nextT + e.waitBits) + 1 }
      | none => { x with susp := none, stop := stop, lagging := true } }
/-- `k.rett` (R209): level 2; no handler, fault 0x01; the launch may end faulted; else return, and the trap hold runs out. -/
def execKRett (fin squash : Bool) (s : State) : Out :=
  let c := s.here
  let source := c.tinfo.toNat % 8
  if c.level.toNat < 2 then .next (s.faultWord 0x02)
  else if !c.handler then .next (s.faultWord 0x01)
  else if fin then .next (s.endFaulted s.cur.core (c.tcause.toNat % 256) (c.tcause.toNat / 256 % 256))
  else
    let c1 := if source ≠ 0 ∧ squash then c.squash (source - 1) (s.hdly s.cur.core) else c
    let s1 := s.setHere c1.leaveTrap
    match s1.ropeOf s.cur.core with
    | some r => .next (s1.setRope (r.releaseTrap s.cur.core))
    | none => .next s1
/-- The engine fault to take first (R207): the earliest tick, then the order L, M, V, S. -/
def firstFault : List PendingFault → Option PendingFault
  | [] => none
  | f :: r => match firstFault r with
    | none => some f
    | some g => if g.tick < f.tick ∨ (g.tick = f.tick ∧ g.source < f.source) then some g else some f
/-- TRAP_ENTRY (R203, R205, R207): the control core takes a pending fault at an instruction boundary. While a handler runs,
the faults of its own tick stay pending, and any other ends the launch. -/
def execEvTrapEntry (s : State) : Out :=
  let c := s.here
  if !c.accesses.isEmpty then .next s
  else match (if c.handler then firstFault (c.pending.filter (·.nested)) else firstFault c.pending) with
    | none => .next s
    | some f => .next ((s.setHere { c with pending := c.pending.erase f }).trap s.cur.core f (f.tpc.getD c.pc))
/-- ILLEGAL_INSTRUCTION (R241): fault 0x01 at a word that is no instruction. -/
def execEvIllegalInstruction (w : Word) (s : State) : Out := .next (s.faultHere 0x01 w)

/-! ## Overlays -/

/-- Whether a queue has drained: no entry left, nothing of it under way (R103, R283). -/
def Core.drained (c : Core) (q : Nat) : Bool :=
  (match c.queues[q]? with | some x => x.entries.isEmpty && x.susp.isNone && x.loop.isNone | none => true)
    && c.flights.all fun f => f.job.q != q
/-- The queues of a mask: L 8, M 4, V 2, S 1, numbered 0 to 3. -/
def maskQueues (m : BitVec 4) : List Nat := (List.range 4).filter fun q => m.getLsbD (3 - q)
/-- Whether a trailer's fields allow an overlay of B bytes (R283). DEDUCED: log 64. -/
def trailerOk (t b : Nat) : Bool :=
  let entry := t / 2 ^ 32 % 2 ^ 13
  let base := t / 2 ^ 16 % 2 ^ 13
  t / 2 ^ 45 == 0 && t / 2 ^ 29 % 8 == 0 && t / 2 ^ 4 % 2 ^ 12 == 0 && b != 0 && b % 8 == 0
    && decide (base * 8 + b ≤ 65536) && decide (entry * 8 < base * 8 + b) && decide (base ≤ entry)
/-- Copy a range of global memory into instruction memory, up to the first poisoned granule (R283): where it stopped. DEDUCED: log 64. -/
def State.copyIn (s : State) : List (Nat × Nat) → Nat → State × Option Nat
  | [], _ => (s, none)
  | (va, n) :: r, dst =>
    match s.mapCore s.cur.core s.here.level.toNat va n .read with
    | .error _ => (s, some va)
    | .ok (m, _) =>
      let bs := s.pieceBytes va n m
      (s.setHere { s.here with im := writeAllZ s.here.im (cellsAt dst bs) }).copyIn r (dst + n)
/-- The pieces of a range that lie in one 4 KiB granule each. -/
def granules : Nat → Nat → Nat → List (Nat × Nat)
  | 0, _, _ => []
  | fuel + 1, va, n =>
    if n = 0 then [] else
    let k := min n (4096 - va % 4096)
    (va, k) :: granules fuel (va + k) (n - k)
/-- The first page of a range that fails translation or rights for a core: code and address. DEDUCED: log 64. -/
def State.pageFault (s : State) (core level : Nat) (want : Want) : List (Nat × Nat) → Option (Nat × Nat)
  | [] => none
  | (va, n) :: r =>
    match s.mapCore core level va n want with
    | .error 0x0E => s.pageFault core level want r
    | .error c => some (c, va)
    | .ok _ => s.pageFault core level want r
/-- Whether an access is still out before which an instruction that reads or writes a range at once, in class 0, may not touch the bytes of a piece
(R142, R143). -/
def State.copyBehind (s : State) (want : Want) (p : Nat × Nat) : Bool :=
  s.here.accesses.any fun a => (match a.kind with | .inbox .. => false | _ => true) && (a.cls == 0 ||
    (match s.mapPage s.cur.core s.here.level.toNat p.1 p.2 want with
     | .ok (m, _) => spansMeet a.span (m.span p.2)
     | .error _ => false))
/-- `k.ovl` (R103, R283): checks, drain of the queues the trailer names, copy, and the jump to the overlay's entry. DEDUCED: log 64. -/
def execKOvl (a b : Reg) (s : State) : Out :=
  s.waitFor [a, b] (
    let c := s.here
    let t := leNat (bytesZ c.im ((c.pc.toNat + 8) % 65536) 8)
    let src := (c.reg a).toNat
    let len := (c.reg b).toNat
    if !trailerOk t len then s.faultHere 0x01 (BitVec.ofNat 64 t)
    else if src % 8 ≠ 0 then s.faultHere 0x0F (c.reg a)
    else match s.pageFault s.cur.core c.level.toNat .read (pieces (len / 65536 + 2) src len) with
      | some (code, va) => s.faultHere code (BitVec.ofNat 64 va)
      | none =>
        let ps := granules (len / 4096 + 2) src len
        if !(maskQueues (BitVec.ofNat 4 t)).all c.drained || ps.any (s.copyBehind .read) then s
        else s.withPieces 0 s.here.level.toNat ps (s.haulHere (fun _ => s.requester s.cur.core) (s.pieceUnits s.here.level.toNat .read ps) fun s =>
          match s.copyIn ps (t / 2 ^ 16 % 2 ^ 13 * 8) with
          | (s1, some va) => if s.here.accesses.isEmpty then s1.faultHere 0x0E (BitVec.ofNat 64 va) else s.setHere { s.here with moving := some [] }
          | (s1, none) => s1.setHere (Core.goto { s1.here with inbox := [] } (BitVec.ofNat 64 (t / 2 ^ 32 % 2 ^ 13 * 8)))))

end Sys2Proof.Machine
end

