-- ==== Sys2Proof/Machine/LoadStore.lean ====
section
/-! DEFINITION. Load and store engine instructions (R332 to R347): the checks at issue, and each row or unit at its own step. -/
namespace Sys2Proof.Machine

/-! ## Operands -/

/-- The L or S word of an instruction; all zero for the others. -/
def lsWord : Instr → LW
  | .lGet o | .lGetw o | .lGetb o | .lGath o | .lCget o | .lTcpy o | .lPref o | .lCbld o | .lZero o => o
  | .sPut o | .sCput o | .sScat o | .sRed o | .sSig o | .sPbar o => o
  | _ => { h := { wait := 0, giveUp := false, giveDown := false, takeUp := false, takeDown := false, oc := 0 },
           shape := 0, r0 := 0, r1 := 0, tile := 0 }
/-- Instructions whose last dimension's index rises by the iteration in a loop (R354). -/
def stepsIndex : Instr → Bool
  | .lGet _ | .lGetb _ | .lPref _ | .lGetw _ | .sPut _ | .sRed _ => true
  | _ => false
/-- Instructions that move rows chosen by a list (R341). -/
def isGather : Instr → Bool
  | .lGath _ | .sScat _ => true
  | _ => false
/-- The frozen shape record of an instance. -/
def Job.shape (j : Job) : ShapeRec :=
  j.entry.shape.getD { base := 0, format := 1, rank := 1, rights := 0, size := [], stride := [], index := 0 }
/-- The indices of an instance (R332, R341, R354). -/
def Job.indices (j : Job) : List Nat :=
  if isGather j.entry.ins then [j.entry.va.toNat % 2 ^ 32, 0, 0, 0]
  else
    let e := indicesOf j.entry.va j.entry.vb
    if stepsIndex j.entry.ins then e.modify (j.shape.rank - 1) (· + j.iter.toNat) else e
/-- The tile field of an instance as a byte address, or a batt unit in bytes (R354). -/
def Job.tileAt (j : Job) : Nat := ((lsWord j.entry.ins).tile.toNat + j.tileStep) * 256
/-- Index of a dimension. -/
def Job.idx (j : Job) (d : Nat) : Nat := j.indices.getD d 0
/-- Rows of the box (R333). -/
def Job.rows (j : Job) : Nat := min 64 (j.shape.dim 1 - j.idx 1)
/-- Elements per row that exist (R333). -/
def Job.cols (j : Job) : Nat := min 64 (j.shape.dim 0 - j.idx 0)
/-- Row pitch in bytes (R333). -/
def Job.pitch (j : Job) : Nat := 32 * halfBytes j.shape.format
/-- The virtual addresses of the elements of a row (R137, R333); for i4, whether each is the high nibble. -/
def Job.rowElems (j : Job) (e1 : Nat) : List (Int × Bool) :=
  (List.range j.cols).map fun c => j.shape.place [j.idx 0 + c, e1, j.idx 2, j.idx 3]
/-- Units of a copy or of `l.getb` (R339, R342). -/
def Job.units (j : Job) : Nat :=
  match j.entry.ins with
  | .lGetb _ => min 64 ((j.shape.dim 0 - j.idx 0 + 255) / 256)
  | _ => j.entry.vb.toNat % 128

/-! ## Accesses of a step -/

/-- The checks of one access to global memory at its step but for poison: a translation, or the code of the check that fails (R94, R130, R131,
R337, R383). DEDUCED: log 35. -/
def State.spotPage (s : State) (core : Nat) (j : Job) (want : Want) (va : Int) (n : Nat) : Except Nat (Mapped × TlbEntry) :=
  if va < 0 then .error 0x08
  else match s.mapPage core (s.core core).level.toNat va.toNat n want with
    | .error c => .error c
    | .ok (m, e) =>
      if s.untimely core j (want == .write) m.medium then .error 0x09
      else if want = .write ∧ m.durable ∧ j.entry.shape.isSome ∧ !j.shape.rights.getLsbD 2 then .error 0x0D
      else .ok (m, e)
/-- The same with the poison check (R135). -/
def State.spot (s : State) (core : Nat) (j : Job) (want : Want) (va : Int) (n : Nat) : Except Nat (Mapped × TlbEntry) :=
  match s.spotPage core j want va n with
  | .error c => .error c
  | .ok (m, e) => if want ≠ .write ∧ s.poisoned m.pa n then .error 0x0E else .ok (m, e)
/-- The first failing check of a step over its accesses, with its value (R258): translation, then rights, then poison. DEDUCED: log 27, log 35. -/
def State.spotFault (s : State) (core : Nat) (j : Job) (want : Want) (accs : List (Int × Nat)) : Option (Nat × Word) :=
  let spots := accs.map fun a => (a.1, s.spot core j want a.1 a.2)
  [0x08, 0x09, 0x0D, 0x0E].findSome? fun code =>
    (spots.find? fun x => match x.2 with | .error c => c == code | .ok _ => false).map fun x =>
      (code, if code = 0x0D then BitVec.ofNat 64 (lsWord j.entry.ins).shape.toNat else BitVec.ofInt 64 x.1)
/-- Whether the core TLB lacks a translation that a step uses, which makes its data late (R132). -/
def State.missing (s : State) (core : Nat) (accs : List (Int × Nat)) : Bool :=
  match s.asidOf core with
  | none => false
  | some a => accs.any fun x => !(s.core core).tlb.any fun e => e.maps a x.1.toNat
/-- The TLBs after a step has used its translations, whatever stands at their places (R132, R339). -/
def State.fillAll (s : State) (core : Nat) (j : Job) (want : Want) (accs : List (Int × Nat)) : State :=
  accs.foldl (fun s a => match s.spotPage core j want a.1 a.2 with
    | .ok (_, e) => s.fillTlb core a.1.toNat e
    | .error _ => s) s
/-- The largest documented latency of the media that a step touches (R334). DESIGN CHOICE: log 23. -/
def State.lag (s : State) (core : Nat) (j : Job) (want : Want) (accs : List (Int × Nat)) : Nat :=
  accs.foldl (fun m a => match s.spot core j want a.1 a.2 with
    | .ok (p, _) => max m (s.latency core p.medium)
    | .error _ => m) 0
/-- Whether a byte's value is open to the reads of a core: its rope wrote it in a phase that has been replayed (R234). -/
def State.isOpen (s : State) (core pa : Nat) : Bool := s.tainted.any fun t => (s.core core).rope == some t.rope && t.cells.contains pa
/-- Bytes of global memory as the world of a core reads them. DEDUCED: log 28. DESIGN CHOICE: log 48. -/
def State.globalBytes (s : State) (core : Nat) (p : Mapped) (n : Nat) : List Byte :=
  (s.readBytes (s.keyFor (s.worldOf core) p.durable) p.pa n).mapIdx fun i b =>
    if s.isOpen core (p.pa + i) then Config.freeByte s.free (p.pa + i) else b
/-- Bytes at a virtual address whose checks have passed; zeros for a place in another package, whose data comes later. -/
def State.spotBytes (s : State) (core : Nat) (j : Job) (want : Want) (va : Int) (n : Nat) : List Byte :=
  match s.spot core j want va n with
  | .ok (p, _) => if p.medium = .peer then List.replicate n 0 else s.globalBytes core p n
  | .error _ => List.replicate n 0
/-- A byte range as one access per 64 KiB page. -/
def rangeAccs (va : Int) (n : Nat) : List (Int × Nat) :=
  if va < 0 then [(va, n)] else (pieces (n / 65536 + 2) va.toNat n).map fun p => ((p.1 : Int), p.2)
/-- Bytes of a range. -/
def State.rangeBytes (s : State) (core : Nat) (j : Job) (want : Want) (accs : List (Int × Nat)) : List Byte :=
  accs.flatMap fun a => s.spotBytes core j want a.1 a.2
/-- Where the accesses of a step go, their checks passed (R378). -/
def State.spotsOf (s : State) (core : Nat) (j : Job) (want : Want) (accs : List (Int × Nat)) : List Mapped :=
  accs.filterMap fun a => match s.spot core j want a.1 a.2 with | .ok (p, _) => some p | .error _ => none
/-- Ask other packages for the data of a read (R134, R337): one request per access, that fills the flight. DEDUCED: log 29. -/
def State.askPeers (s : State) (core : Nat) (j : Job) (flight : Nat) (accs : List ((Int × Nat) × Nat × Nat)) (spots : List Mapped) : State :=
  (accs.zip spots).foldl (fun s x =>
    if x.2.medium = .peer then
      s.send core (classOf j.entry.ins) j.t (x.2.pa / 2 ^ 36 % 256) (x.2.pa % 2 ^ 36) (.read x.1.1.2) none none (some (flight, x.1.2.1, x.1.2.2))
        x.1.1.1.toNat
    else s) s
/-- A read of global memory leaves (R144, R334): late where a translation was missing (R132), or until another package has answered (R337). -/
def State.flyRead (s : State) (core : Nat) (j : Job) (upc tick : Nat) (want : Want) (accs : List ((Int × Nat) × Nat × Nat)) (e : Effect) : State :=
  let plain := accs.map (·.1)
  let spots := s.spotsOf core j want plain
  let late := s.missing core plain || spots.any fun p => p.medium == .peer
  ((s.flySpots core j upc tick late spots e).fillAll core j want plain).askPeers core j s.serial accs spots

/-! ## Rows -/

/-- Bytes of one element of a record in memory. -/
def Job.elemBytes (j : Job) : Nat := (halfBytes j.shape.format + 1) / 2
/-- The accesses of a row, with the half-byte of the tile row that each one fills and how (R333). -/
def Job.rowAccs (j : Job) (e1 : Nat) : List ((Int × Nat) × Nat × Nat) :=
  (j.rowElems e1).mapIdx fun c p =>
    ((p.1, j.elemBytes), c * halfBytes j.shape.format, if j.shape.format = 12 then (if p.2 then 2 else 1) else 0)
/-- A row's bytes in the tile layout from its half-bytes (R333): padding is zero. -/
def packRow (pitch : Nat) (halves : List Nat) : List Byte :=
  (List.range pitch).map fun i => BitVec.ofNat 8 (halves.getD (2 * i) 0 % 16 + halves.getD (2 * i + 1) 0 % 16 * 16)
/-- The half-bytes that an access delivers. DEDUCED: log 36. -/
def halvesOf (how : Nat) (bs : List Byte) : List Nat :=
  if how = 1 then [(bs.headD 0).toNat % 16] else if how = 2 then [(bs.headD 0).toNat / 16]
  else bs.flatMap fun b => [b.toNat % 16, b.toNat / 16]
/-- A load's row as it will be written (R333). DEDUCED: log 28. -/
def State.rowBytes (s : State) (core : Nat) (j : Job) (e1 : Nat) : List Byte :=
  packRow j.pitch ((j.rowAccs e1).flatMap fun a => halvesOf a.2.2 (s.spotBytes core j .read a.1.1 a.1.2))
/-- One unit of `l.getb` (R339): bytes at or beyond size0 are zero. -/
def Job.unitAccs (j : Job) (u : Nat) : List (Int × Nat) :=
  rangeAccs (j.shape.place [j.idx 0 + 256 * u, 0, 0, 0]).1 (min 256 (j.shape.dim 0 - j.idx 0 - 256 * u))
/-- Bytes of a unit of `l.getb`. -/
def State.unitBytes' (s : State) (core : Nat) (j : Job) (u : Nat) : List Byte :=
  let bs := s.rangeBytes core j .read (j.unitAccs u)
  bs ++ List.replicate (256 - bs.length) 0
/-- The half-bytes that consecutive accesses fill. -/
def spread (accs : List (Int × Nat)) : List ((Int × Nat) × Nat × Nat) :=
  (accs.foldl (fun (acc : List ((Int × Nat) × Nat × Nat) × Nat) a => (acc.1 ++ [(a, acc.2, 0)], acc.2 + 2 * a.2)) ([], 0)).1

/-- Bytes of one row of a store for its elements: place, byte, and the bits that change (R333, R344). -/
def State.storeBytes (s : State) (core : Nat) (j : Job) (row e1 : Nat) : List (Int × List (Byte × Byte)) :=
  let c := s.core core
  (j.rowElems e1).mapIdx fun k p =>
    if j.shape.format = 12 then
      let n := (c.tileByte (row + k / 2)).toNat / (if k % 2 = 0 then 1 else 16) % 16
      (p.1, [(BitVec.ofNat 8 (if p.2 then n * 16 else n), if p.2 then 0xF0 else 0x0F)])
    else (p.1, (bytesZ c.tile (row + k * j.elemBytes) j.elemBytes).map fun b => (b, 0xFF))
/-- One store effect for each page that a row touches (R144, R157), in order of first touch: bytes relative to the page. DEDUCED: log 36. -/
def State.storeEffects (s : State) (core : Nat) (j : Job) (row e1 : Nat) : List Effect :=
  let cells := (s.storeBytes core j row e1).filterMap fun x =>
    match s.spot core j .write x.1 j.elemBytes with
    | .ok (p, _) => some (x.1.toNat, p, x.2)
    | .error _ => none
  let pages := (cells.map fun x => (x.1 - x.1 % 65536, x.2.1.pa - x.1 % 65536, x.2.1.durable)).eraseDups
  pages.map fun g => Effect.global g.1 g.2.1 g.2.2
    ((cells.filter fun x => x.1 - x.1 % 65536 == g.1).flatMap fun x => x.2.2.mapIdx fun i b => (x.1 % 65536 + i, b.1, b.2))
/-- The additions of one row of `s.red` by page (R345). -/
def State.addEffects (s : State) (core : Nat) (j : Job) (row e1 : Nat) : List Effect :=
  let c := s.core core
  let cells := ((j.rowElems e1).mapIdx fun k p => (p.1, (BitVec.ofNat 32 (c.tileNat (row + 4 * k) 4) : Lane))).filterMap fun x =>
    match s.spot core j .write x.1 4 with
    | .ok (p, _) => some (x.1.toNat, p, x.2)
    | .error _ => none
  let pages := (cells.map fun x => (x.1 - x.1 % 65536, x.2.1.pa - x.1 % 65536, x.2.1.durable)).eraseDups
  pages.map fun g => Effect.reduce g.1 g.2.1 g.2.2
    ((cells.filter fun x => x.1 - x.1 % 65536 == g.1).map fun x => (x.2.1.pa, x.2.2))

/-! ## Steps -/

/-- The next step of an instance follows one tick later (R111). -/
def State.nextStep (s : State) (core : Nat) (j : Job) (u last tick : Nat) : State :=
  if u + 1 < last then s.flyFrom core j (u + 1) (tick + 1) false (.step (u + 1) .none) else s
/-- A load step delivers bytes to tile memory after its latency (R334, R339). -/
def State.deliver (s : State) (core : Nat) (j : Job) (u tick dst : Nat) (accs : List ((Int × Nat) × Nat × Nat)) (bs : List Byte) : State :=
  s.flyRead core j u (tick + s.lag core j .read (accs.map (·.1))) .read accs (.tile (cellsAt dst bs))
/-- The fault of a row or a unit at its step (R336): its engine stays as it is. -/
def State.rowFault (s : State) (core : Nat) (j : Job) (u : Nat) (c : Status) (code : Nat) (v : Word) (tick : Nat) : State :=
  s.suspendAt .row core j u c code 0 v tick
/-- A store step sends its effects after its latency (R334). -/
def State.sendOff (s : State) (core : Nat) (j : Job) (u tick : Nat) (accs : List (Int × Nat)) (es : List Effect) : State :=
  let late := s.missing core accs
  let t := tick + s.lag core j .write accs
  (es.foldl (fun s e => s.flyFrom core j u t late e) s).fillAll core j .write accs
/-- A load row (R333, R336): its fault, or its write and the next step. DEDUCED: log 28. -/
def State.loadRow (s : State) (core : Nat) (j : Job) (u tick e1 dst last : Nat) (c : Status) : State :=
  let accs := j.rowAccs e1
  match s.spotFault core j .read (accs.map (·.1)) with
  | some (code, v) => s.rowFault core j u c code v tick
  | none => (s.deliver core j u tick dst accs (s.rowBytes core j e1)).nextStep core j u last tick
/-- A store row (R344, R345). -/
def State.storeRow (s : State) (core : Nat) (j : Job) (u tick e1 src last : Nat) (c : Status) (add : Bool) : State :=
  let accs := (j.rowAccs e1).map (·.1)
  let s1 := s.onCore core fun x => x.port 2 ((List.range j.pitch).map (src + ·))
  match s1.spotFault core j .write accs with
  | some (code, v) => s1.rowFault core j u c code v tick
  | none =>
    (s1.sendOff core j u tick accs (if add then s1.addEffects core j src e1 else s1.storeEffects core j src e1)).nextStep core j u last tick
/-- The bank of the cluster store that an access of a core reaches, package-wide (R124). -/
def clusterBank (core off : Nat) : Nat := clusterOf core * 64 + off / 256 % 64
/-- Whether 0 ≤ r < 64 rows of a gather: the row that micro-PC u moves, its word, and what becomes of it (R341). -/
def State.gatherRow (s : State) (core : Nat) (j : Job) (u tick : Nat) (c : Status) : State :=
  let r := u - 1
  let w := c.first
  let at_ := j.tileAt + r * j.pitch
  match j.entry.ins with
  | .lGath _ =>
    if w = 0xFFFFFFFF then
      s.flyFrom core { j with arg := w } u (tick + s.lag core j .read [((j.shape.base : Int), 1)]) false (.tile (cellsAt at_ (List.replicate j.pitch 0)))
    else if j.shape.dim 1 ≤ w then s.rowFault core j u c 0x0C (BitVec.ofNat 64 (lsWord j.entry.ins).shape.toNat) tick
    else s.loadRow core { j with arg := w } u tick w at_ 0 c
  | _ =>
    if w = 0xFFFFFFFF then s
    else if j.shape.dim 1 ≤ w then s.rowFault core j u c 0x0C (BitVec.ofNat 64 (lsWord j.entry.ins).shape.toNat) tick
    else s.storeRow core j u tick w at_ 0 c false
/-- The list of a gather is read, and its rows are set on their ticks, each with its word (R341). -/
def State.gatherList (s : State) (core : Nat) (j : Job) (tick : Nat) : State :=
  let x := j.entry.vb.toNat % 2 ^ 20
  let c := s.core core
  let s1 := s.setCore core (c.port 2 ((List.range 256).map (x + ·)))
  (List.range 64).foldl (fun s r =>
    s.flyFrom core j (1 + r) (tick + 1 + r) false (.step (1 + r) { Status.none with first := c.tileNat (x + 4 * r) 4 })) s1
/-- One unit of a copy (R342), of `l.getb` (R339) or of `l.zero`. -/
def State.copyUnit (s : State) (core : Nat) (j : Job) (u tick : Nat) (c : Status) : State :=
  let n := j.units
  let at_ := j.tileAt + 256 * u
  let addrs := (List.range 256).map (at_ + ·)
  match j.entry.ins with
  | .lGetb _ =>
    let accs := j.unitAccs u
    (match s.spotFault core j .read accs with
     | some (code, v) => s.rowFault core j u c code v tick
     | none => (s.deliver core j u tick at_ (spread accs) (s.unitBytes' core j u)).nextStep core j u n tick)
  | .lCget _ =>
    let src := j.entry.va.toNat % 2 ^ 23 + 256 * u
    if !s.regionOk core src then s.rowFault core j u c 0x09 (BitVec.ofNat 64 src) tick
    else
      ((s.onCore core fun x => { x with ports := x.ports ++ [(5, clusterBank core src)] }).flyFrom core j u (tick + 40) false
        (.tile (cellsAt at_ (bytesZ s.store (clusterOf core * 2 ^ 23 + src) 256)))).nextStep core j u n tick
  | .lTcpy _ =>
    let src := j.entry.va.toNat % 2 ^ 20 + 256 * u
    ((s.onCore core fun x => x.port 2 ((List.range 256).map (src + ·))).flyFrom core j u (tick + 2) false
      (.tile (cellsAt at_ (bytesZ (s.core core).tile src 256)))).nextStep core j u n tick
  | .lZero _ => (s.flyFrom core j u (tick + 2) false (.tile (cellsAt at_ (List.replicate 256 0)))).nextStep core j u n tick
  | _ =>
    let dst := j.entry.va.toNat % 2 ^ 23 + 256 * u
    if !s.regionOk core dst then s.rowFault core j u c 0x09 (BitVec.ofNat 64 dst) tick
    else
      ((s.onCore core fun x => x.port 2 addrs).flyFrom core j u (tick + 40) false
        (.cluster dst (bytesZ (s.core core).tile at_ 256))).nextStep core j u n tick

/-! ## Issue -/

/-- The path of an L or S instruction in `Core.busy`. -/
def lsPath (j : Job) : Nat := if j.q = 0 then 0 else 1
/-- The checks at micro-PC 0 in the order of R336 and R354: ranges as address, length, whether written, and the size of the
store they lie in (tile-memory ranges are those of 1 MiB, and those of the batt are named by its units: R123, R258). DEDUCED: log 27. -/
def State.lsCheck (s : State) (spans : List (Nat × Nat × Bool × Nat)) (go : State) : Out :=
  let j := s.cur.job
  let r := j.shape
  if j.t < s.here.freeAt (lsPath j) then .next (s.issueFault 0x10 2 j.t)
  else if stepsIndex j.entry.ins ∧ j.entry.shape.isSome ∧ r.dim (r.rank - 1) ≤ j.idx (r.rank - 1) then
    .next (s.issueFault 0x0C 0 (lsWord j.entry.ins).shape.toNat)
  else match spans.find? fun x => decide (x.2.2.2 < x.1 + x.2.1) with
    | some x => .next (s.issueFault 0x0A 0 (if x.2.2.2 = 1536 * 256 then x.1 / 256 else x.1))
    | none =>
      if j.entry.shape.isSome ∧ r.base % j.elemBytes ≠ 0 then .next (s.issueFault 0x0F 0 r.base)
      else match spans.find? fun x => x.1 % 256 != 0 with
        | some x => .next (s.issueFault 0x0F 0 x.1)
        | none =>
          match ((spans.filter fun x => x.2.2.2 == 2 ^ 20).filterMap fun x => j.outsideSpan x.2.2.1 x.1 x.2.1).min? with
          | some a => .next (s.issueFault 0x16 0 a)
          | none => .next go
/-- Occupy the engine for n ticks from the issue (R338). -/
def State.occupyLs (s : State) (n : Nat) : State := s.onCore s.cur.core fun c => c.occupy (lsPath s.cur.job) (s.cur.job.t + n)
/-- The span of a box in tile memory (R333). -/
def Job.boxSpan (j : Job) (written : Bool) : Nat × Nat × Bool × Nat := (j.tileAt, j.rows * j.pitch, written, 2 ^ 20)

/-- `l.get` (R339). -/
def execLGet (_o : LW) (s : State) : Out :=
  let j := s.cur.job
  s.lsCheck [j.boxSpan true] ((s.occupyLs j.rows).loadRow s.cur.core j 0 j.t (j.idx 1) j.tileAt j.rows .none)
/-- `l.getb` (R339). -/
def execLGetb (_o : LW) (s : State) : Out :=
  let j := s.cur.job
  s.lsCheck [(j.tileAt, 256 * j.units, true, 2 ^ 20)] ((s.occupyLs j.units).copyUnit s.cur.core j 0 j.t .none)
/-- `l.gath` (R341). -/
def execLGath (_o : LW) (s : State) : Out :=
  let j := s.cur.job
  s.lsCheck [(j.entry.vb.toNat % 2 ^ 20, 256, false, 2 ^ 20), (j.tileAt, 64 * j.pitch, true, 2 ^ 20)]
    ((s.occupyLs 65).gatherList s.cur.core j j.t)
/-- `l.cget` (R342). -/
def execLCget (_o : LW) (s : State) : Out :=
  let j := s.cur.job
  s.lsCheck [(j.entry.va.toNat % 2 ^ 23, 256 * j.units, false, 2 ^ 23), (j.tileAt, 256 * j.units, true, 2 ^ 20)]
    ((s.occupyLs j.units).copyUnit s.cur.core j 0 j.t .none)
/-- `l.tcpy` (R342). -/
def execLTcpy (_o : LW) (s : State) : Out :=
  let j := s.cur.job
  s.lsCheck [(j.entry.va.toNat % 2 ^ 20, 256 * j.units, false, 2 ^ 20), (j.tileAt, 256 * j.units, true, 2 ^ 20)]
    ((s.occupyLs j.units).copyUnit s.cur.core j 0 j.t .none)
/-- `l.zero` (R342). -/
def execLZero (_o : LW) (s : State) : Out :=
  let j := s.cur.job
  s.lsCheck [(j.tileAt, 256 * j.units, true, 2 ^ 20)] ((s.occupyLs j.units).copyUnit s.cur.core j 0 j.t .none)
/-- The accesses whose pages an `l.pref` walks (R339). -/
def Job.prefAccs (j : Job) : List (Int × Nat) := (List.range j.rows).flatMap fun r => (j.rowAccs (j.idx 1 + r)).map (·.1)
/-- `l.pref` (R339): its walks start, and end when their data has come. -/
def execLPref (_o : LW) (s : State) : Out :=
  let j := s.cur.job
  s.lsCheck [] ((s.occupyLs 1).flyFrom s.cur.core j 0 j.t true .walk)
/-- The walks of an `l.pref` have ended (R339): the TLBs have its pages, or it faults as a read would, at micro-PC 0; poison is not checked. -/
def State.endWalk (s : State) (core : Nat) (f : Flight) : State :=
  let s1 := s.onCore core fun c => { c with flights := c.flights.filter fun x => x.id != f.id }
  match s1.spotFault core f.job .read f.job.prefAccs with
  | some (0x0E, _) => s1.fillAll core f.job .read f.job.prefAccs
  | some (code, v) => s1.rowFault core f.job 0 .none code v (s.rtick core)
  | none => s1.fillAll core f.job .read f.job.prefAccs

/-- The address of the index entry of a coded tile (R194). -/
def Job.indexVa (j : Job) : Int := (j.shape.index : Int) + 8 * j.shape.offset j.indices
/-- `l.getw` (R340): the index entry is read now, and arrives after its latency. -/
def execLGetw (_o : LW) (s : State) : Out :=
  let j := s.cur.job
  let core := s.cur.core
  let accs := [(j.indexVa, 8)]
  let s0 := s.occupyLs 34
  s.lsCheck [(j.tileAt, 1, true, 1536 * 256)]
    (match s0.spotFault core j .read accs with
     | some (code, v) => s0.rowFault core j 0 .none code v j.t
     | none => s0.flyRead core j 1 (j.t + s0.lag core j .read accs) .read (accs.map fun a => (a, 0, 0))
         (.index (BitVec.ofNat 64 (leNat (s0.rangeBytes core j .read accs)))))
/-- The accesses of batt unit k of a coded tile under its index entry (R340). -/
def Job.tileAccs (j : Job) (entry k : Nat) : List ((Int × Nat) × Nat × Nat) :=
  let len := 32 * (entry / 2 ^ 40 % 2 ^ 16)
  spread (rangeAccs ((j.shape.base : Int) + ((entry % 2 ^ 40 + 256 * k : Nat) : Int)) (min 256 (len - 256 * k)))
/-- The bytes of a coded tile under its index entry, filled up to whole batt units (R340). -/
def State.tileBytes (s : State) (core : Nat) (j : Job) (entry : Word) : List Byte :=
  let n := entry.toNat
  let len := n / 2 ^ 40 % 2 ^ 16
  s.rangeBytes core j .coded (rangeAccs ((j.shape.base : Int) + ((n % 2 ^ 40 : Nat) : Int)) (32 * len))
    ++ List.replicate (256 * ((32 * len + 255) / 256) - 32 * len) 0
/-- The index entry of `l.getw` arrives (R194, R340): its checks, then the tile's pages, then one batt unit a tick. DEDUCED: log 28. -/
def State.getwTile (s : State) (core : Nat) (j : Job) (tick : Nat) (entry : Word) : State :=
  let n := entry.toNat
  let len := n / 2 ^ 40 % 2 ^ 16
  let m := (32 * len + 255) / 256
  let unit := j.tileAt / 256
  let va : Int := (j.shape.base : Int) + ((n % 2 ^ 40 : Nat) : Int)
  let carry : Status := { Status.none with first := n }
  if n / 2 ^ 56 ≠ 0 ∨ n % 32 ≠ 0 ∨ len = 0 ∨ 265 < len ∨ 1536 < unit + m then s.rowFault core j 1 carry 0x1A entry tick
  else
    let accs := rangeAccs va (32 * len)
    match s.spotFault core j .coded accs with
    | some (code, v) => s.rowFault core j 1 carry code v tick
    | none =>
      let bs := s.tileBytes core j entry
      let t0 := tick + s.lag core j .coded accs
      let late := s.missing core accs
      ((List.range m).foldl (fun s k =>
        s.flySpots core { j with arg := n } (2 + k) (t0 + k) late (s.spotsOf core j .coded ((j.tileAccs n k).map (·.1)))
          (.batt (unit + k) ((bs.drop (256 * k)).take 256))) s).fillAll core j .coded accs
/-- The accesses of a half of the 512 bytes of `l.cbld`, with the half-byte that each one fills (R343). -/
def Job.bookAccs (j : Job) (half : Nat) : List ((Int × Nat) × Nat × Nat) :=
  (spread (rangeAccs ((j.shape.place j.indices).1 + 256 * half) 256)).map fun a => (a.1, a.2.1 + 512 * half, a.2.2)
/-- `l.cbld` (R343): the first half is read now, the second one tick later, and the slot is written at t + 1 + Lat. -/
def execLCbld (o : LW) (s : State) : Out :=
  let j := s.cur.job
  let core := s.cur.core
  let accs := (j.bookAccs 0).map (·.1)
  let s0 := s.occupyLs 2
  s.lsCheck []
    (match s0.spotFault core j .read accs with
     | some (code, v) => s0.rowFault core j 0 .none code v j.t
     | none =>
       (s0.flyRead core j 1 (j.t + 1 + s0.lag core j .read accs) .read (j.bookAccs 0)
         (.codebook (o.tile.toNat % 4) (s0.rangeBytes core j .read accs))).flyFrom core j 1 (j.t + 1) false (.step 1 .none))
/-- The first half joined by what the second one reads, on the perform tick of the slower one (R343, R334). -/
def Flight.join (f : Flight) (bs : List Byte) (spots : List Mapped) (late : Bool) (tick : Nat) : Flight :=
  match f.effect with
  | .codebook k h => { f with effect := .codebook k (h ++ bs), spots := f.spots ++ spots, late := f.late || late, tick := max f.tick tick }
  | _ => f
/-- The second half of `l.cbld`: it joins the first. -/
def State.cbldHalf (s : State) (core : Nat) (j : Job) (tick : Nat) : State :=
  let accs := (j.bookAccs 1).map (·.1)
  match s.spotFault core j .read accs with
  | some (code, v) => s.rowFault core j 1 .none code v tick
  | none =>
    let mine (f : Flight) : Bool := f.job.seq == j.seq && (match f.effect with | .codebook _ h => h.length == 256 | _ => false)
    let spots := s.spotsOf core j .read accs
    let late := s.missing core accs || spots.any fun p => p.medium == .peer
    let id := match (s.core core).flights.find? mine with | some f => f.id | none => 0
    let joined (f : Flight) : Flight :=
      if mine f then f.join (s.rangeBytes core j .read accs) spots late (tick + s.lag core j .read accs) else f
    let s1 := s.onCore core fun c => { c with flights := c.flights.map joined }
    (s1.fillAll core j .read accs).askPeers core j id (j.bookAccs 1) spots

/-- `s.put` (R344). -/
def execSPut (_o : LW) (s : State) : Out :=
  let j := s.cur.job
  s.lsCheck [j.boxSpan false] ((s.occupyLs j.rows).storeRow s.cur.core j 0 j.t (j.idx 1) j.tileAt j.rows .none false)
/-- `s.red` (R345): the phase becomes non-replayable (R233). -/
def execSRed (_o : LW) (s : State) : Out :=
  let j := s.cur.job
  s.lsCheck [j.boxSpan false]
    (((s.occupyLs j.rows).storeRow s.cur.core j 0 j.t (j.idx 1) j.tileAt j.rows .none true).unreplayable s.cur.core)
/-- `s.scat` (R341). -/
def execSScat (_o : LW) (s : State) : Out :=
  let j := s.cur.job
  s.lsCheck [(j.entry.vb.toNat % 2 ^ 20, 256, false, 2 ^ 20), (j.tileAt, 64 * j.pitch, false, 2 ^ 20)]
    ((s.occupyLs 65).gatherList s.cur.core j j.t)
/-- `s.cput` (R342). -/
def execSCput (_o : LW) (s : State) : Out :=
  let j := s.cur.job
  s.lsCheck [(j.tileAt, 256 * j.units, false, 2 ^ 20), (j.entry.va.toNat % 2 ^ 23, 256 * j.units, true, 2 ^ 23)]
    ((s.occupyLs j.units).copyUnit s.cur.core j 0 j.t .none)
/-- The perform tick of the last write that a signal releases (R150). -/
def State.releasedBy (s : State) (core : Nat) (j : Job) (pkg : Option Nat) : Nat :=
  ((s.prior core j pkg s.serial).map (·.tick)).foldl max 0
/-- A signal to a 193rd other package has no counter left (R221). -/
def State.noCounter (s : State) (core pkg : Nat) : Bool :=
  let l := (s.core (s.signalCore core)).signals
  (find l pkg).isNone && decide (192 ≤ l.length)
/-- `s.sig` (R346): a release, then an atomic add. -/
def execSSig (_o : LW) (s : State) : Out :=
  let j := s.cur.job
  let core := s.cur.core
  let va := j.entry.va.toNat
  let accs := [((va : Int), 8)]
  if j.t < s.here.freeAt 1 then .next (s.issueFault 0x10 2 j.t)
  else if va % 8 ≠ 0 then .next (s.issueFault 0x0F 0 va)
  else match s.spotFault core j .write accs with
    | some (code, v) => .next (s.suspend core j 0 .none code 0 v j.t)
    | none => match s.spot core j .write va 8 with
      | .error c => .next (s.issueFault c 0 va)
      | .ok (p, _) =>
        let pkg := s.peerPkg (p.pa / 2 ^ 36 % 256)
        if p.medium = .peer ∧ s.noCounter core pkg then .next (s.issueFault 0x01 0 pkg)
        else
          let oc := s.signalCore core
          let n := (find (s.core oc).signals pkg).getD 0 + 1
          let s1 := if p.medium = .peer then s.onCore oc fun c => { c with signals := insert c.signals pkg n } else s
          let tick := max (j.t + s.latency core p.medium) (s.releasedBy core j (if p.medium = .peer then some pkg else none) + 1)
          .next ((((s1.occupyLs 1).flyFrom core j 0 tick (s.missing core accs) (.signal va p.pa p.durable j.entry.vb n)).fillAll
            core j .write accs).unreplayable core)
/-- `s.pbar` (R160, R347): in a timed phase of a strict rope, fault 0x09. -/
def execSPbar (_o : LW) (s : State) : Out :=
  let j := s.cur.job
  if j.t < s.here.freeAt 1 then .next (s.issueFault 0x10 2 j.t)
  else if s.strict s.cur.core ∧ j.timed then .next (s.issueFault 0x09 0 j.shape.base)
  else .next ((s.occupyLs 1401).flyFrom s.cur.core j 0 (j.t + 1400) false .barrier)

/-- One later step of an L or S instruction at its tick (R111). -/
def State.lsStep (s : State) (core : Nat) (j : Job) (u tick : Nat) (c : Status) : State :=
  match j.entry.ins with
  | .lGet _ => s.loadRow core j u tick (j.idx 1 + u) (j.tileAt + u * j.pitch) j.rows c
  | .sPut _ => s.storeRow core j u tick (j.idx 1 + u) (j.tileAt + u * j.pitch) j.rows c false
  | .sRed _ => s.storeRow core j u tick (j.idx 1 + u) (j.tileAt + u * j.pitch) j.rows c true
  | .lGath _ | .sScat _ => s.gatherRow core j u tick c
  | .lGetb _ | .lCget _ | .lTcpy _ | .lZero _ | .sCput _ => s.copyUnit core j u tick c
  | .lGetw _ => s.getwTile core j tick (BitVec.ofNat 64 c.first)
  | .lCbld _ => s.cbldHalf core j tick
  | _ => s

/-! ## When a read takes its value -/

/-- Bytes fill a destination from a half-byte on (R333): whole bytes, or one nibble of a byte. -/
def fillHalf (bs : List Byte) (at_ mode : Nat) (data : List Byte) : List Byte :=
  bs.mapIdx fun i b =>
    if mode = 0 then (if at_ / 2 ≤ i ∧ i < at_ / 2 + data.length then data.getD (i - at_ / 2) b else b)
    else if i = at_ / 2 then
      let d := data.getD 0 0
      let nib := if mode = 1 then d &&& 0xF else d >>> 4
      if at_ % 2 = 0 then (b &&& 0xF0) ||| nib else (b &&& 0x0F) ||| (nib <<< 4)
    else b
/-- Data fills the read of a flight (R134, R144, R337). -/
def fillEffect (e : Effect) (at_ mode : Nat) (data : List Byte) : Effect :=
  match e with
  | .tile cells => .tile ((cells.map (·.1)).zip (fillHalf (cells.map (·.2)) at_ mode data))
  | .codebook slot bs => .codebook slot (fillHalf bs at_ mode data)
  | .batt unit bs => .batt unit (fillHalf bs at_ mode data)
  | .index w => .index (BitVec.ofNat 64 (leNat (fillHalf (leBytes 8 w.toNat) at_ mode data)))
  | e => e
/-- The accesses that the read of a flight is made of, with the half-byte that each one fills and how; none for a write. -/
def Flight.reads (f : Flight) : Want × List ((Int × Nat) × Nat × Nat) :=
  let j := f.job
  match j.entry.ins, f.effect with
  | .lGet _, .tile _ => (.read, j.rowAccs (j.idx 1 + f.upc))
  | .lGath _, .tile _ => (.read, if j.arg = 0xFFFFFFFF then [] else j.rowAccs j.arg)
  | .lGetb _, .tile _ => (.read, spread (j.unitAccs f.upc))
  | .lGetw _, .index _ => (.read, [((j.indexVa, 8), 0, 0)])
  | .lGetw _, .batt .. => (.coded, j.tileAccs j.arg (f.upc - 2))
  | .lCbld _, .codebook _ bs => (.read, j.bookAccs 0 ++ if bs.length = 512 then j.bookAccs 1 else [])
  | _, _ => (.read, [])
/-- The reads of a flight with the places that their checks found (R378). -/
def Flight.placed (f : Flight) : List (((Int × Nat) × Nat × Nat) × Mapped) := f.reads.2.zip f.spots
/-- Whether a flight's own rope has written a byte since the flight left (R144). -/
def State.ownSince (s : State) (core : Nat) (f : Flight) (pa : Nat) : Bool :=
  s.ownWrites.any fun w => decide (f.id < w.serial) && (s.core core).rope == some w.rope && w.cells.contains pa
/-- The bytes of one access are read again, but those that the rope itself has written since (R144). -/
def State.refresh (s : State) (core : Nat) (f : Flight) (p : Mapped) (n at_ mode : Nat) (e : Effect) : Effect :=
  (List.range n).foldl (fun e i =>
    if s.ownSince core f (p.pa + i) then e else fillEffect e (at_ + 2 * i) mode (s.globalBytes core { p with pa := p.pa + i } 1)) e
/-- Change one flight of a core. -/
def State.onFlight (s : State) (core id : Nat) (f : Flight → Flight) : State :=
  s.onCore core fun c => { c with flights := c.flights.map fun x => if x.id == id then f x else x }
/-- An engine's read of global memory takes its value now (R144), from the places that its checks found (R378): the bytes that its own rope has
not written since its issue are read again, and the others stay as they were at the issue. The last such instant before the perform tick
counts. -/
def State.sample (s : State) (core id : Nat) : State :=
  match (s.core core).flights.find? fun f => f.id == id with
  | none => s
  | some f =>
    let e := f.placed.foldl (fun e x => if x.2.medium = .peer then e else s.refresh core f x.2 x.1.1.2 x.1.2.1 x.1.2.2 e) f.effect
    s.onFlight core id fun x => { x with effect := e }
/-- The read of a flight made anew at places (R209, R214): what each access finds now. DEDUCED: log 45. -/
def State.refill (s : State) (core : Nat) (f : Flight) (spots : List Mapped) : Effect :=
  (f.reads.2.zip spots).foldl (fun e x =>
    if x.2.medium = .peer then e else fillEffect e x.1.2.1 x.1.2.2 (s.globalBytes core x.2 x.1.1.2)) f.effect
/-- The first address of a flight whose granule is poisoned (R258). -/
def State.badAt (s : State) (f : Flight) : Word :=
  match f.effect with
  | .signal va .. => BitVec.ofNat 64 va
  | .reduce va pa _ adds => (match adds.find? fun a => s.poisoned a.1 4 with | some a => BitVec.ofNat 64 (va + a.1 - pa) | none => BitVec.ofNat 64 va)
  | .global va _ _ _ => BitVec.ofNat 64 va
  | _ => match f.placed.find? fun x => s.poisoned x.2.pa x.1.1.2 with
    | some x => BitVec.ofInt 64 x.1.1.1
    | none => BitVec.ofInt 64 ((f.reads.2.head?.map (·.1.1)).getD 0)
/-- A read that met an error is made again when its entry resumes (R209, R228): its checks first, then its latency. -/
def State.redo (s : State) (core tick : Nat) (f : Flight) : State :=
  let accs := f.reads.2.map (·.1)
  match s.spotFault core f.job f.reads.1 accs with
  | some (code, v) => s.suspendAt .write core f.job f.upc .none code 0 v tick
  | none =>
    let spots := s.spotsOf core f.job f.reads.1 accs
    let late := s.missing core accs || spots.any fun p => p.medium == .peer
    let s1 := s.onFlight core f.id fun x =>
      { x with effect := s.refill core f spots, spots := spots, asid := s.asidOf core, late := late, bad := false, tick := tick + s.lag core f.job f.reads.1 accs }
    (s1.fillAll core f.job f.reads.1 accs).askPeers core f.job f.id f.reads.2 spots

/-! ## Lateness -/

/-- The 64-byte units in HBM that a read or a write of an engine moves (R13). -/
def State.hbmUnits (s : State) (f : Flight) : List Nat :=
  (s.writeUnits f.effect ++ f.placed.flatMap fun x => s.unitsIn x.2.pa x.1.1.2).eraseDups
/-- Whether a strict rope asks more of some pseudo-channel that a flight uses than one of its slots moves (R14, R334): else its service times are
fixed, and nothing of it in HBM is late. DESIGN CHOICE: log 23. -/
def State.crowded (s : State) (core : Nat) (f : Flight) : Bool :=
  match s.ropeOf core with
  | none => false
  | some r =>
    let out := r.cores.flatMap fun c => (s.core c).flights.flatMap s.hbmUnits
    (s.hbmUnits f).any fun u => decide (slotUnits < (out.filter fun v => channelOf (64 * v) == channelOf (64 * u)).length)
/-- Whether the data of a flight may come late (R14, R90, R334): a read of global memory, or a write to it, outside the slots that a strict rope
holds, or one that is sent again (R214). DESIGN CHOICE: log 23. -/
def State.mayDelay (s : State) (core : Nat) (f : Flight) : Bool :=
  let moves := !f.spots.isEmpty || (match f.effect with | .global .. | .reduce .. | .signal .. => true | _ => false)
  let us := s.hbmUnits f
  moves && (f.resent || !s.strict core || us.isEmpty || s.crowded core f
    || f.spots.any (fun p => p.medium != .hbm)
    || (match f.effect with | .global _ pa .. | .reduce _ pa .. | .signal _ pa .. => s.medium pa != .hbm | _ => false))

end Sys2Proof.Machine
end

