-- ==== Sys2Proof/Machine/Routing.lean ====
section
/-! DEFINITION. Routing (R109, R110): the checks of L, M, V, S and Y words, their shape records (R136 to R138, R384), frozen
registers and format words (R182, R183), and the entries of the queues (R88, R352, R355, R357, R377). -/
namespace Sys2Proof.Machine

/-! ## What a word names -/

/-- The Y word of an instruction. -/
def yWord : Instr → Option YW
  | .yAlign o | .yIdle o | .yTchk o | .yLoop o | .yBar o | .yHalt o | .yYield o => some o
  | _ => none
/-- The engine header of an instruction. -/
def hdrOf : Instr → Hdr
  | .mWld o | .mWldr o | .mWsw o | .mMac o | .mMacz o | .mTov o | .mFrv o | .mClr o | .mOut o | .mKat o | .mTr o | .mAdd o => o.h
  | .vAdd o | .vSub o | .vMul o | .vMulh o | .vFma o | .vMad o | .vMin o | .vMax o | .vAbs o | .vNeg o | .vAdds o | .vSubs o => o.h
  | .vAnd o | .vOr o | .vXor o | .vAndn o | .vNot o | .vShl o | .vShr o | .vSar o | .vFshl o | .vFshr o => o.h
  | .vCeq o | .vCne o | .vClt o | .vCle o | .vSel o | .vCvt o | .vRshq o | .vPack o | .vUnpk o | .vClz o | .vPopc o | .vBext o => o.h
  | .vRsum o | .vRmax o | .vRmin o | .vPerm o | .vShfl o | .vBcst o | .vRdx o | .vWrx o | .vMov o | .vLane o | .vFrs o | .vLut o => o.h
  | .vPand o | .vPor o | .vPxor o | .vPnot o => o.h
  | .vLi o => o.h
  | .vLd o | .vLds o | .vLdx o | .vSt o | .vSts o | .vStx o | .vStm o | .vPst o | .vPld o | .vStw o => o.h
  | i => (lsWord i).h
/-- WAIT of an entry (R245, R249). -/
def waitOf (i : Instr) : Nat :=
  match yWord i with
  | some o => o.wait.toNat
  | none => (hdrOf i).wait.toNat
/-- The queue of an engine instruction: L 0, M 1, V 2, S 3; none for a Y, C or K word. -/
def queueOf : Instr → Option Nat
  | .lGet _ | .lGetw _ | .lGetb _ | .lGath _ | .lCget _ | .lTcpy _ | .lPref _ | .lCbld _ | .lZero _ => some 0
  | .mWld _ | .mWldr _ | .mWsw _ | .mMac _ | .mMacz _ | .mTov _ | .mFrv _ | .mClr _ | .mOut _ | .mKat _ | .mTr _ | .mAdd _ => some 1
  | .sPut _ | .sCput _ | .sScat _ | .sRed _ | .sSig _ | .sPbar _ => some 3
  | .vAdd _ | .vSub _ | .vMul _ | .vMulh _ | .vFma _ | .vMad _ | .vMin _ | .vMax _ | .vAbs _ | .vNeg _ | .vAdds _ | .vSubs _ => some 2
  | .vAnd _ | .vOr _ | .vXor _ | .vAndn _ | .vNot _ | .vShl _ | .vShr _ | .vSar _ | .vFshl _ | .vFshr _ => some 2
  | .vCeq _ | .vCne _ | .vClt _ | .vCle _ | .vSel _ | .vCvt _ | .vRshq _ | .vPack _ | .vUnpk _ | .vClz _ | .vPopc _ | .vBext _ => some 2
  | .vRsum _ | .vRmax _ | .vRmin _ | .vPerm _ | .vShfl _ | .vBcst _ | .vRdx _ | .vWrx _ | .vMov _ | .vLi _ | .vLane _ | .vFrs _ => some 2
  | .vLut _ | .vLd _ | .vLds _ | .vLdx _ | .vSt _ | .vSts _ | .vStx _ | .vStm _ | .vPst _ | .vPld _ | .vStw _ => some 2
  | .vPand _ | .vPor _ | .vPxor _ | .vPnot _ => some 2
  | _ => none
/-- The queues a word enters (R109). DESIGN CHOICE: log 17. -/
def queuesOf (i : Instr) : List Nat :=
  match yWord i with
  | some o => maskQ o.mask
  | none => (queueOf i).toList
where
  /-- L 8, M 4, V 2, S 1. -/
  maskQ (m : BitVec 4) : List Nat := (List.range 4).filter fun q => m.getLsbD (3 - q)
/-- Instructions that name a shape record (R332). -/
def namesShape : Instr → Bool
  | .lGet _ | .lGetw _ | .lGetb _ | .lGath _ | .lPref _ | .lCbld _ | .sPut _ | .sScat _ | .sRed _ | .sPbar _ => true
  | _ => false
/-- Instructions that take a format word (R182). -/
def popsFormat : Instr → Bool
  | .mWld _ | .mWldr _ | .mMac _ | .mMacz _ | .mOut _ | .mKat _ => true
  | _ => false
/-- The scalar registers that an entry freezes (R109 step 3): two at most. -/
def frozenRegs : Instr → Reg × Reg
  | .vFrs o => (BitVec.ofNat 5 o.a.toNat, 0)
  | .vLds o => (BitVec.ofNat 5 o.x.toNat, 0)
  | .vSts o => (BitVec.ofNat 5 o.x.toNat, 0)
  | .yLoop o => (BitVec.ofNat 5 (o.arg.toNat / 2 ^ 29), 0)
  | i => match queueOf i with
    | some 0 | some 3 => ((lsWord i).r0, (lsWord i).r1)
    | _ => (0, 0)
/-- Format codes in a V word's type fields, which must be enabled (R75, R287). -/
def typeCodes : Instr → List Nat
  | .vAdd o | .vSub o | .vMul o | .vMulh o | .vFma o | .vMad o | .vMin o | .vMax o | .vAbs o | .vNeg o | .vAdds o | .vSubs o => [o.t.toNat]
  | .vCeq o | .vCne o | .vClt o | .vCle o | .vRshq o | .vPack o | .vUnpk o | .vRsum o | .vRmax o | .vRmin o | .vLut o => [o.t.toNat]
  | .vCvt o => [o.t.toNat, o.b.toNat]
  | .vLi o => [o.t.toNat]
  | _ => []
/-- Whether a format code is assigned and enabled (R75, R167). -/
def State.formatOn (s : State) (code : Nat) : Bool := decide (code ≤ 12) && s.formats.getLsbD code

/-! ## Step 1: the queues -/

/-- The offset that the next entry would have in the loop whose body routing is filling, if it lies in the body (R352). -/
def Queue.bodyOffset (q : Queue) (i : Instr) : Option Nat :=
  match q.route with
  | none => none
  | some b => let c := b.next + waitOf i; if c < b.span then some c else none
/-- Whether a word may not enter a queue (R100, R355, R357, R377). -/
def Queue.refuses (q : Queue) (i : Instr) : Bool :=
  let align : Bool := match i with | .yAlign _ => true | _ => false
  let halt : Bool := match i with | .yHalt _ => true | _ => false
  q.halting || (q.needAlign && !align)
    || (q.base.isNone && !align && !halt && !q.entries.any fun e => match e.ins with | .yAlign _ => true | _ => false)
    || (match q.bodyOffset i, q.route with
        | some c, some b => (yWord i).isSome || b.taken.any (fun x => x % b.ii == c % b.ii) || decide (63 ≤ b.taken.length)
        | _, _ => false)

/-! ## Step 2: shape records -/

/-- A shape record from its 64 bytes (R136). DEDUCED: log 37. -/
def shapeOf (bs : List Byte) : ShapeRec :=
  let f (a n : Nat) : Nat := leNat ((bs.drop a).take n)
  { base := f 0 8, format := BitVec.ofNat 4 (f 8 1), rank := f 9 1, rights := BitVec.ofNat 4 (f 10 1),
    size := (List.range 4).map fun d => f (16 + 4 * d) 4, stride := (List.range 4).map fun d => sextNat 32 (f (32 + 4 * d) 4),
    index := f 48 8 }
/-- Whether a record's own fields are in order (R136, R138). -/
def State.shapeOk (s : State) (bs : List Byte) : Bool :=
  let f (a n : Nat) : Nat := leNat ((bs.drop a).take n)
  let r := shapeOf bs
  f 0 8 < 2 ^ 52 && f 8 1 < 16 && f 10 1 < 16 && f 11 5 == 0 && f 56 8 == 0 && (r.rights.getLsbD 3 || r.index == 0)
    && 1 ≤ r.rank && r.rank ≤ 4 && s.formatOn r.format.toNat && ((List.range 4).all fun d => d < r.rank || r.size.getD d 0 == 1)
/-- Reads through a record (R138, R339). -/
def readsShape : Instr → Bool
  | .lGet _ | .lGetw _ | .lGetb _ | .lGath _ | .lPref _ | .lCbld _ => true
  | _ => false
/-- Writes through a record (R138). -/
def writesShape : Instr → Bool
  | .sPut _ | .sScat _ | .sRed _ => true
  | _ => false
/-- Whether an instruction is a coded operation (R138, R340). -/
def isCoded : Instr → Bool
  | .lGetw _ => true
  | _ => false
/-- The indices that routing checks (R138, R332, R341). -/
def routedIndices (i : Instr) (a b : Word) : List Nat :=
  if isGather i then [a.toNat % 2 ^ 32, 0, 0, 0] else indicesOf a b
/-- The checks of R138 on a record in table order, and those that single instructions add (R339, R343, R345): code and value. DEDUCED: log 37. -/
def State.shapeFault (s : State) (i : Instr) (bs : List Byte) (a b : Word) : Option (Nat × Nat) :=
  let n := (lsWord i).shape.toNat
  let r := shapeOf bs
  let e := routedIndices i a b
  if s.here.shlim.toNat ≤ n then some (0x0C, n)
  else if !s.shapeOk bs then some (0x0D, n)
  else if (List.range 4).any (fun d => decide (r.size.getD d 0 ≤ e.getD d 0)) then some (0x0C, n)
  else if (readsShape i && !r.rights.getLsbD 0) || (writesShape i && !r.rights.getLsbD 1) then some (0x0D, n)
  else match i with
    | .sPbar _ => if r.rights.getLsbD 2 then none else some (0x0D, n)
    | .lCbld o =>
      if r.rights.getLsbD 3 then some (0x0D, n)
      else if r.format ≠ 3 ∨ r.stride.getD 0 0 ≠ 1 ∨ r.dim 0 < e.getD 0 0 + 256 then some (0x19, o.tile.toNat % 4) else none
    | .lGetb _ =>
      if r.rights.getLsbD 3 ∨ r.format ≠ 1 ∨ r.rank ≠ 1 ∨ r.stride.getD 0 0 ≠ 1 then some (0x0D, n) else none
    | .sRed _ => if r.format = 4 ∨ r.format = 5 then none else some (0x0D, n)
    | _ => if readsShape i ∧ r.rights.getLsbD 3 ≠ isCoded i then some (0x0D, n) else none

/-! ## Step 3: registers and format words -/

/-- Checks on frozen values that the instruction rules place at routing (R341, R342, R346, R352): code and value. -/
def valueFault (i : Instr) (w a b : Word) : Option (Nat × Word) :=
  let count := decide (b.toNat / 2 ^ 7 ≠ 0) || decide (b.toNat = 0) || decide (64 < b.toNat)
  let bad := match i with
    | .lGath _ | .sScat _ => decide (a.toNat / 2 ^ 32 ≠ 0) || decide (b.toNat / 2 ^ 20 ≠ 0)
    | .lCget _ | .sCput _ => count || decide (a.toNat / 2 ^ 23 ≠ 0)
    | .lTcpy _ => count || decide (a.toNat / 2 ^ 20 ≠ 0)
    | .lZero _ => count
    | .yLoop _ => decide (a.toNat / 2 ^ 32 ≠ 0)
    | _ => false
  if bad then some (0x01, w)
  else match i with
    | .sSig _ => if a.toNat / 2 ^ 52 ≠ 0 then some (0x0A, a) else none
    | _ => none
/-- The format pairs that the array takes, with accumulate type and block scaling (R174). -/
def pairOk (f : Word) : Bool :=
  let a := fmtA f
  let b := fmtB f
  let int (x : BitVec 4) : Bool := x == 0 || x == 1 || x == 12
  let small (x : BitVec 4) : Bool := x == 9 || x == 10 || x == 11
  let half (x : BitVec 4) : Bool := x == 6 || x == 7
  if int a && int b then !fmtFloat f && !fmtBlock f else fmtFloat f && ((small a && small b) || (half a && half b))
/-- Whether a format word passes the checks of R183 for an instruction. -/
def State.formatOk (s : State) (i : Instr) (f : Word) : Bool :=
  let n := f.toNat
  let b := fmtB f
  let coded := b == 0 || b == 1 || b == 9 || b == 10 || b == 11 || b == 12
  n / 2 ^ 26 % 2 ^ 6 == 0 && n / 2 ^ 19 % 2 ^ 5 == 0 && n / 2 ^ 8 % 4 < 2
    && s.formatOn (fmtA f).toNat && s.formatOn b.toNat && s.formatOn (fmtOut f).toNat
    && (match i with
        | .mMac _ | .mMacz _ => pairOk f
        | .mKat _ => pairOk f && !fmtBlock f
        | .mWld _ => coded
        | .mWldr _ => coded || b == 6 || b == 7
        | _ => true)
/-- `m.wld` with a B-scale address needs a word with B scales (R315, R319). -/
def scaleAddrOk (i : Instr) (f : Word) : Bool :=
  match i with
  | .mWld o => o.addr == 0 || fmtScalesB f
  | _ => true

/-! ## Step 4: the queues -/

/-- Initiations of a loop (R352). -/
def Loop.count (l : Loop) : Nat := l.trip + l.sc - 1
/-- The tick after a loop's last initiation interval. -/
def Loop.stop (l : Loop) : Nat := l.l0 + l.count * l.ii
/-- A loop that has ended leaves its queue with its body (R352, R355); so does a body entry that was routed too late. -/
def Queue.endLoop (q : Queue) : Queue :=
  let ended : Bool := match q.loop with | some l => decide (l.stop ≤ l.cursor) | none => true
  if ended then
    { q with loop := none, entries := q.entries.dropWhile fun e => e.body.isSome,
             issued := q.issued ++ q.entries.takeWhile fun e => e.body.isSome }
  else q
/-- Whether a rope has gone past the T of an entry that comes to a queue (R89), which is behind by no fault (R380). `c`: its offset in a loop's body. DEDUCED: log 19. -/
def Queue.passed (q : Queue) (rtick wait : Nat) (c : Option Nat) : Bool :=
  let x := q.endLoop
  !x.lagging && x.susp.isNone && !x.realign && x.base.isSome && (match c, x.loop with
    | some c, some l => decide (l.l0 + c < rtick)
    | some _, none => !x.entries.any fun e => match e.ins with | .yLoop _ => true | _ => false
    | none, l => l.isNone && x.entries.isEmpty && decide (x.nextT + wait < rtick))
/-- One entry more in a queue (R88, R89, R110, R352, R377, R381). -/
def Queue.push (q : Queue) (rtick : Nat) (e : Entry) : Queue :=
  let align : Bool := match e.ins with | .yAlign _ => true | _ => false
  let halt : Bool := match e.ins with | .yHalt _ => true | _ => false
  let level4 : Bool := match e.ins with | .yBar o => o.arg.toNat / 2 ^ 31 == 4 | _ => false
  let c := q.bodyOffset e.ins
  let route : Option BodyRoute := match e.ins with
    | .yLoop o =>
      let a := o.arg.toNat
      let ii := a / 2 ^ 23 % 64
      some { ii := ii, span := (a / 2 ^ 19 % 16 + 1) * ii, next := 0, taken := [] }
    | _ => match c, q.route with
      | some c, some b => some { b with next := c + 1, taken := c :: b.taken }
      | _, _ => none
  let fixed := if q.entries.isEmpty && ((q.base.isNone && (align || halt)) || (q.realign && align)) then some (rtick + waitOf e.ins) else none
  let e' : Entry := { e with slot := q.slot, body := c, fixedT := fixed }
  { q with entries := q.entries ++ [e'], route := route, slot := (q.slot + 1) % 64,
           needAlign := if align then false else q.needAlign || level4, realign := q.realign && !align, halting := q.halting || halt,
           overrun := q.overrun || (fixed.isNone && q.passed rtick (waitOf e.ins) c) }
/-- Append an entry to its queues (R109 step 4). -/
def Core.push (c : Core) (qs : List Nat) (rtick : Nat) (e : Entry) : Core :=
  let c1 := qs.foldl (fun c q => { c with queues := alter c.queues q fun x => x.push rtick e }) c
  let next := (c.pc + 8) &&& 0xFFFF
  { c1 with seq := c.seq + 1,
            bars := match e.ins with | .yBar o => c.bars ++ [o.arg.toNat / 2 ^ 31] | _ => c.bars,
            yieldPcs := match e.ins with | .yYield _ => c.yieldPcs ++ [next] | _ => c.yieldPcs }
/-- Entries that a queue holds (R110). -/
def Queue.load (q : Queue) : Nat := q.entries.length + (if q.susp.isSome then 1 else 0)
/-- Whether a store or an atomic to the bytes of a shape record, at its place, is still out (R142). -/
def Core.recordBusy (c : Core) (m : Mapped) : Bool :=
  c.accesses.any fun a => a.kind.writes && spansMeet a.span (m.span 64)
/-- Step 4 of R109: the entry is appended once every queue has room, and the format word is taken. -/
def State.append (s : State) (i : Instr) (a b : Word) (shape : Option ShapeRec) : State :=
  let c := s.here
  let qs := queuesOf i
  if qs.any fun q => decide (64 ≤ ((c.queues[q]?).getD .empty).load) then s
  else
    let e : Entry := { ins := i, slot := 0, va := a, vb := b, shape := shape, fmt := if popsFormat i then c.fmtq.headD 0 else 0,
                       fixedT := none, body := none, pc := c.pc, seq := c.seq }
    let c1 := c.push qs (s.rtick s.cur.core) e
    let halts : Bool := match i with | .yHalt _ => true | _ => false
    s.setHere (Core.retire { c1 with fmtq := if popsFormat i then c.fmtq.drop 1 else c.fmtq, inbox := [], haltIn := c1.haltIn || (halts && c.handler) })
/-- Step 3 of R109: the registers are read, and the word at the head of the format queue is checked. DEDUCED: log 70. -/
def State.route3 (s : State) (i : Instr) (w : Word) (shape : Option ShapeRec) : State :=
  let c := s.here
  let a := c.reg (frozenRegs i).1
  let b := c.reg (frozenRegs i).2
  match valueFault i w a b with
  | some (code, v) => s.faultHere code v
  | none =>
    if !popsFormat i then s.append i a b shape
    else match c.fmtq with
      | [] => s.faultHere 0x13 0
      | f :: _ =>
        if !s.formatOk i f then s.faultHere 0x01 f
        else if !scaleAddrOk i f then s.faultHere 0x01 w
        else s.append i a b shape
/-- Step 2 of R109: the shape record, read at rope-supervisor level (R384), and its checks (R138). -/
def State.route2 (s : State) (i : Instr) (w : Word) : State :=
  if !namesShape i then s.route3 i w none
  else
    let c := s.here
    let va := (c.shbase &&& 0xFFFFFFFFFFFFFFC0).toNat + 64 * (lsWord i).shape.toNat
    match s.mapCore s.cur.core 2 va 64 .read with
    | .error code => s.faultHere code (BitVec.ofNat 64 va)
    | .ok (m, e) =>
      if c.recordBusy m then s
      else s.withPieces 16 2 [(va, 64)] (
        let bs := s.pieceBytes va 64 m
        match s.shapeFault i bs (c.reg (frozenRegs i).1) (c.reg (frozenRegs i).2) with
        | some (code, v) => s.faultHere code (BitVec.ofNat 64 v)
        | none => (s.fillTlb s.cur.core va e).route3 i w (some (shapeOf bs)))
/-- ROUTING (R109): the control core routes the engine word w at its pc; a fault leaves every queue unchanged. DEDUCED: log 37. DESIGN CHOICE: log 69. -/
def execEvRouting (w : Word) (s : State) : Out :=
  match decode w with
  | .error _ => .next (s.faultHere 0x01 w)
  | .ok i =>
    let qs := queuesOf i
    if qs.isEmpty then .next s
    else if (typeCodes i).any (fun t => !s.formatOn t) ∨ qs.any (fun q => ((s.here.queues[q]?).getD .empty).refuses i) then
      .next (s.faultHere 0x01 w)
    else s.waitFor [(frozenRegs i).1, (frozenRegs i).2] (s.route2 i w)

end Sys2Proof.Machine
end

