-- ==== Sys2Proof/Machine/Timetable.lean ====
section
/-! DEFINITION. The timetable (R88, R348 to R358): the Y instructions at their T, phases (R92 to R95, R231, R381), barriers
(R99, R100, R149), halt and the AND tree (R101, R357), and the events that raise holds (R22, R119, R90). -/
namespace Sys2Proof.Machine

/-! ## Queue heads -/

/-- The scheduled tick of an entry at the head of a queue (R88, R377). DEDUCED: log 70. -/
def Queue.dueT (q : Queue) (e : Entry) : Nat := e.fixedT.getD (q.nextT + waitOf e.ins)
/-- Change one queue of a core. -/
def Core.onQueue (c : Core) (q : Nat) (f : Queue → Queue) : Core := { c with queues := alter c.queues q f }
/-- A queue of a core. -/
def Core.queue (c : Core) (q : Nat) : Queue := (c.queues[q]?).getD .empty
/-- The head leaves its queue, and the next entry follows n ticks after T + 1 (R88, R350). -/
def Queue.retireHead (q : Queue) (n : Nat) : Queue :=
  match q.entries with
  | [] => q
  | e :: r => { q with entries := r, wait := .none, nextT := q.dueT e + 1 + n, issued := q.issued ++ [e] }
/-- The queue that acts. -/
def State.hereQueue (s : State) : Queue := s.here.queue s.cur.job.q
/-- Change the queue that acts. -/
def State.onHereQueue (s : State) (f : Queue → Queue) : State := s.setHere (s.here.onQueue s.cur.job.q f)
/-- The scheduled tick of the entry that acts. -/
def State.hereT (s : State) : Nat := s.hereQueue.dueT s.cur.job.entry
/-- Operand bits of a Y word. -/
def yArg (o : YW) (lo n : Nat) : Nat := o.arg.toNat / 2 ^ lo % 2 ^ n

/-! ## Y instructions at their T -/

/-- `y.align` (R93): it is presented at its T, and its queue issues nothing until base B. -/
def execYAlign (_o : YW) (s : State) : Out := .next (s.onHereQueue fun q => { q with wait := .align s.cur.job.t })
/-- `y.idle` (R350). -/
def execYIdle (o : YW) (s : State) : Out := .next (s.onHereQueue fun q => q.retireHead (yArg o 0 32))
/-- `y.tchk` (R351). -/
def execYTchk (o : YW) (s : State) : Out :=
  if s.hereT = s.hereQueue.base.getD 0 + yArg o 0 32 then .next (s.onHereQueue fun q => q.retireHead 0)
  else .next (s.issueFault 0x10 1 s.hereT)
/-- The loop that a `y.loop` with frozen trip count and scheduled tick T starts at T + 1 (R352, R353). -/
def loopOf (o : YW) (trip : Word) (t : Nat) : Loop :=
  { cursor := t + 1, l0 := t + 1, ii := yArg o 23 6, sc := yArg o 19 4 + 1, trip := trip.toNat, step := yArg o 12 7, ring := yArg o 8 4 + 1 }
/-- `y.loop` (R352, R353): the loop starts at T + 1; the first entry after it has T = L0 + K × II + WAIT. -/
def execYLoop (o : YW) (s : State) : Out :=
  let l := loopOf o s.cur.job.entry.va s.hereT
  .next (s.onHereQueue fun q => { q.retireHead (l.count * l.ii) with loop := some l })
/-- Take one barrier of a level off the pending list, once no queue holds it any more (R147). -/
def Core.dropBar (c : Core) (seq level : Nat) : Core :=
  if c.queues.any fun q => q.entries.any fun e => e.seq == seq then c else { c with bars := c.bars.erase level }
/-- The first tick at which the engine of a queue is free (R317, R338). -/
def Core.engineFree (c : Core) (q : Nat) : Nat :=
  if q = 0 then c.freeAt 0 else if q = 3 then c.freeAt 1
  else if q = 1 then max (max (c.freeAt 2) (c.freeAt 3)) (max (c.freeAt 4) (c.freeAt 5)) else 0
/-- `y.bar` (R100, R356): level 0 retires at its T; level 4 needs a valid `dom4`; the others wait, from the end of the occupancy
of their engine (R317, R338). -/
def execYBar (o : YW) (s : State) : Out :=
  let level := yArg o 31 3
  let j := s.cur.job
  if level = 0 then
    .next ((s.onHereQueue fun q => q.retireHead 0).onCore s.cur.core fun c => c.dropBar j.entry.seq 0)
  else if level = 4 ∧ !s.here.dom4.getLsbD 63 then
    .next (s.issueFault 0x01 0 ((((encode j.entry.ins).getD 0)).toNat))
  else
    .next (s.onHereQueue fun q => { q with wait := .bar level (max j.t (s.here.engineFree j.q)) false })
/-- `y.halt` (R357): it waits at the head until every queue and access of the core is done. -/
def execYHalt (_o : YW) (s : State) : Out := .next (s.onHereQueue fun q => { q with wait := .halt })
/-- `y.yield` (R358): a one-tick entry, counted in its queue (R104). -/
def execYYield (_o : YW) (s : State) : Out :=
  let c := s.here.onQueue s.cur.job.q fun q => q.retireHead 0
  .next (s.setHere { c with yields := alter c.yields s.cur.job.q (· + 1) })

/-! ## Phases -/

/-- The oldest `y.align` that every queue of its mask presents (R93). -/
def Core.presented (c : Core) : Option (Entry × YW) :=
  let heads := c.queues.filterMap fun q => match q.wait, q.entries.head? with
    | .align _, some e => (match e.ins with | .yAlign o => some (e, o) | _ => none)
    | _, _ => none
  let full := heads.filter fun h => (maskQueues h.2.mask).all fun q => heads.any (fun x => x.1.seq == h.1.seq) &&
    (match (c.queue q).wait, (c.queue q).entries.head? with | .align _, some e => e.seq == h.1.seq | _, _ => false)
  full.foldl (fun m h => match m with | none => some h | some x => if h.1.seq < x.1.seq then some h else some x) none
/-- The 32 range words of a header: L, M, V, S, four read ranges and four write ranges each (R92). -/
def Core.headerRanges (c : Core) (a : Nat) : List Nat := (List.range 32).map fun i => c.tileNat (a + 16 + 4 * i) 4
/-- Start and length of a range in 256-byte units (R92). -/
def rangeSpan (w : Nat) : Nat × Nat := (w % 4096, w / 4096 % 4096)
/-- Whether two ranges overlap (R92). -/
def rangesMeet (v w : Nat) : Bool :=
  let a := rangeSpan v
  let b := rangeSpan w
  a.2 != 0 && b.2 != 0 && decide (a.1 < b.1 + b.2) && decide (b.1 < a.1 + a.2)
/-- The phase header check (R92, R93): code and value of its fault, or what the phase starts with. -/
def Core.header (c : Core) (o : YW) (word : Nat) (base : Nat) : Except (Nat × Nat) PhaseStart :=
  let a := yArg o 0 12 * 256
  let ws := c.headerRanges a
  let zero (x n : Nat) : Bool := c.tileNat (a + x) n == 0
  if c.tileNat a 2 ≠ 0x4850 ∨ c.tileNat (a + 2) 1 ≠ 1 ∨ 2 ≤ c.tileNat (a + 3) 1 ∨ !zero 4 12 ∨ !zero 144 112
      ∨ ws.any (fun w => decide (2 ^ 24 ≤ w) || decide (4096 < (rangeSpan w).1 + (rangeSpan w).2)) then .error (0x01, word)
  else
    let at_ (i : Nat) : Nat := ws.getD i 0
    let clash (i j : Nat) : Bool := i / 8 != j / 8 && decide (4 ≤ i % 8) && rangesMeet (at_ i) (at_ j)
    match (List.range 32).find? fun i => (List.range 32).any fun j => clash i j with
    | some i => .error (0x15, at_ i)
    | none =>
      let pick (q first : Nat) : List Nat := ((List.range 4).map fun k => at_ (8 * q + first + k)).filter fun w => (rangeSpan w).2 != 0
      .ok { base := base, timed := c.tileNat (a + 3) 1 % 2 == 0, mask := o.mask,
            sets := (List.range 4).map (pick · 0) ++ (List.range 4).map (pick · 4),
            own := (List.range 4).any fun q => (pick q 4).any fun w => (pick q 0).any fun v => rangesMeet v w }
/-- A `y.align` whose header failed leaves its queues, with every entry routed after it, since the control core routes them
again from `tpc` (R93, R381). DEDUCED: log 39. -/
def Core.unroute (c : Core) (e : Entry) (mask : BitVec 4) : Core :=
  let gone (x : Entry) : Bool := decide (e.seq ≤ x.seq)
  let bars := ((c.queues.flatMap fun q => q.entries.filter gone).filterMap fun x =>
    match x.ins with | .yBar o => some (x.seq, yArg o 31 3) | _ => none).eraseDups
  let yields := ((c.queues.flatMap fun q => q.entries.filter gone).filterMap fun x =>
    match x.ins with | .yYield _ => some x.seq | _ => none).eraseDups
  let c1 : Core := { c with queues := c.queues.map fun q =>
      { q with entries := q.entries.filter fun x => !gone x,
               route := if q.entries.any (fun x => gone x && x.body.isSome) || q.entries.any (fun x => gone x && (match x.ins with | .yLoop _ => true | _ => false))
                        then none else q.route,
               needAlign := q.needAlign && !(q.entries.any gone),
               halting := q.entries.any fun x => !gone x && (match x.ins with | .yHalt _ => true | _ => false) } }
  let c2 := (maskQueues mask).foldl (fun c q => c.onQueue q fun x => { x with wait := .none, realign := true }) c1
  { c2 with bars := bars.foldl (fun l b => l.erase b.2) c2.bars, yieldPcs := c2.yieldPcs.take (c2.yieldPcs.length - yields.length) }
/-- The header of one core fails at tick A: its fault, precise at the `y.align`, which is taken now, or once the accesses that have left the control
core are over (R203). DEDUCED: log 39. -/
def State.headerFault (s : State) (core : Nat) (e : Entry) (mask : BitVec 4) (code value tick : Nat) : State :=
  let f : PendingFault := { code := code, sub := 0, value := BitVec.ofNat 64 value, source := 0, slot := 0, upc := 0, tick := tick,
                            nested := (s.core core).handler, tpc := some e.pc }
  let s1 := s.onCore core fun c => c.unroute e mask
  if (s.core core).accesses.isEmpty then s1.trap core f e.pc else s1.onCore core fun c => { c with pending := c.pending ++ [f] }
/-- Every queue of the mask takes base B (R93). -/
def Core.takeBase (c : Core) (p : PhaseStart) (e : Entry) : Core :=
  let c1 := (maskQueues p.mask).foldl (fun c q => c.onQueue q fun x =>
    { x with entries := x.entries.filter (fun y => y.seq != e.seq), wait := .none, base := some p.base, nextT := p.base, lagging := false,
             issued := x.issued ++ [e] }) c
  { c1 with starts := c1.starts ++ [p] }
/-- Whether page walks of an `l.pref` are under way in a core (R339). -/
def Core.walking (c : Core) : Bool := c.flights.any fun f => f.effect == .walk
/-- The cores whose earlier page walks keep the header check of a phase from passing, though every core presents its `y.align` (R339). -/
def State.alignHeld (s : State) (r : Rope) : List Nat :=
  if r.cores.any fun c => (s.core c).presented.isNone then []
  else r.cores.filter fun c => (s.core c).walking && (s.core c).presented.any fun h => h.2.mask.getLsbD 3
/-- The check of a phase's headers, once the last core has presented its `y.align` at tick A (R93, R381): the phase starts in
every core, or in none. -/
def State.alignCheck (s : State) (r : Rope) (tick : Nat) : State :=
  let all := r.cores.map fun c => (c, (s.core c).presented)
  if all.isEmpty || all.any (fun x => x.2.isNone) || !(s.alignHeld r).isEmpty then s
  else
    let base := tick + r.hdly + 8
    let found := all.filterMap fun x => x.2.map fun h =>
      (x.1, h.1, h.2, (s.core x.1).header h.2 ((encode h.1.ins).getD 0).toNat base)
    let bad := found.filterMap fun x => match x.2.2.2 with | .error f => some (x.1, x.2.1, x.2.2.1, f) | .ok _ => none
    if bad.isEmpty then
      found.foldl (fun s x => match x.2.2.2 with | .ok p => s.onCore x.1 fun c => c.takeBase p x.2.1 | .error _ => s) s
    else
      bad.foldl (fun s x =>
        if (s.core x.1).run = 0 then s else s.headerFault x.1 x.2.1 x.2.2.1.mask x.2.2.2.1 x.2.2.2.2 tick) s
/-- The restart state of a phase with mask 0xF (R231). -/
def Core.restartState (c : Core) (base : Nat) : Restart :=
  { base := base, tokens := c.tokens, vrb := c.vrb, loops := c.queues.map (·.loop), mstatus := c.mstatus, vstatus := c.vstatus,
    katc := c.katc, carder := c.carder, flights := c.flights, busy := c.busy, sets := c.sets, timed := c.timed, refetch := c.fetching, active := c.active,
    planeUse := c.planeUse, planes := c.planes, planeScales := c.planeScales }
/-- Entries of a replay buffer, where a `y.loop` counts as one (R231, R233); the `y.align` that ends the phase is of the next one. -/
def Queue.replayed (q : Queue) : Nat :=
  (q.issued.filter fun e => e.body.isNone && (match e.ins with | .yAlign _ => false | _ => true)).length
/-- The queues of a phase's mask take its declared sets and its kind (R92, R94). -/
def Core.declare (c : Core) (p : PhaseStart) : Core :=
  { c with sets := c.sets.mapIdx fun i x => if p.mask.getLsbD (3 - i % 4) then p.sets.getD i [] else x,
           timed := c.timed.mapIdx fun q x => if p.mask.getLsbD (3 - q) then p.timed else x,
           starts := c.starts.erase p }
/-- The restart point of the carder at base B (R199): none when no decode is in progress; its segment and its next step, which is the one after the last
for a decode whose last steps are done. DEDUCED: log 33. -/
def Carder.restartPoint (k : Carder) (base : Nat) : Option (Nat × Nat) :=
  if k.busy && decide (base ≤ k.issued + 263) then some (if 3 < k.seg then (3, 64) else (k.seg, k.step)) else none
/-- Base B of a phase in one core (R95, R199, R231, R349). -/
def Core.beginPhase (c : Core) (p : PhaseStart) (replayable : Bool) : Core :=
  let c0 : Core := { c.declare p with wrote := [] }
  let c1 : Core := if p.mask.getLsbD 2 then
      { c0 with carder := { c0.carder with restart := c0.carder.restartPoint p.base } } else c0
  let c2 : Core := if p.mask = 0xF then { c1 with restart := some (c1.restartState p.base) } else c1
  let c3 : Core := if p.mask.getLsbD 3 then { c2 with fetched := c2.fetching, fetching := [] } else c2
  { c3 with replayable := replayable, queues := c3.queues.mapIdx fun q x => if p.mask.getLsbD (3 - q) then { x with issued := [] } else x }
/-- The same base while an earlier error still waits for its cancel tick: the replay is that of the phase before (R232, R235). -/
def Core.beginCancelled (c : Core) (p : PhaseStart) : Core := c.declare p
/-- A phase of a rope begins: what it wrote before is of no phase any more, and what a replay left open stays so for one phase less (R234). -/
def State.passPhase (s : State) (k : RopeKey) : State :=
  { s with phaseWrites := s.phaseWrites.filter fun w => w.1 != k,
           tainted := (s.tainted.map fun t => if t.rope == k then { t with left := t.left - 1 } else t).filter fun t => t.left != 0 }
/-- A rope starts a launch with nothing written and nothing open (R234). -/
def State.forgetPhases (s : State) (k : RopeKey) : State :=
  { s with phaseWrites := s.phaseWrites.filter fun w => w.1 != k, tainted := s.tainted.filter fun t => t.rope != k }
/-- Phases whose base is the tick at which their rope now stands (R93, R94, R233, R235), of disjoint masks where a base has several: an error from now on is of the phase that begins. -/
def State.beginPhases (s : State) (r : Rope) (tick : Nat) : State :=
  let due (c : Nat) : List PhaseStart := (s.core c).starts.filter fun p => p.base == tick
  if r.cores.all fun c => (due c).isEmpty then s
  else if r.cancel.isSome then
    (r.cores.foldl (fun s c => s.onCore c fun x => (due c).foldl Core.beginCancelled x) s).onRope r.key fun r =>
      { r with cancel := r.cancel.map fun x => { x with passed := true } }
  else
    let ok := r.cores.all fun c => match due c with
      | [p] => p.mask == 0xF && !p.own && decide (((s.core c).queue 0).replayed ≤ 64)
      | _ => false
    let s1 := r.cores.foldl (fun s c => s.onCore c fun x => (due c).foldl (fun x p => x.beginPhase p ok) { x with replayable := false }) s
    (s1.onRope r.key fun r => { r with replaying := false }).passPhase r.key
/-- The tick that runs is the first base of its launch (R102): its `gtc` is kept. -/
def State.noteBase (s : State) (r : Rope) (tick : Nat) : State :=
  if r.cores.any fun c => (s.core c).queues.any fun q => q.base == some tick then
    s.onRope r.key fun r => { r with running := r.running.map fun l => if l.firstBase = 0 then { l with firstBase := s.gtc } else l }
  else s

/-! ## Barriers -/

/-- Whether an effect is a write within the scope of a barrier level (R100, R149). -/
def Effect.inLevel (e : Effect) (level : Nat) : Bool :=
  match e with
  | .tile _ => true
  | .cluster .. => decide (2 ≤ level)
  | .global _ pa _ _ => decide (3 ≤ level) && (decide (level = 4) || pa / 2 ^ 44 != 15)
  | .reduce _ _ _ adds => decide (3 ≤ level) && (decide (level = 4) || adds.any fun a => a.1 / 2 ^ 44 != 15)
  | .signal _ pa _ _ _ => decide (3 ≤ level) && (decide (level = 4) || pa / 2 ^ 44 != 15)
  | _ => false
/-- The lowest barrier level whose scope holds what the later steps of an instruction write (R149). -/
def writeLevel : Instr → Option Nat
  | .lGet _ | .lGetb _ | .lGath _ | .lCget _ | .lTcpy _ | .lZero _ | .mOut _ => some 1
  | .sCput _ => some 2
  | .sPut _ | .sScat _ | .sRed _ => some 3
  | _ => none
/-- Whether an S instance still has to write memory of this package, from a micro-PC on (R149); `word`: the list word of a row of `s.scat`. -/
def State.writesHere (s : State) (core : Nat) (j : Job) (u word : Nat) : Bool :=
  match j.entry.shape with
  | none => true
  | some r => (j.rowsLeft r u word).any fun i => (List.range (min 64 (r.dim 0 - i.getD 0 0))).any fun k =>
      let va := (r.place (i.modify 0 (· + k))).1.toNat
      match s.lookup core va with
      | some t => t.phys va / 2 ^ 44 != 15
      | none => true
/-- Whether the later steps of an instance that has issued may write within a barrier level's scope (R149). -/
def State.stepsInLevel (s : State) (core : Nat) (j : Job) (u : Nat) (carry : Status) (level : Nat) : Bool :=
  match writeLevel j.entry.ins with
  | none => false
  | some k => decide (k ≤ level) && (decide (k ≠ 3) || decide (level = 4) || s.writesHere core j u carry.first)
/-- The lowest barrier level whose scope holds a place (R149). -/
def Place.level : Place → Nat
  | .tile _ => 1
  | .spill _ => 1
  | .cluster _ => 2
  | .global .. => 3
  | .peer .. => 4
/-- Whether a core still has a write within a level's scope to perform that was made before it arrives (R100, R149): of an instruction routed before
the barrier, or issued by the tick at which the barrier is reached; or of its control core, that left it by that tick; at level 4, also one that another package has not
acknowledged (R337). DEDUCED: log 38. -/
def State.barrierBusy (s : State) (core seq reach level : Nat) : Bool :=
  (s.core core).flights.any (fun f =>
    (f.effect.inLevel level && (decide (f.job.entry.seq < seq) || decide (f.job.t + f.upc ≤ reach)))
    || (decide (f.job.entry.seq < seq) && (match f.effect with
        | .step u carry => s.stepsInLevel core f.job u carry level
        | _ => false)))
  || (s.core core).accesses.any (fun a => a.kind.writes && decide (a.place.level ≤ level) && decide (a.tick ≤ reach))
  || (decide (level = 4) && s.outgoing.any fun o => o.core == core && decide (0 < o.issued) && decide (o.issued ≤ reach)
        && (match o.kind with | .read _ => false | _ => true))
/-- The oldest barrier of a level at which a core waits, with its mask, and whether the core has arrived (R100). DEDUCED: log 38. -/
def Core.barrier (c : Core) (level : Nat) : Option (Entry × BitVec 4 × Bool) :=
  let heads := c.queues.filterMap fun q => match q.wait, q.entries.head? with
    | .bar l t a, some e => if l = level then (match e.ins with | .yBar o => some (e, o.mask, a, t) | _ => none) else none
    | _, _ => none
  (heads.foldl (fun m h => match m with | none => some h | some x => if h.1.seq < x.1.seq then some h else some x) none).map
    fun h => (h.1, h.2.1, h.2.2.1)
/-- Whether every queue of a barrier's mask has reached it by a tick: nothing before it in the queue is suspended or occupies the engine (R207, R338). -/
def Core.reached (c : Core) (seq : Nat) (mask : BitVec 4) (tick : Nat) : Bool :=
  (maskQueues mask).all fun q => match (c.queue q).wait, (c.queue q).entries.head? with
    | .bar _ t _, some e => e.seq == seq && decide (t ≤ tick) && (c.queue q).susp.isNone && decide (c.engineFree q ≤ tick)
    | _, _ => false
/-- The tick at which the last queue of a barrier's mask has reached it (R356). -/
def Core.reachTick (c : Core) (seq : Nat) : Nat :=
  (c.queues.mapIdx fun n q => match q.wait, q.entries.head? with
    | .bar _ t _, some e => if e.seq = seq then max t (c.engineFree n) else 0
    | _, _ => 0).foldl max 0
/-- A core arrives at a barrier (R100, R356). -/
def State.arrive (s : State) (core level tick : Nat) : State :=
  match (s.core core).barrier level with
  | some (e, mask, false) =>
    if (s.core core).reached e.seq mask tick ∧ !s.barrierBusy core e.seq ((s.core core).reachTick e.seq) level then
      s.onCore core fun c => (maskQueues mask).foldl (fun c q => c.onQueue q fun x =>
        { x with wait := match x.wait with | .bar l t _ => .bar l t true | w => w }) c
    else s
  | _ => s
/-- Whether a core has arrived at a barrier of a level. -/
def State.arrived (s : State) (core level : Nat) : Bool :=
  match (s.core core).barrier level with
  | some (_, _, a) => a
  | none => false
/-- A barrier completes in one core (R100): its queues resume at a base; at level 4, only at their next `y.align`. -/
def Core.passBar (c : Core) (level : Nat) (base : Nat) : Core :=
  match c.barrier level with
  | none => c
  | some (e, mask, _) =>
    let c1 := (maskQueues mask).foldl (fun c q => c.onQueue q fun x =>
      { x with entries := x.entries.filter (fun y => y.seq != e.seq), wait := .none, nextT := base, issued := x.issued ++ [e],
               base := if level = 4 then none else some base, lagging := false }) c
    c1.dropBar e.seq level
/-- The cores of a rope that are members of its level-4 domain: those whose `dom4` is valid (R99, R100). -/
def State.members4 (s : State) (r : Rope) : List Nat := r.cores.filter fun c => (s.core c).dom4.getLsbD 63
/-- Whether the package has arrived at level 4: all of its member cores have (R100). -/
def State.arrived4 (s : State) (r : Rope) : Bool := !(s.members4 r).isEmpty && (s.members4 r).all fun c => s.arrived c 4
/-- The cores of a rope that share a domain of a level with a core (R99). -/
def State.members (s : State) (r : Rope) (core level : Nat) : List Nat :=
  if level = 1 then [core] else if level = 2 then r.cores.filter fun c => clusterOf c == clusterOf core
  else if level = 4 then s.members4 r else r.cores
/-- Every domain of a level in which all members have arrived passes its barrier (R100). DEDUCED: log 40. -/
def State.completeBarriers (s : State) (r : Rope) (level tick : Nat) : State :=
  let ready := r.cores.filter fun c => (s.members r c level).contains c && (s.members r c level).all fun m => s.arrived m level
  ready.foldl (fun s c => s.onCore c fun x => x.passBar level (if level = 1 then tick + 2 else if level = 4 then r.rtick else tick + r.hdly)) s
/-- BARRIER_COMPLETION (R100): the barriers of a level complete where every member has arrived. Within the package the rope tick
`r.rtick` is the tick of the last arrival; at level 4 the event says that every other package has arrived too, which no proxy absence token
allows (R106). -/
def execEvBarrierCompletion (rope : RopeKey) (level : Nat) (s : State) : Out :=
  match s.rope? rope with
  | none => .next s
  | some r =>
    if level = 4 then
      if r.barrier4.isSome ∧ r.absence.1.isEmpty then .next ((s.completeBarriers r 4 r.rtick).onRope rope fun r => { r with barrier4 := none }) else .next s
    else .next (s.completeBarriers r level r.rtick)
/-- Nominal ticks of 2 s (R1, R100). -/
def twoSeconds : Nat := 3800000000
/-- BARRIER_TIMEOUT (R100): fault 0x30 in every core of the rope that waits at level 4, 2 s after the package's arrival, unless a proxy absence
token suspends it (R106). -/
def execEvBarrierTimeout (s : State) : Out :=
  match s.rope? s.cur.rope with
  | none => .next s
  | some r => match r.barrier4 with
    | none => .next s
    | some (g, _) =>
      if r.running.isNone ∨ !r.absence.1.isEmpty ∨ s.gtc.toNat < g + twoSeconds then .next s
      else
        let s1 := s.onRope r.key fun r => { r with barrier4 := some (s.gtc.toNat, true) }
        .next (r.cores.foldl (fun s c => match (s.core c).barrier 4 with
          | some (e, mask, _) =>
            let q := (maskQueues mask).headD 0
            if (s.core c).run = 0 ∨ ((s.core c).queue q).susp.isSome then s
            else s.suspend c { Job.idle with entry := e, q := q, t := r.rtick } 0 .none 0x30 0
              (BitVec.ofNat 64 ((s.core c).dom4.toNat / 2 ^ 32 % 2 ^ 16)) r.rtick
          | none => s) s1)

/-- A proxy absence token of a package comes to a rope's level-4 barrier, or is withdrawn: its timeout then starts from zero (R106), and stands still
while the token of another package is in. -/
def State.absence (s : State) (key : RopeKey) (pkg : Nat) (sent : Bool) : State :=
  s.onRope key fun r =>
    if sent then { r with absence := (if r.absence.1.contains pkg then r.absence.1 else r.absence.1 ++ [pkg], r.absence.2) }
    else if r.absence.1.contains pkg then
      { r with absence := (r.absence.1.filter (· != pkg), r.absence.2), barrier4 := r.barrier4.map fun b => (s.gtc.toNat, b.2) }
    else r

/-! ## Halt -/

/-- Whether a core's `y.halt` retires (R101, R357): never in an attempt that an error cancels, whose suppressed access keeps its entry from
retiring (R229, R232). DEDUCED: log 38. -/
def State.canHalt (s : State) (core : Nat) : Bool :=
  let c := s.core core
  c.queues.all (fun q => q.wait == .halt && q.susp.isNone) && c.flights.isEmpty && c.accesses.isEmpty && c.pending.isEmpty
    && (s.outgoing.all fun o => o.core != core) && (match s.ropeOf core with | some r => r.cancel.isNone | none => true)
/-- A core's `y.halt` retires: its halt line rises and its control core halts (R86, R101). -/
def State.haltCore (s : State) (core : Nat) : State :=
  if s.canHalt core then
    s.onCore core fun c => { c with halted := true, queues := c.queues.map fun q => { q with entries := [], wait := .none, base := none, issued := q.issued ++ q.entries } }
  else s
/-- HALT_AND_TREE (R101, R102, R104, R213): every core of the rope that runs the launch has halted. -/
def execEvHaltAndTree (s : State) : Out :=
  match s.rope? s.cur.rope with
  | none => .next s
  | some r => match r.running with
    | none => .next s
    | some l =>
      if !l.failed && r.cores.all fun c => (s.core c).run != l.id || (s.core c).halted then
        let freezes : Bool := match r.freezing with | .sealed _ => r.incoming.isNone | _ => false
        let s1 := s.finishLaunch r (s.tally r l) false
        let s2 := (r.cores.filter fun c => (s1.core c).run == l.id).foldl (fun s c => s.onCore c Core.idle) s1
        let s3 := match r.evict with | some e => s2.complete e.cmd 2 0 | none => s2
        let s4 := if freezes then r.cores.foldl (fun s c => s.onCore c fun x => { x with segments := 0, scanTicks := [] }) s3 else s3
        .next (s4.onRope r.key fun r =>
          { r.noteEnd l.id s.gtc (s.tableAfter r l.id) with
                   running := none, evict := none, cancel := none, replaying := false, barrier4 := none,
                   holds := r.holds.filter fun h => (s.core h.core).run != l.id && h.kind != .stretch,
                   captured := if freezes then r.rtick else r.captured, freezing := if freezes then .frozen else r.freezing })
      else .next s

/-! ## Events that raise holds -/

/-- CLOCK_STRETCH (R22, R23, R96): one hold tick in every rope on the ridge that runs; a strict rope records a breach. DEDUCED: log 68. -/
def execEvClockStretch (ridge : Nat) (s : State) : Out :=
  let moves (r : Rope) : Bool := r.running.isSome && (match r.freezing with | .frozen | .thawing _ => false | _ => true)
  .next { s with ropes := s.ropes.map fun r =>
    if r.cores.any (fun c => clusterOf c == ridge) then
      { (if moves r then r.raise r.origin .stretch r.rtick (some 1) false else r) with breach := r.breach || r.strict }
    else r }
/-- VRF_REFRESH (R119): at rope tick 16b of 128, an access of the core to bank b raises one hold of one tick. DEDUCED: log 68. -/
def execEvVrfRefresh (s : State) : Out :=
  let tick := s.rtick s.cur.core
  let b := tick % 128 / 16
  if tick % 16 = 0 ∧ s.here.ports.any (fun p => p.1 == 0 && p.2 / 32 == b) then
    .next (s.hold s.cur.core .refresh tick (some 1) true)
  else .next s
/-- The loops of entries that follow a tick, by their timetable (R313, R352, R380): up to the first entry whose T is not fixed by it. -/
def comingLoops (t : Nat) : List Entry → List Loop
  | [] => []
  | e :: r =>
    if e.body.isSome then comingLoops t r
    else
      let due := e.fixedT.getD (t + waitOf e.ins)
      match e.ins with
      | .yLoop o => let l := loopOf o e.va due; l :: comingLoops l.stop r
      | .yIdle o => comingLoops (due + 1 + yArg o 0 32) r
      | .yAlign _ | .yHalt _ => []
      | .yBar o => if yArg o 31 3 = 0 then comingLoops (due + 1) r else []
      | _ => comingLoops (due + 1) r
/-- The loops of a queue whose initiation ticks come by its timetable (R313): the one that runs, and those that a fault has delayed, whose initiation
ticks are not moved (R380). -/
def Queue.loops (q : Queue) : List Loop := q.loop.toList ++ comingLoops q.nextT q.entries
/-- Whether a tick is an initiation tick of a loop (R352). -/
def Loop.starts (l : Loop) (tick : Nat) : Bool := decide (l.l0 ≤ tick) && decide (tick < l.stop) && (tick - l.l0) % l.ii == 0
/-- Y_LOOP_INITIATION (R313, R380): `vrb` turns and the stage predicates shift, on an initiation tick of a loop of the V queue. -/
def execYLoopInitiation (s : State) : Out :=
  let tick := s.rtick s.cur.core
  match (s.here.queue 2).loops.find? fun l => l.starts tick with
  | none => .next s
  | some l =>
    let c := s.here
    let ones : Word := ~~~(0 : Word)
    let c1 : Core := { c with vrb := c.vrb - 1 }
    let c2 := ((c1.setPred 15 ones (c.predicate 14)).setPred 14 ones (c.predicate 13)).setPred 13 ones (c.predicate 12)
    let c3 := c2.setPred 12 ones (if (tick - l.l0) / l.ii < l.trip then ones else 0)
    .next (s.setHere (c3.noteWrite { Job.idle with phase := (c.queue 2).base.getD 0 } ([12, 13, 14, 15].flatMap fun p => predBits p ones)))
/-- One 64-byte unit of an engine access moves, where the slot in force of its pseudo-channel has room for it (R13, R14, R334). -/
def State.serveUnit (s : State) (core id u : Nat) : State :=
  let pc := channelOf (64 * u)
  if s.roomFor pc (s.requester core) then (s.moveUnit pc).onFlight core id fun f => { f with served := f.served ++ [u] } else s
/-- The units of an engine access in HBM move as far as the slots in force allow (R13). -/
def State.serveUnits (s : State) (core : Nat) (f : Flight) : State :=
  ((s.hbmUnits f).filter fun u => !f.served.contains u).foldl (fun s u => s.serveUnit core f.id u) s
/-- Late data moves as far as the slots in force allow, and is there once all of it has moved. -/
def State.serveLate (s : State) (core : Nat) (f : Flight) : State :=
  (s.serveUnits core f).onFlight core f.id fun x => if (s.hbmUnits f).all x.served.contains then { x with late := false } else x
/-- The units of an engine access move before its perform tick, when a slot in force has room for them (R13): the access of a flight by its number. -/
def State.serveEarly (s : State) (core id : Nat) : State :=
  match (s.core core).flights.find? fun f => f.id == id with
  | some f => s.serveUnits core f
  | none => s
/-- Whether the units of an engine access have to find room in the slots as they come (R13, R14): not those of a strict rope, whose own slots serve
them in time, unless they ask more than a slot moves (R334). -/
def State.gated (s : State) (core : Nat) (f : Flight) : Bool := !f.late && (!s.strict core || s.crowded core f)
/-- An engine access whose tick has come moves what it has not moved, and is late where the slots in force have no room (R13, R90, R334). -/
def State.serveDue (s : State) (core tick : Nat) : State :=
  (s.core core).flights.foldl (fun s f =>
    if decide (f.tick ≤ tick) && !f.bad && !(s.core core).parked f && s.gated core f then
      (s.serveUnits core f).onFlight core f.id fun x => if (s.hbmUnits f).all x.served.contains then x else { x with late := true }
    else s) s
/-- LATE_DATA_ARRIVAL (R90): the late data of an engine access comes, and its hold ends; the walks of an `l.pref` end (R339). Data that another
package still owes has not arrived (R337), nor does any while the rope is frozen (R214). DESIGN CHOICE: log 23. -/
def execEvLateDataArrival (core id : Nat) (s : State) : Out :=
  let owed := s.outgoing.any fun o => o.core == core && (match o.flight with | some f => f.1 == id | none => false)
  let still : Bool := match s.ropeOf core with | some r => (match r.freezing with | .frozen | .thawing _ => true | _ => false) | none => false
  match (s.core core).flights.find? fun f => f.id == id && f.late with
  | none => .next s
  | some f => if owed || still then .next s else if f.effect = .walk then .next (s.endWalk core f) else .next (s.serveLate core f)

end Sys2Proof.Machine
end

