-- ==== Sys2Proof/Machine/Perform.lean ====
section
/-! DEFINITION. One rope tick of the engines, part by part: steps (R111), performing (R140, R141, R144), issue (R88, R90, R353,
R380), tokens (R91), port conflicts and gathers (R122, R125). -/
namespace Sys2Proof.Machine

/-! ## Performing -/

/-- Whether the durable writes that an `s.pbar` covers are all accepted (R160). -/
def DurableWrite.before (d : DurableWrite) (core : Nat) (j : Job) : Bool :=
  d.core == some core && d.engine && d.cls == classOf j.entry.ins && decide (d.issued < j.t) && !d.image
/-- Whether an `s.pbar` waits at its perform tick: covered writes are not accepted, and none has failed (R160, R161). DESIGN CHOICE: log 63. -/
def State.barrierOpen (s : State) (core : Nat) (j : Job) : Bool :=
  let ds := s.durable.filter fun d => d.before core j && !d.accepted
  !ds.isEmpty && !ds.any (·.failed)
/-- The end of an `s.pbar` (R160, R161, R164): one that fails ends again when it resumes. -/
def State.endBarrier (s : State) (core : Nat) (f : Flight) (tick : Nat) : State :=
  let mine (d : DurableWrite) : Bool := d.before core f.job && !d.accepted
  match lowestFailed (s.durable.filter mine) with
  | some va => (((s.lapse mine).suspendAt .write core f.job f.upc .none 0x31 0 (BitVec.ofNat 64 va) tick).keep core f)
  | none => s.cover fun d => d.before core f.job && !d.lapsed
/-- Batt units of the tile that the carder decodes: first, and the one after the last, by the length that its header gave at the issue; the header
stands in the first (R190, R196). DEDUCED: log 33. -/
def Core.decodeUnits (c : Core) : Nat × Nat := (c.carder.unit, c.carder.unit + max 1 (min 34 ((c.carder.total + 255) / 256)))
/-- Whether a decode is in progress at a tick (R188, R196). -/
def Core.decoding (c : Core) (tick : Nat) : Bool := c.carder.busy && decide (c.carder.issued < tick) && decide (tick ≤ c.carder.issued + 263)
/-- A batt unit of `l.getw` performs (R196, R340). -/
def State.writeBatt (s : State) (core : Nat) (f : Flight) (tick unit : Nat) (bytes : List Byte) : State :=
  let c := s.core core
  if c.decoding tick ∧ c.decodeUnits.1 ≤ unit ∧ unit < c.decodeUnits.2 then
    (s.suspendAt .write core f.job f.upc .none 0x15 0 (BitVec.ofNat 64 unit) tick).keep core f
  else s.setCore core { c with batt := writeAllZ c.batt (cellsAt (256 * unit) bytes) }
/-- A codebook slot is written (R188). -/
def State.writeCodebook (s : State) (core : Nat) (f : Flight) (tick slot : Nat) (bytes : List Byte) : State :=
  let c := s.core core
  if c.decoding tick ∧ c.carder.slot = slot then
    (s.suspendAt .write core f.job f.upc .none 0x19 0 (BitVec.ofNat 64 slot) tick).keep core f
  else
    let freq := (List.range 256).map fun i => leNat ((bytes.drop (2 * i)).take 2)
    s.setCore core { c with codebooks := alter c.codebooks slot fun _ => { loaded := true, freq := freq, sum := freq.sum } }
/-- The end of `m.kat` (R236): a pass, or fault 0x28 with an error record, and the core is fenced. DEDUCED: log 32. -/
def State.endKat (s : State) (core : Nat) (j : Job) (tick : Nat) (found carried : BitVec 32) : State :=
  if found = carried then s.onCore core fun c => { c with katc := c.katc + 1 }.atBase j fun x => { x with katc := x.katc + 1 }
  else
    (((s.logError 6 5 core (s.worldOf core) 0 tick).onCore core fun c => { c with fenced := true }).suspend core j 0 .none 0x28 0
      (BitVec.ofNat 64 (found.toNat + carried.toNat * 2 ^ 32)) tick)
/-- One write performs on its tick (R140); `old` is the core as the tick before left it (R323). -/
def State.perform (s : State) (core tick : Nat) (old : Core) (f : Flight) : State :=
  match f.effect with
  | .tile bs => s.onCore core fun c =>
      { (if f.job.q = 0 then c.portWords 4 (bs.map (·.1)) else c.port 1 (bs.map (·.1))) with tile := writeAllZ c.tile bs }
  | .vrf lanes => s.onCore core fun c =>
      { (c.touch ((lanes.map fun l => l.1 / 64).eraseDups)).noteWrite f.job (lanes.map (·.1)) with vrf := writeAllZ c.vrf lanes }
  | .pred p mask bits => s.onCore core fun c => (c.setPred p mask bits).noteWrite f.job (predBits p mask)
  | .vflags st => s.onCore core fun c => c.mergeV f.job st
  | .mrf lanes bank st => s.onCore core fun c =>
      { (c.mergeBank f.job bank st).noteWrite f.job (lanes.map (16384 + ·.1)) with mrf := writeAllZ c.mrf lanes }
  | .mrfClear _ => s
  | .plane es => s.onCore core fun c => c.setPlane (!c.active) es
  | .scales bs => s.onCore core fun c => c.setScales (!c.active) bs
  | .macCol row col bank sums float fresh south north sub => s.macEntry old core f.job tick f.waited row col bank sums float fresh south north sub
  | .batt unit bytes => s.writeBatt core f tick unit bytes
  | .codebook slot bytes => s.writeCodebook core f tick slot bytes
  | .cluster addr _ =>
    (s.onCore core fun c => { c with ports := c.ports ++ [(5, clusterBank core addr)] }).performOut core f.job (f.job.t + f.upc) f.effect
  | .global .. | .reduce .. | .signal .. => s.performOut core f.job (f.job.t + f.upc) f.effect
  | .kat found carried => s.endKat core f.job tick found carried
  | .barrier => s.endBarrier core f tick
  | .macRow .. | .tap .. | .step .. | .index _ | .walk => s
/-- Whether a flight is a step of the carder, which reads before the writes of its tick perform (R198). -/
def Flight.isCarder (f : Flight) : Bool :=
  match f.effect, f.job.entry.ins with
  | .step .., .mWld _ => true
  | _, _ => false
/-- Order of performing within one tick (R117, R141, R314): tile memory last, by engine; everything else by issue. DEDUCED: log 31. -/
def Flight.before (a b : Flight) : Bool :=
  match a.effect, b.effect with
  | .tile _, .tile _ => decide (a.job.q < b.job.q) || (a.job.q == b.job.q && decide (a.job.seq ≤ b.job.seq))
  | .tile _, _ => false
  | _, .tile _ => true
  | _, _ => decide (a.job.t < b.job.t) || (a.job.t == b.job.t && decide (a.job.seq ≤ b.job.seq))
/-- Flights of a core due at a tick that a test picks. -/
def Core.due (c : Core) (tick : Nat) (p : Flight → Bool) : List Flight := c.flights.filter fun f => f.tick == tick && p f && !c.parked f
/-- A late access in a timed phase of a strict rope (R90): fault 0x10, subcode 1. DESIGN CHOICE: log 23. -/
def State.lateFault (s : State) (core tick : Nat) (f : Flight) : State :=
  if (s.core core).parked f then s
  else s.suspendAt .write core f.job f.upc .none 0x10 1 (BitVec.ofNat 64 f.job.t) tick
/-- An access that met an uncorrected error in global memory (R228, R229): fault 0x0E, and it performs nowhere. -/
def State.badFault (s : State) (core tick : Nat) (f : Flight) : State :=
  if (s.core core).parked f then s else s.suspendAt .write core f.job f.upc .none 0x0E 0 (s.badAt f) tick
/-- What a flight finds on the link that it taps (R324, R380): nothing to wait for where it taps none. -/
def State.linkOf (s : State) (core tick : Nat) (f : Flight) : Tapped Unit :=
  match f.effect with
  | .tap row k .. => (match s.tapWest core f.job tick f.waited k (f.job.half row) with | .value _ n => .value () n | .wait => .wait)
  | .macCol row col _ _ _ _ _ true _ => (match s.tapNorth core f.job (tick - 1) f.waited col (f.job.half row) with | .value _ n => .value () n | .wait => .wait)
  | _ => .value () 0
/-- What keeps a flight that is due from being performed: nothing; an error that it met; data that is late in a timed phase of a strict rope (R90,
R380); or a wait of one tick, of a signal for what it releases (R150), or of a tap for its link (R380, log 76). -/
inductive Snag where
  | none | bad | late | signal | link
deriving DecidableEq, Repr
/-- The snag of a flight that is due. DEDUCED: log 76. -/
def State.snag (s : State) (core tick : Nat) (f : Flight) : Snag :=
  let link := s.linkOf core tick f
  if f.bad then .bad
  else if f.late then .late
  else if s.strict core && f.job.timed && link != .value () 0 then .late
  else if link == .wait then .link
  else if s.unreleased core f then .signal
  else .none
/-- A flight that may not be performed now faults, or comes again on the next tick. -/
def State.snagged (s : State) (core tick : Nat) (f : Flight) : Snag → State
  | .none => s
  | .bad => s.badFault core tick f
  | .late => s.lateFault core tick f
  | .signal => s.onFlight core f.id fun x => { x with tick := tick + 1 }
  | .link => (s.hold core .late tick (some 1) true).onFlight core f.id fun x => { x with tick := tick + 1, waited := x.waited + 1 }
/-- Every write of a core that is due performs (R140, R141); sticky clears of `m.clr` come last (R326). DEDUCED: log 31. -/
def State.performDue (s : State) (core tick : Nat) : State :=
  let all := (s.core core).due tick fun f => !f.effect.isStep && f.effect != .walk
  let now := (all.filter fun f => s.snag core tick f == .none).mergeSort Flight.before
  let old := s.core core
  let s1 := s.onCore core fun c => { c with flights := c.flights.filter fun f => !now.any fun g => g.id == f.id }
  let s2 := now.foldl (fun t f => t.perform core tick old f) s1
  let s3 := all.foldl (fun t f => t.snagged core tick f (s.snag core tick f)) s2
  now.foldl (fun s f => match f.effect with
    | .mrfClear b => s.onCore core fun c =>
        { c with mstatus := alter c.mstatus b fun _ => .none }.atBase f.job fun x => { x with mstatus := alter x.mstatus b fun _ => .none }
    | _ => s) s3

/-! ## Steps -/

/-- One step of an instance (R111), which may have waited for link data (R380). -/
def State.runStep (s : State) (core tick waited : Nat) (j : Job) (e : Effect) : State :=
  match e with
  | .macRow row sa0 sa1 => s.macRow core j row sa0 sa1
  | .tap row k codes second sa0 sa1 => s.tapRow core j tick waited row k codes second sa0 sa1
  | .index entry => s.getwTile core j tick entry
  | .step u carry =>
    if j.q = 1 then (match j.entry.ins with | .mWld _ => s.carderStep core j u tick | _ => s.mStep core j u tick carry)
    else s.lsStep core j u tick carry
  | _ => s
/-- Every step of a core that is due and that a test picks runs, in issue order. A step whose index entry or link data is late in a timed phase
faults (R90, R380). DEDUCED: log 31, log 70. -/
def State.stepsDue (s : State) (core tick : Nat) (p : Flight → Bool) : State :=
  let all := (s.core core).due tick fun f => f.effect.isStep && p f
  let run := (all.filter fun f => s.snag core tick f == .none).mergeSort fun a b =>
    decide (a.job.seq < b.job.seq) || (a.job.seq == b.job.seq && decide (a.upc ≤ b.upc))
  let s1 := s.onCore core fun c => { c with flights := c.flights.filter fun f => !run.any fun g => g.id == f.id }
  let s2 := run.foldl (fun s f => if ((s.core core).parked f) then s.keep core f else s.runStep core tick f.waited f.job f.effect) s1
  all.foldl (fun t f => t.snagged core tick f (s.snag core tick f)) s2

/-! ## Tokens -/

/-- The TOK field of an entry (R245, R258). DESIGN CHOICE: log 17. -/
def tokField (h : Hdr) : Nat :=
  (if h.giveUp then 8 else 0) + (if h.giveDown then 4 else 0) + (if h.takeUp then 2 else 0) + (if h.takeDown then 1 else 0)
/-- The counters that an entry of a queue takes from, and those it gives to (R91): 2q is q towards q+1, 2q+1 the way back. -/
def takesOf (q : Nat) (h : Hdr) : List Nat := (if h.takeUp then [2 * (q - 1)] else []) ++ (if h.takeDown then [2 * q + 1] else [])
def givesOf (q : Nat) (h : Hdr) : List Nat := (if h.giveUp then [2 * (q - 1) + 1] else []) ++ (if h.giveDown then [2 * q] else [])
/-- Change a token counter. -/
def Core.onToken (c : Core) (i : Nat) (f : Nat → Nat) : Core := { c with tokens := alter c.tokens i f }
/-- One take at T (R91): in an elastic rope, a missing token is a hold that lasts until the give. -/
def State.take (s : State) (core tick i : Nat) : State :=
  if 0 < (s.core core).tokens.getD i 0 then s.onCore core fun c => c.onToken i (· - 1)
  else s.hold core (.token i) tick none true
/-- Whether a take of a core waits for a token of a counter. -/
def Rope.waiting (r : Rope) (core i : Nat) : Bool := r.holds.any fun h => h.core == core && h.kind == .token i && h.left.isNone
/-- The oldest take that waits for a token of a counter has it: its hold lasts the ticks from the take until the token is
visible (R91, R96). -/
def Rope.meet (r : Rope) (core i tick : Nat) : Rope :=
  let rec go : List Hold → List Hold
    | [] => []
    | h :: t =>
      if h.core == core && h.kind == .token i && h.left.isNone then { h with left := some (max 1 (tick + 1 + r.hdly - h.due)) } :: t
      else h :: go t
  { r with holds := go r.holds }
/-- Whether a give finds 15 (R91): no take waits for it, and the counter is full after the takes of its tick. -/
def State.giveFull (s : State) (core i : Nat) : Bool :=
  (match s.ropeOf core with | some r => !r.waiting core i | none => true) && decide (15 ≤ (s.core core).tokens.getD i 0)
/-- One give at T (R91). -/
def State.give (s : State) (core tick i : Nat) : State :=
  match s.ropeOf core with
  | none => s
  | some r => if r.waiting core i then s.setRope (r.meet core i tick) else s.onCore core fun c => c.onToken i (· + 1)
/-- The gives of an instance, after every issue of the tick (R91). -/
def State.gives (s : State) (core tick : Nat) (j : Job) : State := (givesOf j.q (hdrOf j.entry.ins)).foldl (fun s i => s.give core tick i) s

/-! ## Issue -/

/-- How the engine instructions and events act: `exec`, which this file comes before. -/
abbrev Exec := Instr → State → Out
/-- The next state of an instruction of the engines, which has one. DESIGN CHOICE: log 69. -/
def Exec.run (ex : Exec) (i : Instr) (s : State) : State :=
  match ex i s with
  | .next t => t
  | _ => s
/-- The instance of an entry that issues at a tick, after its T by `lag` ticks (R336, R353, R380). -/
def Core.job (c : Core) (q : Nat) (e : Entry) (iter : Int) (tileStep tick lag : Nat) : Job :=
  { entry := e, q := q, t := tick, seq := c.seq, iter := iter, tileStep := tileStep, phase := (c.queue q).base.getD 0,
    reads := c.sets.getD q [], writes := c.sets.getD (4 + q) [], timed := c.timed.getD q false, arg := 0, lag := lag }
/-- An instance issues (R88, R91): its takes, its meaning, and then its gives at the end of the tick. In a strict rope a missing
token is fault 0x12, and so is a give that would find 15: `full` says so, before anything is done. DESIGN CHOICE: log 69. -/
def State.issueJob (ex : Exec) (s : State) (core tick : Nat) (full : Bool) (j : Job) : State × Option Job :=
  let h := hdrOf j.entry.ins
  let takes := takesOf j.q h
  let s1 := { s with cur := { core := core, rope := ((s.core core).rope.getD s.cur.rope), job := j } }
  if full ∨ (s.strict core ∧ takes.any (fun i => (s.core core).tokens.getD i 0 == 0)) then
    (s1.suspend core j 0 .none 0x12 0 (BitVec.ofNat 64 (tokField h)) tick, none)
  else
    let s2 := ex.run j.entry.ins s1
    if (((s2.core core).queue j.q).susp.any fun x => x.job.seq == j.seq) then (s2, none)
    else (takes.foldl (fun s i => s.take core tick i) s2, some j)
/-- Whether the engine that an instruction needs is free (R317, R338, R380). -/
def Core.free (c : Core) (q : Nat) (i : Instr) (tick : Nat) : Bool :=
  match i with
  | .mWld _ | .mWldr _ => decide (c.freeAt 2 ≤ tick)
  | .mMac _ | .mMacz _ | .mKat _ | .mWsw _ => decide (c.freeAt 3 ≤ tick)
  | .mOut _ => decide (c.freeAt 4 ≤ tick)
  | .mTov _ | .mFrv _ | .mClr _ | .mAdd _ | .mTr _ => decide (c.freeAt 5 ≤ tick)
  | _ => if q = 0 then decide (c.freeAt 0 ≤ tick) else if q = 3 then decide (c.freeAt 1 ≤ tick) else true
/-- The stage of a body entry and the iteration of its instance at a tick of a loop (R353). -/
def Loop.iteration (l : Loop) (c tick : Nat) : Int := (((tick - l.l0) / l.ii : Nat) : Int) - ((c / l.ii : Nat) : Int)
/-- The body entry whose instance falls on a tick, unless it is squashed (R353). -/
def Queue.instanceAt (q : Queue) (n : Nat) (l : Loop) (tick : Nat) : Option (Entry × Int) :=
  match (q.entries.takeWhile fun e => e.body.isSome).find? fun e => match e.body with | some c => c % l.ii == (tick - l.l0) % l.ii | none => false with
  | none => none
  | some e =>
    let j := l.iteration (e.body.getD 0) tick
    if n = 2 ∨ (0 ≤ j ∧ j < l.trip) then some (e, j) else none
/-- The first tick from a cursor up to now that has an instance. -/
def Queue.nextInstance (q : Queue) (n : Nat) (l : Loop) : Nat → Nat → Option (Nat × Entry × Int)
  | 0, _ => none
  | fuel + 1, t => match q.instanceAt n l t with
    | some x => some (t, x)
    | none => q.nextInstance n l fuel (t + 1)
/-- One tick of one queue (R88, R350 to R355, R380). `full`: the give of what issues now would find 15. DEDUCED: log 40. -/
def State.queueTick (ex : Exec) (full : Bool) (s : State) (core q tick : Nat) : State × Option Job :=
  let s0 := s.onCore core fun c => c.onQueue q Queue.endLoop
  let c := s0.core core
  let x := c.queue q
  if x.susp.isSome ∨ c.halted ∨ tick < x.stop then (s0, none)
  else match x.loop with
    | some l =>
      if tick < l.l0 then (s0, none)
      else match x.nextInstance q l (min (tick + 1) l.stop - l.cursor) l.cursor with
        | none => (s0.onCore core fun c => c.onQueue q fun x => { x with loop := some { l with cursor := min (tick + 1) l.stop }, lagging := false }, none)
        | some (t, e, j) =>
          if x.lagging ∧ !c.free q e.ins tick then (s0, none)
          else
            let job := c.job q e j ((j % (l.ring : Int)).toNat * l.step) tick (tick - t)
            let s1 := s0.onCore core fun c =>
              { (c.onQueue q fun x => { x with loop := some { l with cursor := t + 1 }, lagging := x.lagging && t != tick }) with
                seq := c.seq + 1, fetching := if q = 0 then c.fetching ++ [job] else c.fetching }
            s1.issueJob ex core tick full job
    | none => match x.entries with
      | [] => (s0, none)
      | e :: rest =>
        let due := x.dueT e
        let job := c.job q e 0 0 tick (tick - due)
        if x.wait ≠ .none ∨ tick < due then (s0, none)
        else if (yWord e.ins).isSome then
          let s1 := s0.onCore core fun c => { c with seq := c.seq + 1 }
          (ex.run e.ins { s1 with cur := { core := core, rope := (c.rope.getD s.cur.rope), job := job } }, none)
        else if x.lagging ∧ !c.free q e.ins tick then (s0, none)
        else
          let s1 := s0.onCore core fun c =>
            { (c.onQueue q fun x => { x with entries := rest, nextT := due + 1, issued := x.issued ++ [e], lagging := x.lagging && tick != due }) with
              seq := c.seq + 1, fetching := if q = 0 then c.fetching ++ [job] else c.fetching }
          s1.issueJob ex core tick full job

/-! ## Resumption -/

/-- A flight that stood with a suspended entry moves on with it (R209, R380): a read that met an error is made again now, and another access that
did faults again while its granule is poisoned. -/
def State.moveOn (s : State) (x : Suspended) (tick : Nat) (f : Flight) : Flight :=
  let d := tick - x.tick
  let j := { f.job with t := if x.again = .write then f.job.t else f.job.t + d, lag := f.job.lag + d }
  if f.bad && !f.reads.2.isEmpty then { f with tick := tick + 1, job := j }
  else { f with tick := f.tick + d, job := j, bad := f.bad && (match f.effect with
    | .signal _ pa .. => s.poisoned pa 8
    | .reduce _ _ _ adds => adds.any fun a => s.poisoned a.1 4
    | .global _ pa _ bytes => bytes.any fun b => s.poisoned (pa + b.1) 1
    | _ => false) }
/-- The suspended entry of a queue stands no more: what it had in flight moves on by the ticks that it stood, and so does its occupancy (R209, R380).
DEDUCED: log 40. -/
def State.unpark (s : State) (core q tick : Nat) (x : Suspended) : State :=
  let shift (b : Nat) : Nat := if x.tick < b then b + tick - x.tick else b
  let moved (f : Flight) : Flight := if f.job.q == q && (s.core core).parked f then s.moveOn x tick f else f
  s.onCore core fun c =>
    { (c.onQueue q fun y => { y with susp := none, lagging := true }) with
      flights := c.flights.map moved,
      busy := if q = 0 then alter c.busy 0 shift else if q = 3 then alter c.busy 1 shift else c.busy }
/-- The carder decodes again from the step that faulted (R198, R209). -/
def State.wakeCarder (s : State) (core : Nat) (j : Job) : State :=
  s.onCore core fun c => (({ c with carder := { c.carder with busy := true, issued := j.t } } : Core).occupy 2 (j.t + 264))
/-- What a suspended entry does again on the first tick after its trap hold, once the writes of the tick have performed (R144, R209, R380). The walks of an
`l.pref` whose tokens have gone start again (R339). DEDUCED: log 40. -/
def State.resumeStep (ex : Exec) (full : Bool) (s : State) (core q tick : Nat) (x : Suspended) : State × Option Job :=
  let d := tick - x.tick
  let j := { x.job with t := if x.upc = 0 then tick else x.job.t + d, lag := x.job.lag + d }
  match x.again with
  | .write =>
    (((s.core core).flights.filter fun f => f.job.seq == x.job.seq && f.bad && !f.reads.2.isEmpty).foldl (fun s f => s.redo core tick f) s, none)
  | a =>
    if (yWord j.entry.ins).isSome then (s, none)
    else if x.upc = 0 then
      let s1 := if a = .row then s.onCore core fun c => { c with busy := alter c.busy (if q = 0 then 0 else 1) fun _ => 0 } else s
      (match j.entry.ins with
       | .mKat _ => (s1, none)
       | .lPref _ => if a = .row then (s.flyFrom core j 0 tick true .walk, none) else s1.issueJob ex core tick full j
       | _ => s1.issueJob ex core tick full j)
    else
      let s1 := match j.entry.ins with | .mWld _ => s.wakeCarder core j | _ => s
      (s1.runStep core tick 0 j (.step x.upc x.carry), none)
/-- Whether a resumption takes the queue's tick: nothing else of the queue issues on it (R380). -/
def Suspended.takesTick (x : Suspended) : Bool := x.again != .write && (yWord x.job.entry.ins).isNone

/-! ## The issues of a tick -/

/-- Every queue of some cores takes its tick: what was suspended goes on first, and nothing else issues in that queue. `bad`: the queues whose give
would find 15. -/
def State.issueAll (ex : Exec) (s : State) (cores : List Nat) (back : List (Nat × Nat × Suspended)) (tick : Nat) (bad : List (Nat × Nat)) :
    State × List (Nat × Job) :=
  (cores.flatMap fun c => (List.range 4).map fun q => (c, q)).foldl (fun (a : State × List (Nat × Job)) k =>
    let full := bad.contains k
    let mine := back.find? fun x => x.1 == k.1 && x.2.1 == k.2
    let b := match mine with
      | some x =>
        if x.2.2.takesTick then a.1.resumeStep ex full k.1 k.2 tick x.2.2
        else (a.1.resumeStep ex full k.1 k.2 tick x.2.2).1.queueTick ex full k.1 k.2 tick
      | none => a.1.queueTick ex full k.1 k.2 tick
    (b.1, a.2 ++ (b.2.map fun j => (k.1, j)).toList)) (s, [])
/-- The queues whose instance would give to a full counter (R91). -/
def State.fullGives (s : State) (js : List (Nat × Job)) : List (Nat × Nat) :=
  (js.filter fun x => (givesOf x.2.q (hdrOf x.2.entry.ins)).any (s.giveFull x.1)).map fun x => (x.1, x.2.q)
/-- The issues of a tick (R91): an instance whose give finds 15, after the takes of the tick, faults before it has done anything. -/
def State.issues (ex : Exec) (s : State) (cores : List Nat) (back : List (Nat × Nat × Suspended)) (tick : Nat) :
    Nat → List (Nat × Nat) → State × List (Nat × Job)
  | 0, bad => s.issueAll ex cores back tick bad
  | n + 1, bad =>
    let a := s.issueAll ex cores back tick bad
    let found := a.1.fullGives a.2
    if found.isEmpty then a else s.issues ex cores back tick n (bad ++ found)

/-! ## Conflicts -/

/-- The cores of a core's cluster whose rope has run a tick on this nominal tick: their accesses reach its banks together (R125). -/
def State.atBanks (s : State) (core : Nat) : List Nat :=
  (s.cores.map (·.1)).filter fun c => clusterOf c == clusterOf core && (s.core c).portTime == s.gtc
/-- Accesses of a core to a bank of its cluster store on this tick. -/
def Core.atBank (c : Core) (b : Nat) : Nat := (c.ports.filter fun p => p.1 == 5 && p.2 == b).length
/-- The ticks that a core's cluster-store accesses wait (R125): its port takes one after the other, and on its bank each waits for the accesses of
lower cores. In which order the port takes those of one tick is not given. DESIGN CHOICE: log 19. -/
def State.gatherWait (s : State) (core : Nat) : Nat :=
  let before (b : Nat) : Nat := (((s.atBanks core).filter fun c => decide (clusterIndex c < clusterIndex core)).map fun c => (s.core c).atBank b).sum
  (((s.core core).ports.filter fun p => p.1 == 5).foldl (fun (w : Nat) p => max w (before p.2) + 1) 0) - 1
/-- The gather conflict of a core at a tick lasts n ticks (R96, R125): one that it has there already takes that length. -/
def Rope.gather (r : Rope) (core tick n : Nat) : Rope :=
  let mine (h : Hold) : Bool := h.core == core && h.kind == .gather && h.due == tick + r.hdly
  if r.holds.any mine then { r with holds := r.holds.map fun h => if mine h then { h with left := some n } else h }
  else if n = 0 then r else r.raise core .gather tick (some n) true
/-- Every core of a cluster waits for the accesses that its banks serve before its own (R125), also one of a rope whose tick came first on this nominal
tick. -/
def State.gathers (s : State) (core : Nat) : State :=
  ((s.atBanks core).filter fun c => decide (clusterIndex core ≤ clusterIndex c)).foldl (fun s c => match s.ropeOf c with
    | some r => s.setRope (r.gather c (if c = core ∨ (s.core c).rope = (s.core core).rope then r.rtick else r.rtick - 1) (s.gatherWait c))
    | none => s) s
/-- The holds that the accesses of a core raise on a tick (R119, R122, R125). -/
def State.conflicts (ex : Exec) (s : State) (core tick : Nat) : State :=
  let c := s.core core
  let extra := c.portExtra
  let s1 := if 0 < extra then s.hold core .conflict tick (some extra) true else s
  let s2 := s1.gathers core
  ex.run .evVrfRefresh { s2 with cur := { s2.cur with core := core } }

end Sys2Proof.Machine
end

