-- ==== Sys2Proof/Machine/Digest.lean ====
section
/-! DEFINITION. SHA-384 (FIPS 180-4), which R70 to R75 and R219 name without giving it (log 20). -/
namespace Sys2Proof.Machine

/-- The first 64 bits of the fractional part of the k-th root of p. -/
def rootFrac (k p : Nat) : Nat :=
  (List.range 72).foldl (fun r i => let t := r + 2 ^ (71 - i); if t ^ k ≤ p * 2 ^ (64 * k) then t else r) 0 % 2 ^ 64
/-- The first 80 primes. -/
def primes80 : List Nat := ((List.range 410).drop 2).filter fun n => ((List.range n).drop 2).all fun d => n % d != 0
/-- The 80 round constants: cube roots of the first 80 primes. -/
def shaK : List Word := primes80.map fun p => BitVec.ofNat 64 (rootFrac 3 p)
/-- The initial hash value of SHA-384: square roots of the 9th to 16th primes. -/
def shaInit : List Word := ((primes80.drop 8).take 8).map fun p => BitVec.ofNat 64 (rootFrac 2 p)
/-- The message schedule of one block of sixteen words. -/
def shaSchedule (block : List Word) : List Word :=
  let s0 (x : Word) : Word := x.rotateRight 1 ^^^ x.rotateRight 8 ^^^ x >>> 7
  let s1 (x : Word) : Word := x.rotateRight 19 ^^^ x.rotateRight 61 ^^^ x >>> 6
  -- the newest word first: W(t) needs W(t-2), W(t-7), W(t-15), W(t-16)
  ((List.range 64).foldl (fun (w : List Word) _ =>
    (s1 (w.getD 1 0) + w.getD 6 0 + s0 (w.getD 14 0) + w.getD 15 0) :: w) block.reverse).reverse
/-- One round, over the eight working words. -/
def shaRound (v : List Word) (kw : Word × Word) : List Word :=
  match v with
  | [a, b, c, d, e, f, g, h] =>
    let t1 := h + (e.rotateRight 14 ^^^ e.rotateRight 18 ^^^ e.rotateRight 41) + ((e &&& f) ^^^ (~~~e &&& g)) + kw.1 + kw.2
    let t2 := (a.rotateRight 28 ^^^ a.rotateRight 34 ^^^ a.rotateRight 39) + ((a &&& b) ^^^ (a &&& c) ^^^ (b &&& c))
    [t1 + t2, a, b, c, d + t1, e, f, g]
  | _ => v
/-- A big-endian word from eight bytes. -/
def beWord (bs : List Byte) : Word := BitVec.ofNat 64 (bs.foldl (fun n b => n * 256 + b.toNat) 0)
/-- The blocks of sixteen words. -/
def shaBlocks : Nat → List Byte → List (List Word)
  | 0, _ => []
  | n + 1, bs => ((List.range 16).map fun i => beWord ((bs.drop (8 * i)).take 8)) :: shaBlocks n (bs.drop 128)
/-- The 48 bytes of the SHA-384 digest. PRESUMED: log 20. -/
def sha384 (msg : List Byte) : List Byte :=
  let zeros := (239 - msg.length % 128) % 128
  let padded := msg ++ [0x80] ++ List.replicate zeros 0 ++ (leBytes 16 (8 * msg.length)).reverse
  let h := (shaBlocks (padded.length / 128) padded).foldl (fun h block =>
    let v := (shaK.zip (shaSchedule block)).foldl shaRound h
    (h.zip v).map fun x => x.1 + x.2) shaInit
  (h.take 6).flatMap fun w => (leBytes 8 w.toNat).reverse

end Sys2Proof.Machine
end

