-- ==== Sys2Proof/Machine/Image.lean ====
section
/-! DEFINITION. Scan images (R201, R219 to R223, R225): their bytes from the state of frozen cores, their checks, and the state of
cores from their bytes. -/
namespace Sys2Proof.Machine

/-! ## Layout -/

/-- Sizes of the ten segments (R220). -/
def segSize (i : Nat) : Nat := [0x400, 0x2000, 0xC000, 0x20000, 0x10800, 0x2000, 0x100000, 0x61000, 0x10000, 0x400].getD i 0
/-- The segments of a mask, ascending. -/
def maskSegs (m : BitVec 10) : List Nat := (List.range 10).filter m.getLsbD
/-- Length of a core record (R219). -/
def recordLen (m : BitVec 10) : Nat := ((maskSegs m).map segSize).sum
/-- Offset of a present segment in a core record (R219). -/
def segOffset (m : BitVec 10) (i : Nat) : Nat := (((maskSegs m).filter fun k => decide (k < i)).map segSize).sum
/-- Cells p, p+1, … of a sorted store whose unlisted cells hold zero. -/
def dense {n : Nat} : List (Nat × BitVec n) → Nat → Nat → List (BitVec n)
  | [], _, k => List.replicate k 0
  | (a, v) :: r, p, k =>
    if a < p then dense r p k
    else if p + k ≤ a then List.replicate k 0
    else List.replicate (a - p) 0 ++ v :: dense r (a + 1) (p + k - a - 1)
/-- Words as bytes. -/
def wordBytes (ws : List Word) : List Byte := ws.flatMap fun w => leBytes 8 w.toNat
/-- Zero bytes. -/
def zeros (n : Nat) : List Byte := List.replicate n 0
/-- Bytes of a coded region (R221): capture number, position of the core, region, offset and length. DESIGN CHOICE: log 42. -/
def codedBytes (id k region off n : Nat) : List Byte := (List.range n).map fun i => Config.codedByte id k region (off + i)

/-! ## Segments of one core -/

/-- The pending-debug word (R221, R227). -/
def Core.debugWord (c : Core) : Nat :=
  match c.dbgEvent with
  | none => 0
  | some (kind, a) => 1 + (if kind then 2 else 0) + a.toNat * 8
/-- The special registers of CTL, in order (R221). DEDUCED: log 43. -/
def Core.ctlWords (c : Core) : List Word :=
  [c.lvl, c.holdc, c.stallc, c.katc, c.dom1, c.dom2, c.dom3, c.dom4, c.tvec, c.tcause, c.tpc, c.tval, c.tinfo, c.tsave, c.scom,
   c.shbase, c.shlim, c.dbgc, c.dbga]
/-- CTL, with the pc that the image is to carry (R221, R225). -/
def Core.ctlBytes (c : Core) (pc : Word) : List Byte :=
  wordBytes (c.s.set 0 0 (by decide)).toList ++ wordBytes c.b.toList ++ leBytes 8 pc.toNat ++ zeros 8 ++ leBytes 8 c.debugWord ++ zeros 0x28
    ++ wordBytes c.ctlWords ++ zeros 0x1E8
/-- The ticks for which an M instruction occupies its path (R317), under its format word. -/
def occupied (f : Word) : Instr → Nat
  | .mWld _ => 264
  | .mWldr _ | .mOut _ => 65
  | .mMac _ | .mMacz _ | .mKat _ => driveTicks f
  | .mTr _ => 64
  | .mAdd o => if o.dir = 3 then 64 else 1
  | _ => 1
/-- The micro-PC at which an engine stands before tick z: of the suspended entry, else of its newest instruction under way, which is at its next
step (R111); an M instruction but `m.wld` has one step a tick (R195, R317). With none under way it reads 0: what stands there then is not given.
DESIGN CHOICE: log 43. -/
def Core.microPc (c : Core) (q z : Nat) : Nat :=
  match (c.queue q).susp with
  | some x => x.upc
  | none =>
    let mine := c.flights.filter fun f => f.job.q == q
    let newest := mine.filter fun f => f.job.seq == (mine.map (·.job.seq)).foldl max 0
    let ahead := (newest.filter (·.effect.isStep)).map (·.upc)
    match newest with
    | [] => 0
    | f :: _ =>
      let wld : Bool := match f.job.entry.ins with | .mWld _ => true | _ => false
      if q = 1 ∧ !wld then min (z - f.job.t) (occupied f.job.entry.fmt f.job.entry.ins - 1)
      else match ahead.min? with
        | some u => u
        | none => (newest.map (·.upc)).foldl max 0
/-- The slot of the head of a queue. -/
def Queue.headSlot (q : Queue) : Nat :=
  match q.susp, q.entries.head? with
  | some x, _ => x.job.entry.slot
  | none, some e => e.slot
  | none, none => q.slot
/-- The scheduled tick of the head of a queue; what stands there for an empty queue is not given. DEDUCED: log 43. -/
def Queue.headTick (q : Queue) (open_ : List Byte) : List Byte :=
  match q.susp, q.entries.head? with
  | some x, _ => leBytes 8 x.job.t
  | none, some e => leBytes 8 (q.dueT e)
  | none, none => open_
/-- ENG (R151, R221), of a rope with an allocation number. -/
def Core.engBytes (c : Core) (id k z alloc : Nat) : List Byte :=
  let sig := (c.signals.take 192).map fun x => BitVec.ofNat 64 (x.1 % 2 ^ 16 * 2 ^ 48 + alloc % 2 ^ 16 * 2 ^ 32 + x.2 % 2 ^ 32)
  codedBytes id k 1 0 0x1800
    ++ (List.range 4).flatMap (fun q => [BitVec.ofNat 8 (min 64 (c.queue q).load), BitVec.ofNat 8 (c.queue q).headSlot])
    ++ (List.range 4).flatMap (fun q => leBytes 2 (c.microPc q z))
    ++ (List.range 4).flatMap (fun q => (c.queue q).headTick (codedBytes id k 1 (0x1810 + 8 * q) 8))
    ++ c.tokens.map (BitVec.ofNat 8) ++ [BitVec.ofNat 8 c.fmtq.length, BitVec.ofNat 8 c.vrb.toNat] ++ zeros 8
    ++ wordBytes (c.fmtq.take 16) ++ zeros (8 * (16 - c.fmtq.length))
    ++ wordBytes (c.mstatus.map (·.word)) ++ leBytes 8 c.vstatus.word.toNat ++ zeros 8
    ++ codedBytes id k 1 0x1910 0x40 ++ zeros 0xB0 ++ wordBytes sig ++ zeros (8 * (192 - sig.length))
/-- The A-stream register at PE(k, n) before tick z, unless nothing fixes it (R113). -/
def Core.streamAt (c : Core) (z k n : Nat) : Option (BitVec 16) :=
  match c.stream.find? fun a => a.1 + n + 1 == z && a.2.1 == k with
  | some a => some a.2.2
  | none => if !c.used.2.2 && c.stream.all (fun a => decide (z < a.1 + n + 1)) then some 0 else none
/-- ARR (R221): planes, A streams, scale stores, and the coded rest. -/
def Core.arrBytes (c : Core) (id k z : Nat) : List Byte :=
  let half (x : BitVec 16) : List Byte := leBytes 2 x.toNat
  (dense (c.plane c.active) 0 4096).flatMap half ++ (dense (c.plane (!c.active)) 0 4096).flatMap half
    ++ (List.range 4096).flatMap (fun p => match c.streamAt z (p / 64) (p % 64) with
        | some x => half x
        | none => codedBytes id k 2 (0x4000 + 2 * p) 2)
    ++ dense (c.scaleStore c.active) 0 128 ++ dense (c.scaleStore (!c.active)) 0 128 ++ codedBytes id k 2 0x6100 0x5F00
/-- VRF (R221). -/
def Core.vrfBytes (c : Core) (id k z : Nat) : List Byte :=
  (dense c.vrf 0 16384).flatMap (fun x => leBytes 4 x.toNat) ++ wordBytes ((List.range 16).map c.predStore)
    ++ [BitVec.ofNat 8 (z % 128)] ++ zeros 0x7F ++ codedBytes id k 4 0x10100 0x700
/-- BATT (R201). From the last decode step to the end of the decode, for which no step is next, it reads segment 3 and step 63. DESIGN CHOICE: log 43. -/
def Core.battBytes (c : Core) : List Byte :=
  let r := c.carder
  dense c.batt 0 0x60000 ++ (List.range 4).flatMap (fun i => (c.codebooks.getD i .empty).freq.flatMap (leBytes 2 ·))
    ++ r.lanes.flatMap (leBytes 4 ·) ++ [BitVec.ofNat 8 ((if r.busy then 1 else 0) + r.slot % 4 * 2), BitVec.ofNat 8 (min 3 r.seg),
      BitVec.ofNat 8 (if 3 < r.seg then 63 else r.step), 0] ++ leBytes 4 r.pos ++ leBytes 2 r.unit ++ zeros 2 ++ leBytes 4 r.total ++ leBytes 8 r.issued
    ++ (match r.restart with | some (g, p) => leBytes 4 (g + min 63 p * 256 + 65536) | none => zeros 4) ++ zeros 4
    ++ (List.range 4).flatMap (fun i => let b := c.codebooks.getD i .empty; leBytes 4 (b.sum + (if b.loaded then 2 ^ 31 else 0)))
    ++ zeros 0x790
/-- Whether a core's east or south link has latency 1 inside its rope (R114, R222). -/
def State.nearLink (s : State) (core : Nat) (south : Bool) : Option Nat :=
  match s.neighbour core south with
  | some (n, 1) => some n
  | _ => none
/-- The codes that stand in one east-link register before a tick: at rate 2 two A rows share it, the second in its high byte (R221, R324: how is not
given). DESIGN CHOICE: log 42. -/
def packCodes (as : List LinkCode) : Nat := (as.map fun a => if as.length < 2 then a.code.toNat else a.code.toNat % 2 ^ 8 * 2 ^ (8 * a.half)).sum
/-- LNK (R221, R367): the core's own east and south links of latency 1 within the rope; every other byte is zero. -/
def State.lnkBytes (s : State) (core id k z : Nat) : List Byte :=
  (match s.nearLink core false with
   | none => zeros 0x80
   | some _ =>
     let c := s.core core
     (List.range 64).flatMap fun row => match c.east.filter fun a => a.tick == z && a.row == row with
       | a :: as => leBytes 2 (packCodes (a :: as))
       | [] => if !c.used.1 && c.east.all (fun a => decide (z < a.tick)) then zeros 2 else codedBytes id k 9 (2 * row) 2)
    ++ (match s.nearLink core true with | none => zeros 0x180 | some _ => codedBytes id k 9 0x80 0x180) ++ zeros 0x200
/-- One segment of a core (R220): its coreid, position, capture number, the pc its image carries and the capture tick. -/
def State.segBytes (s : State) (core k id : Nat) (pc : Word) (z seg : Nat) : List Byte :=
  let c := s.core core
  if seg = 0 then c.ctlBytes pc
  else if seg = 1 then c.engBytes id k z (match s.ropeOf core with | some r => r.alloc.toNat | none => 0)
  else if seg = 2 then c.arrBytes id k z
  else if seg = 3 then (dense c.mrf 0 32768).flatMap fun x => leBytes 4 x.toNat
  else if seg = 4 then c.vrfBytes id k z
  else if seg = 5 then dense c.spill 0 0x2000
  else if seg = 6 then dense c.tile 0 0x100000
  else if seg = 7 then c.battBytes
  else if seg = 8 then dense c.im 0 0x10000
  else s.lnkBytes core id k z

/-! ## The whole image -/

/-- The links that cross a ridge or die with both ends in the rectangle, in the order of R222: sender's position, sender, south, latency. -/
def State.crossLinks (s : State) (cores : List Nat) : List (Nat × Nat × Bool × Nat) :=
  (cores.mapIdx fun k c => [(k, c, false), (k, c, true)]).flatten.filterMap fun x =>
    match s.neighbour x.2.1 x.2.2 with
    | some (n, l) => if l ≠ 1 ∧ cores.contains n then some (x.1, x.2.1, x.2.2, l) else none
    | none => none
/-- A crossing record (R222). -/
def crossBytes (origin id : Nat) (x : Nat × Nat × Bool × Nat) : List Byte :=
  let n := 8 + 512 * x.2.2.2
  leBytes 8 ((gridX x.2.1 - gridX origin) + (gridY x.2.1 - gridY origin) * 2 ^ 8 + (if x.2.2.1 then 2 ^ 16 else 0) + x.2.2.2 * 2 ^ 24)
    ++ codedBytes id x.1 (if x.2.2.1 then 11 else 10) 0 (512 * x.2.2.2) ++ zeros ((64 - n % 64) % 64)
/-- The rope of the first core of a rectangle. -/
def State.ropeAt (s : State) (cores : List Nat) : Option Rope := match cores with | c :: _ => s.ropeOf c | [] => none
/-- The image of the cores of a rectangle (R219), with the pc that each is to carry. -/
def State.image (s : State) (origin w h : Nat) (mask : BitVec 10) (id : Nat) (yielded : Bool) (pc : Nat → Word) : List Byte :=
  let cores := rectCores origin w h
  let r := s.ropeAt cores
  let z := match r with | some r => r.captured | none => 0
  let links := if mask.getLsbD 9 then s.crossLinks cores else []
  let body := (cores.mapIdx fun k c => (maskSegs mask).flatMap fun g => s.segBytes c k id (pc c) z g).flatten
    ++ links.flatMap (crossBytes origin id)
  let world := match r with | some r => r.key.world | none => 0
  let flags := (match r with | some r => (if r.strict then 1 else 0) + (if r.hdly = 64 then 2 else 0) | none => 0) + (if yielded then 4 else 0)
  leBytes 4 0x4E414353 ++ leBytes 2 1 ++ leBytes 2 cores.length ++ leBytes 4 (origin + w * 2 ^ 16 + h * 2 ^ 24) ++ leBytes 2 mask.toNat
    ++ leBytes 1 flags ++ zeros 1 ++ leBytes 8 z ++ leBytes 8 s.gtc.toNat ++ leBytes 1 world ++ leBytes 3 (s.gen world).toNat ++ zeros 4
    ++ leBytes 8 body.length ++ leBytes 4 (recordLen mask) ++ leBytes 4 links.length ++ zeros 8
    ++ (List.range 10).flatMap (fun i => leBytes 4 (if mask.getLsbD i then segOffset mask i else 0xFFFFFFFF)) ++ zeros 152
    ++ body ++ sha384 body
/-- Remember what the coded regions of an image stand for (R221). -/
def State.capture (s : State) (origin w h : Nat) : State :=
  let cores := rectCores origin w h
  let r := s.ropeAt cores
  let c : Capture := { id := s.serial, cores := cores.map fun c => (c, s.core c), gtc := s.gtc,
                       rtick := match r with | some r => r.captured | none => 0, holds := match r with | some r => r.holds | none => [] }
  { s with serial := s.serial + 1, captures := s.captures ++ [c] }

/-! ## Checks of an image -/

/-- A field of bytes, little-endian. -/
def field (bs : List Byte) (a n : Nat) : Nat := leNat ((bs.drop a).take n)
/-- Die edges inside a rectangle's side, as offsets (R223). -/
def dieEdges (x n : Nat) : List Nat := ((List.range n).drop 1).filter fun i => (x + i) % 16 == 0
/-- Whether a captured rectangle word, with its zero fields (R211), is congruent with a named rectangle (R223). -/
def congruent (word origin w h : Nat) : Bool :=
  let o := word % 2 ^ 10
  word / 2 ^ 10 % 2 ^ 6 == 0 && word / 2 ^ 22 % 4 == 0 && word / 2 ^ 30 == 0 && word / 2 ^ 16 % 2 ^ 6 == w && word / 2 ^ 24 % 2 ^ 6 == h && gridX o % 4 == gridX origin % 4 && gridY o % 4 == gridY origin % 4
    && dieEdges (gridX o) w == dieEdges (gridX origin) w && dieEdges (gridY o) h == dieEdges (gridY origin) h
/-- The header check (R217): the offset of the first failing field. `yield` admits a yield image (R225). -/
def State.headerFails (s : State) (hd : List Byte) (mask : BitVec 10) (origin w h world : Nat) (yield : Bool) : Option Nat :=
  let f := field hd
  let r := s.ropeAt (rectCores origin w h)
  let flags := f 14 1
  let same := match r with | some r => flags % 2 == (if r.strict then 1 else 0) && flags / 2 % 2 == (if r.hdly = 64 then 1 else 0) | none => false
  let checks : List (Nat × Bool) :=
    [(0, f 0 4 == 0x4E414353), (4, f 4 2 == 1), (14, decide (flags < 8)), (15, f 15 1 == 0), (36, f 36 4 == 0), (56, f 56 8 == 0),
     (104, (hd.drop 104).all (· == 0)), (32, f 32 1 == world), (33, f 33 3 == (s.gen world).toNat),
     (12, (BitVec.ofNat 10 (f 12 2) &&& mask) == mask && decide (f 12 2 < 1024)), (8, congruent (f 8 4) origin w h), (14, same),
     (14, yield || flags / 4 % 2 == 0)]
  (checks.find? fun x => !x.2).map (·.1)
/-- The first nonzero byte of ranges that must be zero. -/
def nonzeroIn (bs : List Byte) (ranges : List (Nat × Nat)) : Option Nat :=
  (ranges.find? fun r => ((bs.drop r.1).take r.2).any (· != 0)).map (·.1)
/-- The check of one segment as it shifts in (R201, R220, R221): the offset of its first failing field. -/
def segFails (seg : Nat) (bs : List Byte) : Option Nat :=
  let f := field bs
  if seg = 0 then
    match nonzeroIn bs [(0, 8), (0x148, 8)] with
    | some x => some x
    | none => if f 0x150 8 / 4 % 2 ≠ 0 ∨ f 0x150 8 / 2 ^ 19 ≠ 0 then some 0x150 else nonzeroIn bs [(0x158, 0x28), (0x218, 0x1E8)]
  else if seg = 1 then
    let n := f 0x1836 1
    if 16 < n then some 0x1836 else nonzeroIn bs [(0x1838, 8), (0x1840 + 8 * n, 8 * (16 - n)), (0x1908, 8), (0x1950, 0xB0)]
  else if seg = 4 then nonzeroIn bs [(0x10081, 0x7F)]
  else if seg = 7 then
    let sums := (List.range 4).find? fun i =>
      let x := f (0x60860 + 4 * i) 4
      x / 2 ^ 25 % 2 ^ 6 != 0 || x % 2 ^ 25 != ((List.range 256).map fun j => f (0x60000 + 512 * i + 2 * j) 2).sum
    if f 0x60840 1 / 8 ≠ 0 then some 0x60840
    else match nonzeroIn bs [(0x60843, 1), (0x6084A, 2), (0x6085C, 4)] with
      | some x => some x
      | none => match sums with
        | some i => some (0x60860 + 4 * i)
        | none => nonzeroIn bs [(0x60870, 0x790)]
  else if seg = 9 then nonzeroIn bs [(0x200, 0x200)]
  else none

/-! ## Restoring one core -/

/-- The clear of R61 for a core that images restore: everything but its control registers. -/
def Core.wiped (c : Core) : Core :=
  { c.dropEngines with
    fmtq := [], planes := ([], []), planeScales := ([], []), stream := [], east := [], south := [], used := (false, false, false),
    carder := .idle, codebooks := List.replicate 4 .empty, batt := [], tile := [], mrf := [], vrf := [], preds := Vector.replicate 16 0,
    spill := [], im := [], tlb := [], segments := 0, scanTicks := [], scan := none }
/-- Consecutive values as a canonical store. -/
def sparse {n : Nat} (vs : List (BitVec n)) : List (Nat × BitVec n) := (cellsAt 0 vs).filter fun c => c.2 != 0
/-- Words of a segment. -/
def wordAt (bs : List Byte) (a : Nat) : Word := BitVec.ofNat 64 (field bs a 8)
/-- CTL shifts in (R221). DEDUCED: log 43. -/
def Core.setCtl (c : Core) (bs : List Byte) : Core :=
  let w (i : Nat) : Word := wordAt bs (0x180 + 8 * i)
  let d := field bs 0x150 8
  let domBits : Word := 0x8000FFFFFFFFFFFF
  { c with s := Vector.ofFn fun i => wordAt bs (8 * i.val), b := Vector.ofFn fun i => wordAt bs (0x100 + 8 * i.val), pc := wordAt bs 0x140,
           dbgEvent := if d % 2 = 1 then some (d / 2 % 2 == 1, BitVec.ofNat 13 (d / 8)) else none,
           level := (w 0).truncate 2, prev := (w 0 >>> 4).truncate 2, handler := (w 0).getLsbD 8, holdc := w 1, stallc := w 2, katc := w 3,
           dom1 := w 4 &&& domBits, dom2 := w 5 &&& domBits, dom3 := w 6 &&& domBits, dom4 := w 7 &&& domBits, tvec := w 8 &&& 0xFFF9,
           tcause := w 9 &&& 0xFFFF, tpc := w 10, tval := w 11, tinfo := w 12 &&& 0xFFFFFFFFFFFF3F07, tsave := w 13, scom := w 14,
           shbase := w 15 &&& 0xFFFFFFFFFFFFFFC0, shlim := w 16 &&& 0xFFFF, dbgc := w 17 &&& 3, dbga := w 18 &&& 0xFFF8, wfe := none }
/-- Which coded region a flight of an engine belongs to: the array's, the vector pipeline's, or the queues' (R221). -/
def Flight.region (f : Flight) : Nat :=
  match f.effect with
  | .macRow .. | .macCol .. | .tap .. => 2
  | _ => if f.job.q = 2 then 4 else 1
/-- The flights of a region come from a capture. -/
def Core.takeFlights (c x : Core) (region : Nat) : Core :=
  { c with flights := (c.flights.filter fun f => f.region != region) ++ x.flights.filter fun f => f.region == region }
/-- ENG shifts in (R221), with the queues of the capture that its coded region names. -/
def Core.setEng (c x : Core) (bs : List Byte) : Core :=
  let c1 : Core := { c with
    queues := x.queues, busy := x.busy, sets := x.sets, timed := x.timed, starts := x.starts, yields := x.yields, yieldPcs := x.yieldPcs,
    seq := x.seq, fetched := x.fetched, fetching := x.fetching, replayable := false, restart := none, bars := x.bars, pending := x.pending,
    halted := x.halted, stopped := x.stopped, lacked := x.lacked, haltIn := x.haltIn, wrote := [], opens := [], brkHit := x.brkHit, accesses := [], wfe := none,
    tokens := (List.range 6).map fun i => field bs (0x1830 + i) 1, fmtq := (List.range (field bs 0x1836 1)).map fun i => wordAt bs (0x1840 + 8 * i),
    vrb := BitVec.ofNat 6 (field bs 0x1837 1), mstatus := (List.range 8).map fun i => Status.ofWord (field bs (0x18C0 + 8 * i) 8),
    vstatus := Status.ofWord (field bs 0x1900 8),
    signals := ((List.range 192).filterMap fun i =>
      let n := field bs (0x1A00 + 8 * i) 8
      if n = 0 then none else some (n / 2 ^ 48, n % 2 ^ 32)).foldl (fun m e => insert m e.1 e.2) [] }
  c1.takeFlights x 1
/-- ARR shifts in at capture tick z (R113, R221): with the array comes what is on its way to the east link, and the A scales on their way. DEDUCED: log 43. -/
def Core.setArr (c x : Core) (z : Nat) (bs : List Byte) : Core :=
  let halves (a : Nat) : List (Nat × BitVec 16) := sparse ((List.range 4096).map fun i => BitVec.ofNat 16 (field bs (a + 2 * i) 2))
  let scales (a : Nat) : List (Nat × Byte) := sparse ((bs.drop a).take 128)
  let act := halves 0
  let sh := halves 0x2000
  let sa := scales 0x6000
  let ss := scales 0x6080
  let c1 : Core := { c with active := x.active, planeUse := x.planeUse, stream := x.stream, east := x.east.filter fun a => decide (z ≤ a.tick),
                            used := (x.used.1 || x.east.any (fun a => decide (a.tick < z)), c.used.2.1, x.used.2.2),
                            planes := if x.active then (sh, act) else (act, sh), planeScales := if x.active then (ss, sa) else (sa, ss) }
  c1.takeFlights x 2
/-- VRF shifts in (R221). -/
def Core.setVrf (c x : Core) (bs : List Byte) : Core :=
  let c1 : Core := { c with vrf := sparse ((List.range 16384).map fun i => BitVec.ofNat 32 (field bs (4 * i) 4)),
                            preds := Vector.ofFn fun i => if i.val = 0 then 0 else wordAt bs (0x10000 + 8 * i.val) }
  c1.takeFlights x 4
/-- BATT shifts in (R201). -/
def Core.setBatt (c : Core) (bs : List Byte) : Core :=
  let f := field bs
  let r := f 0x60858 4
  let book (i : Nat) : Codebook :=
    let freq := (List.range 256).map fun j => f (0x60000 + 512 * i + 2 * j) 2
    { loaded := f (0x60860 + 4 * i) 4 / 2 ^ 31 == 1, freq := freq, sum := freq.sum }
  { c with batt := sparse (bs.take 0x60000), codebooks := (List.range 4).map book,
           carder := { busy := f 0x60840 1 % 2 == 1, slot := f 0x60840 1 / 2 % 4, seg := f 0x60841 1, step := f 0x60842 1,
                       pos := f 0x60844 4, unit := f 0x60848 2, total := f 0x6084C 4, issued := f 0x60850 8,
                       lanes := (List.range 16).map fun l => f (0x60800 + 4 * l) 4,
                       dead := false,
                       restart := if r / 65536 % 2 = 1 then some (r % 256, r / 256 % 256) else none } }
/-- LNK shifts in (R221, R367): the registers of the core's own links of latency 1, east and south, as they stood at capture tick z; a cut link
stays so. What else is on its way east came with ARR. -/
def Core.setLnk (c x : Core) (east south : Bool) (z : Nat) (bs : List Byte) : Core :=
  let at_ (row : Nat) : List LinkCode :=
    let n := field bs (2 * row) 2
    match c.east.filter fun a => a.tick == z && a.row == row with
    | [] => [{ tick := z, nominal := z, row := row, half := 0, code := BitVec.ofNat 16 n, sa0 := 127, sa1 := 127 }]
    | [a] => [{ a with code := BitVec.ofNat 16 n }]
    | as => as.map fun a => { a with code := BitVec.ofNat 16 (n / 2 ^ (8 * a.half) % 2 ^ 8) }
  { c with east := if east then (List.range 64).flatMap at_ ++ c.east.filter (fun a => a.tick != z) else c.east,
           south := if south then x.south else c.south,
           used := (c.used.1, if south then x.used.2.1 else c.used.2.1, c.used.2.2) }
/-- One segment shifts into a core; x is what its coded regions stand for, near which of its east and south links have latency 1, z the capture tick. -/
def Core.setSeg (c x : Core) (near : Bool × Bool) (z seg : Nat) (bs : List Byte) : Core :=
  if seg = 0 then c.setCtl bs
  else if seg = 1 then c.setEng x bs
  else if seg = 2 then c.setArr x z bs
  else if seg = 3 then { c with mrf := sparse ((List.range 32768).map fun i => BitVec.ofNat 32 (field bs (4 * i) 4)) }
  else if seg = 4 then c.setVrf x bs
  else if seg = 5 then { c with spill := sparse bs }
  else if seg = 6 then { c with tile := sparse bs }
  else if seg = 7 then c.setBatt bs
  else if seg = 8 then { c with im := sparse bs }
  else c.setLnk x near.1 near.2 z bs

/-! ## Restoring a rectangle -/

/-- The capture whose coded regions a segment holds, if one wrote it: the newest of that tick and `gtc` whose bytes agree (R218, R221); those
of a cut link are ignored (R367). DESIGN CHOICE: log 42. -/
def State.captureOf (s : State) (hd : List Byte) (core k seg : Nat) (bs : List Byte) : Option Capture :=
  let regions : List (Nat × Nat) := if seg = 1 then [(0, 0x1800), (0x1910, 0x40)] else if seg = 2 then [(0x6100, 0x5F00)]
    else if seg = 4 then [(0x10100, 0x700)] else if seg = 9 ∧ (s.nearLink core true).isSome then [(0x80, 0x180)] else []
  s.captures.reverse.find? fun c => c.rtick == field hd 16 8 && c.gtc == wordAt hd 24 && regions.all fun g =>
    let got := (bs.drop g.1).take g.2
    got == codedBytes c.id k seg g.1 g.2 || (seg == 9 && got.all (· == 0))
/-- The state that the coded regions of a segment restore: a capture's core, else one that nothing constrains. DESIGN CHOICE: log 42. -/
def State.codedCore (s : State) (hd : List Byte) (core k seg : Nat) (bs : List Byte) : Core :=
  match (s.captureOf hd core k seg bs).bind fun c => c.cores[k]? with
  | some e => e.2
  | none => freeCore (s.free + k)
/-- Bytes of one segment of one core in an image. -/
def imageSeg (img : List Byte) (k seg : Nat) : List Byte :=
  let m := BitVec.ofNat 10 (field img 12 2)
  (img.drop (256 + k * recordLen m + segOffset m seg)).take (segSize seg)
/-- Bytes of a crossing record of a latency (R222). -/
def crossSize (l : Nat) : Nat := (8 + 512 * l + 63) / 64 * 64
/-- The crossing records of an image from an offset on (R222): offset, and word. -/
def crossRecords (img : List Byte) : Nat → Nat → List (Nat × Nat)
  | 0, _ => []
  | n + 1, off => let w := field img off 8; (off, w) :: crossRecords img n (off + crossSize (w / 2 ^ 24 % 2 ^ 8))
/-- Where the crossing records of an image of n cores stand. -/
def crossOf (img : List Byte) (n : Nat) : List (Nat × Nat) := crossRecords img (field img 52 4) (256 + n * recordLen (BitVec.ofNat 10 (field img 12 2)))
/-- The first failing zero field of a crossing record, as an offset in the image (R222). -/
def crossFails (img : List Byte) (x : Nat × Nat) : Option Nat :=
  let l := x.2 / 2 ^ 24 % 2 ^ 8
  if x.2 / 2 ^ 17 % 2 ^ 7 ≠ 0 then some (x.1 + 2)
  else if x.2 / 2 ^ 32 ≠ 0 then some (x.1 + 4)
  else (nonzeroIn (img.drop x.1) [(8 + 512 * l, crossSize l - (8 + 512 * l))]).map (x.1 + ·)
/-- The first failure while segments shift in (R217): code, and the offset in the image or the poisoned address. `poisonAt` finds
poison in a range of the image. -/
def shiftFails (img : List Byte) (mask : BitVec 10) (n : Nat) (poisonAt : Nat → Nat → Option Nat) : Option (Nat × Nat) :=
  let m := BitVec.ofNat 10 (field img 12 2)
  let segs := (List.range n).findSome? fun k => (maskSegs mask).findSome? fun g =>
    let off := 256 + k * recordLen m + segOffset m g
    match poisonAt off (segSize g) with
    | some va => some (0x0E, va)
    | none => (segFails g (imageSeg img k g)).map fun x => (0x21, off + x)
  let cross := (if mask.getLsbD 9 then crossOf img n else []).findSome? fun x =>
    match poisonAt x.1 (crossSize (x.2 / 2 ^ 24 % 2 ^ 8)) with
    | some va => some (0x0E, va)
    | none => (crossFails img x).map fun o => (0x21, o)
  match segs with
  | some f => some f
  | none => cross
/-- Every named core is cleared and not whole (R217). -/
def State.clearCores (s : State) (cores : List Nat) : State := cores.foldl (fun s c => s.onCore c Core.wiped) s
/-- The links of a core that have latency 1: east, south. -/
def State.nearLinks (s : State) (core : Nat) : Bool × Bool := ((s.nearLink core false).isSome, (s.nearLink core true).isSome)
/-- The stage values of one crossing record go back to the link of their sender (R222): those of a capture whose bytes it holds, else values that
nothing constrains. DESIGN CHOICE: log 42. -/
def State.setCross (s : State) (img : List Byte) (cores : List Nat) (x : Nat × Nat) : State :=
  let l := x.2 / 2 ^ 24 % 2 ^ 8
  let south := x.2 / 2 ^ 16 % 2 == 1
  let sender := match cores with | c :: _ => coreAt (gridX c + x.2 % 2 ^ 8) (gridY c + x.2 / 2 ^ 8 % 2 ^ 8) | [] => 0
  match cores.findIdx? (· == sender), s.neighbour sender south with
  | some k, some (_, lat) =>
    if lat ≠ l then s
    else
      let cap := s.captures.reverse.find? fun c => c.rtick == field img 16 8 && c.gtc == wordAt img 24
        && (img.drop (x.1 + 8)).take (512 * l) == codedBytes c.id k (if south then 11 else 10) 0 (512 * l)
      let y := match cap.bind fun c => c.cores[k]? with | some e => e.2 | none => freeCore (s.free + k)
      s.onCore sender fun c =>
        let z := field img 16 8
        let on (a : LinkCode) : Bool := decide (z ≤ a.tick) && decide (a.tick < z + l)
        if south then { c with south := y.south, used := (c.used.1, y.used.2.1, c.used.2.2) }
        else { c with east := y.east.filter on ++ c.east.filter fun a => !on a }
  | _, _ => s
/-- The segments of a mask shift into the cores of a rectangle, core by core, and the crossing records after them (R217, R222). -/
def State.shiftIn (s : State) (img : List Byte) (mask : BitVec 10) (cores : List Nat) (world : Nat) : State :=
  let tag := some (world, s.gen world)
  let tick := field img 16 8
  let done := (cores.mapIdx fun k c => (k, c)).foldl (fun t x =>
    let t1 := t.onCore x.2 fun c =>
      let c0 : Core := if c.tag = tag then c else { c.wiped with tag := tag }
      let c1 := (maskSegs mask).foldl (fun c g =>
        c.setSeg (s.codedCore img x.2 x.1 g (imageSeg img x.1 g)) (s.nearLinks x.2) tick g (imageSeg img x.1 g)) c0
      { c1 with segments := c1.segments ||| mask, scanTicks := if c1.scanTicks.contains tick then c1.scanTicks else c1.scanTicks ++ [tick] }
    match (if mask.getLsbD 1 then s.captureOf img x.2 x.1 1 (imageSeg img x.1 1) else none), t1.ropeOf x.2 with
    | some cap, some r =>
      let old := match cap.cores[x.1]? with | some e => e.1 | none => x.2
      let mine := (cap.holds.filter fun h => h.core == old).map fun h => { h with core := x.2 }
      t1.setRope { r with holds := (r.holds.filter fun h => h.core != x.2) ++ mine }
    | _, _ => t1) s
  (if mask.getLsbD 9 then crossOf img cores.length else []).foldl (fun t x => t.setCross img cores x) done

end Sys2Proof.Machine
end

