-- ==== Sys2Proof/Machine/Scan.lean ====
section
/-! DEFINITION. Scan, freeze, thaw and ownership (R210 to R218, R227, R284, R366 to R368), and pre-emption of a rope (R104, R225). -/
namespace Sys2Proof.Machine

/-! ## Ownership -/

/-- The checks of fault 0x20, in the order 2, 3, 0, 1 (R212, R368): `tval`, or the cores that a rectangle word names. `exact`: it must be
exactly one rope; `ok`: the freeze state that the instruction asks for. -/
def State.owned (s : State) (word : Word) (exact : Bool) (ok : Freezing → Bool) : Except Nat (List Nat) :=
  match rectOf word with
  | none => .error (2 * 2 ^ 16)
  | some (o, w, h) =>
    let cores := rectCores o w h
    let whole := match s.ropeOf o with | some r => r.origin == o && r.width == w && r.height == h | none => false
    if exact ∧ !whole then .error (2 * 2 ^ 16)
    else if cores.contains s.cur.core then .error (3 * 2 ^ 16 + s.cur.core)
    else
      let covered (c : Nat) : Bool := match s.ropeOf c with
        | some r => r.key.world == s.worldOf s.cur.core && scomCovers s.here.scom r.key.num
        | none => false
      match cores.find? fun c => !covered c with
      | some c => .error c
      | none =>
        match cores.find? fun c => match s.ropeOf c with | some r => !ok r.freezing | none => true with
        | some c => .error (1 * 2 ^ 16 + c)
        | none => .ok cores
/-- The state in which a rope is frozen. -/
def isFrozen (f : Freezing) : Bool := f == .frozen
/-- The state in which a rope may be asked to freeze. DEDUCED: log 44. -/
def mayFreeze (f : Freezing) : Bool := match f with | .no | .sealed _ => true | _ => false

/-! ## Turns -/

/-- Whether two rectangle words name a common core. -/
def rectsMeet (x y : Word) : Bool :=
  match rectOf x, rectOf y with
  | some (o, w, h), some (o', w', h') => (rectCores o w h).any (rectCores o' w' h').contains
  | _, _ => false
/-- Whether a scan instruction of another core that names a common core has arrived before that of the core that acts (R218). -/
def State.scanBehind (s : State) (rect : Word) : Bool :=
  s.cores.any fun e => e.1 != s.cur.core && (match e.2.scan with
    | some x => rectsMeet x.rect rect && (match s.here.scan with | some m => decide (x.ticket < m.ticket) | none => true)
    | none => false)
/-- The scan instruction of the core that acts has arrived, or goes on to a stage. -/
def State.scanAt (s : State) (rect : Word) (stage : ScanStage) : State :=
  match s.here.scan with
  | some x => s.setHere { s.here with scan := some { x with stage := stage } }
  | none => State.setHere { s with serial := s.serial + 1 } { s.here with scan := some { rect := rect, ticket := s.serial, stage := stage } }
/-- Scan instructions that name the same core are served one at a time, in order of arrival (R218). -/
def State.inTurn (s : State) (rect : Word) (go : State) : State := if s.scanBehind rect then s.scanAt rect .turn else go
/-- A scan instruction has ended. -/
def Core.scanned (c : Core) : Core := Core.retire { c with scan := none, inbox := [] }

/-! ## Freezing -/

/-- A rope is frozen before the tick it stands at (R213, R214): its writes perform as far as they can by now, its engine reads of other memory are
discarded, and its cores are whole if they ran. A scan instruction that waits its turn there arrives anew after the thaw. DEDUCED: log 41, log 45. -/
def State.freezeNow (s : State) (key : RopeKey) : State :=
  match s.rope? key with
  | none => s
  | some r =>
    let live := r.running.isSome || r.incoming.isSome
    let s1 := { s with outgoing := s.outgoing.filter fun o => !(o.rope == some key && o.flight.isSome) }.settleCores r.cores
    let s2 := r.cores.foldl (fun s c => s.onCore c fun x =>
      { x with wfe := none, segments := if live then 0x3FF else 0, scanTicks := [],
               scan := x.scan.bind fun w => if w.stage = .turn then none else some w }) s1
    s2.onRope key fun r => { r with freezing := .frozen, captured := r.rtick }
/-- FREEZE_TAKES_EFFECT (R213, R214): the sealed rope of the machine is frozen, in every core at once. -/
def execEvFreezeTakesEffect (s : State) : Out :=
  match s.rope? s.cur.rope with
  | some r => (match r.freezing with | .sealed _ => .next (s.freezeNow r.key) | _ => .next s)
  | none => .next s
/-- `k.frz` ends (R213, R214): the rope is frozen and every access of it has been dealt with; d receives Z. DEDUCED: log 41. -/
def State.frzEnd (s : State) (d : Reg) (r : Rope) : State :=
  if isFrozen r.freezing then
    let s1 := s.settleCores r.cores
    if s1.stillOut r.cores then s1 else s1.setHere ((s1.here.setReg d (BitVec.ofNat 64 r.captured)).scanned)
  else match r.freezing with
    | .no => s.freezeNow r.key
    | _ => s
/-- The request of `k.frz` reaches the rope (R213): Z = max(F, U + hdly). A rope on which no launch runs freezes at once. DEDUCED: log 41, log 44. -/
def State.frzAsk (s : State) (rect : Word) (r : Rope) (f : Nat) : State :=
  match r.freezing with
  | .no =>
    let s1 := s.scanAt rect (.frz r.key)
    if r.running.isNone then s1.freezeNow r.key
    else s1.onRope r.key fun r => { r with freezing := .sealed (max f (r.rtick + r.hdly)) }
  | _ => s
/-- `k.frz` (R210, R212, R213, R218). DEDUCED: log 41. -/
def execKFrz (d a b : Reg) (s : State) : Out :=
  if s.here.level.toNat < 2 then .next (s.faultWord 0x02)
  else s.waitFor [d, a, b] (
    let asked : Bool := match s.here.scan with | some { rect := _, ticket := _, stage := .frz _ } => true | _ => false
    match s.owned (s.here.reg a) true (fun _ => true) with
    | .error v => s.faultHere 0x20 (BitVec.ofNat 64 v)
    | .ok _ => s.inTurn (s.here.reg a) (match s.owned (s.here.reg a) true (fun f => asked || mayFreeze f) with
      | .error v => s.faultHere 0x20 (BitVec.ofNat 64 v)
      | .ok cores => match s.ropeAt cores with
        | none => s
        | some r => if asked then s.frzEnd d r else s.frzAsk (s.here.reg a) r (s.here.reg b).toNat))

/-! ## Thawing -/

/-- `k.thaw` (R210, R212, R215): it waits for every scan in progress (R218); every core whole, and one capture tick; the rope then runs again after
`hdly` ticks. DEDUCED: log 41. -/
def execKThaw (a : Reg) (s : State) : Out :=
  if s.here.level.toNat < 2 then .next (s.faultWord 0x02)
  else s.waitFor [a] (
    match s.owned (s.here.reg a) true (fun _ => true) with
    | .error v => s.faultHere 0x20 (BitVec.ofNat 64 v)
    | .ok _ => s.inTurn (s.here.reg a) (match s.owned (s.here.reg a) true isFrozen with
      | .error v => s.faultHere 0x20 (BitVec.ofNat 64 v)
      | .ok cores => match s.ropeAt cores with
        | none => s
        | some r =>
          let ticks := (cores.flatMap fun c => (s.core c).scanTicks).eraseDups
          if (cores.any fun c => (s.core c).segments != 0x3FF) ∨ 1 < ticks.length then s.faultHere 0x21 0
          else (s.onRope r.key fun r => { r with freezing := .thawing r.hdly, captured := ticks.headD r.captured }).setHere s.here.scanned))
/-- The first access of a read that has lost its translation since its checks (R133, R378): the code and value of its fault. Poison is not checked
again. DEDUCED: log 45. -/
def State.lostPage (s : State) (core : Nat) (f : Flight) : Option (Nat × Word) :=
  f.reads.2.findSome? fun a => match s.spotPage core f.job f.reads.1 a.1.1 a.1.2 with
    | .error code => some (code, BitVec.ofInt 64 a.1.1)
    | .ok _ => none
/-- Where the accesses of a read lie now. -/
def State.respots (s : State) (core : Nat) (f : Flight) : List Mapped :=
  f.reads.2.filterMap fun a => match s.spotPage core f.job f.reads.1 a.1.1 a.1.2 with | .ok (p, _) => some p | .error _ => none
/-- A read that finds no page any more is made again when its entry resumes, which faults. -/
def State.loseFlight (s : State) (core : Nat) (f : Flight) (code : Nat) (v : Word) : State :=
  let s1 := s.onFlight core f.id fun x => { x with bad := true }
  if (s.core core).parked f then s1 else s1.suspendAt .write core f.job f.upc .none code 0 v (s.rtick core)
/-- One read that a freeze discarded is sent again (R214): it keeps its ticks, and if its data is late the rope holds, in both modes. A read of global
memory is translated anew, since an invalidation may have come between (R133). DEDUCED: log 45. -/
def State.resend (s : State) (core : Nat) (f : Flight) : State :=
  match f.job.entry.ins, f.effect with
  | .lCget _, .tile _ =>
    s.onFlight core f.id fun x => { x with resent := true, effect := .tile (cellsAt (f.job.tileAt + 256 * f.upc)
      (bytesZ s.store (clusterOf core * 2 ^ 23 + f.job.entry.va.toNat % 2 ^ 23 + 256 * f.upc) 256)) }
  | _, _ =>
    if f.reads.2.isEmpty || f.bad then s
    else match s.lostPage core f with
      | some (code, v) => s.loseFlight core f code v
      | none =>
        let spots := s.respots core f
        (s.onFlight core f.id fun x => { x with
          effect := s.refill core f spots, spots := spots, asid := s.asidOf core, served := [], resent := true,
          late := s.missing core (f.reads.2.map (·.1)) || spots.any fun p => p.medium == .peer }).askPeers core f.job f.id f.reads.2 spots
/-- A pending debug event is delivered (R227): at once, or where accesses of the core are still out, at its next instruction boundary. DEDUCED: log 45. -/
def State.deliverDebug (s : State) (core : Nat) : State :=
  let s1 := s.onCore core fun c => c.releaseDebug (s.rtick core)
  if (s.core core).dbgEvent.isNone || !(s.core core).accesses.isEmpty then s1
  else match (s1.core core).pending.getLast? with
    | some f => (s1.onCore core fun c => { c with pending := c.pending.dropLast }).trap core f (s.core core).pc
    | none => s1
/-- A frozen rope whose cores scan-ins filled, and which no launch holds, runs on without a command (R215). DEDUCED: log 46. -/
def State.adopt (s : State) (r : Rope) : State :=
  if r.running.isSome || r.incoming.isSome then s
  else
    let id := s.serial
    let l : Launch := { id := id, cmd := { iface := r.key.world, pos := 0, slot := 0, consumed := 0 }, handle := 0, event := 0, arg := 0,
                        rows := List.range r.height, started := s.gtc, firstBase := s.gtc, aligned := true, firstCode := 0, firstSub := 0,
                        firstCore := 0xFFFF, faults := 0, failed := false, adopted := true, holds := 0, stalls := 0 }
    r.cores.foldl (fun s c => s.onCore c fun x => { x with run := id })
      ({ s with serial := id + 1 }.setRope { r with running := some l, last := id, lastStart := s.gtc, lastEnd := 0 })
/-- THAW_RESUME (R214, R215, R227, R233): the rope of the machine runs again at the captured tick; discarded loads are sent again, its
phase is no longer replayable, and pending debug events are delivered before any instruction. -/
def execEvThawResume (s : State) : Out :=
  match s.rope? s.cur.rope with
  | none => .next s
  | some r => match r.freezing with
    | .thawing _ =>
      let s1 := s.adopt r
      let s2 := s1.onRope r.key fun r => { r with freezing := .no, rtick := r.captured }
      let s3 := r.cores.foldl (fun s c => s.onCore c fun x => { x with replayable := false, scanTicks := [] }) s2
      let s4 := r.cores.foldl (fun s c => ((s.core c).flights).foldl (fun s f => s.resend c f) s) s3
      .next (r.cores.foldl (fun s c => s.deliverDebug c) s4)
    | _ => .next s

/-! ## Shifting out and in -/

/-- Write a range for a core that scans (R162, R216): each page under its translation, durable units logged as the image's. -/
def State.scanWrite (s : State) (va : Nat) (bytes : List Byte) : State :=
  let core := s.cur.core
  (pieces (bytes.length / 65536 + 2) va bytes.length).foldl (fun s p =>
    match s.mapCore core s.here.level.toNat p.1 p.2 .write with
    | .error _ => s
    | .ok (m, _) =>
      let bs := (bytes.drop (p.1 - va)).take p.2
      if m.medium = .peer then s.send core 0 0 (m.pa / 2 ^ 36 % 256) (m.pa % 2 ^ 36) (.write bs 0xFF) none none none p.1
      else s.store_ (s.worldOf core) m.durable
        { va := p.1, pa := m.pa, core := some core, engine := false, cls := 0, issued := 0, image := true } (cellsAt m.pa bs)) s
/-- Read a range for a core that scans, once all of it is here (R134). -/
def State.scanRead (s : State) (va n : Nat) : List Byte :=
  (pieces (n / 65536 + 2) va n).flatMap fun p =>
    match s.mapPage s.cur.core s.here.level.toNat p.1 p.2 .read with
    | .ok (m, _) => s.pieceBytes p.1 p.2 m
    | .error _ => zeros p.2
/-- The first poisoned address of a range that a core reads. -/
def State.scanPoison (s : State) (va n : Nat) : Option Nat :=
  ((granules (n / 4096 + 2) va n).find? fun p => match s.lookup s.cur.core p.1 with
    | some e => s.poisoned (e.phys p.1) p.2
    | none => false).map (·.1)
/-- Whether a durable write of an image of this core waits for its acceptance (R162). -/
def DurableWrite.imageOf (d : DurableWrite) (core : Nat) : Bool := d.core == some core && d.image
/-- `k.scan.out` ends once every unit of the image has been accepted (R161, R162); d receives its length. -/
def State.scanOutEnd (s : State) (d : Reg) (len : Nat) : State :=
  let mine (x : DurableWrite) : Bool := x.imageOf s.cur.core && !x.accepted && !x.lapsed
  match lowestFailed (s.durable.filter mine) with
  | some va => s.persistFault mine va
  | none =>
    if s.durable.any mine then s
    else
      let s1 := s.cover fun x => x.imageOf s.cur.core && !x.lapsed
      s1.setHere ((s1.here.setReg d (BitVec.ofNat 64 len)).scanned)
/-- Whose the image of the ropes that the core that acts scans is on a wheel (R14). -/
def State.scannerHere (s : State) : Nat → Requester := s.scanner (s.worldOf s.cur.core) (s.requester s.cur.core)
/-- The image of `k.scan.out` leaves (R216), once nothing of the core's own is before it at its address (R142, R143) and its units have moved (R13). -/
def State.scanOutNow (s : State) (o w h : Nat) (mask : BitVec 10) (rect : Word) (va : Nat) : State :=
  let img := s.image o w h mask s.serial false fun c => (s.core c).pc
  let level := s.here.level.toNat
  let ps := pieces (img.length / 65536 + 2) va img.length
  match s.pageFault s.cur.core level .write ps with
  | some (code, x) => s.faultHere code (BitVec.ofNat 64 x)
  | none =>
    if ps.any (s.copyBehind .write) then s
    else s.haulHere s.scannerHere (s.pieceUnits level .write ps) fun s =>
      ((s.capture o w h).scanWrite va (s.image o w h mask s.serial false fun c => (s.core c).pc)).scanAt rect (.out img.length)
/-- `k.scan.out` (R210, R212, R216, R218): every page is checked before any bit moves, and the image is then written. DEDUCED: log 41. -/
def execKScanOut (d a b : Reg) (mask : BitVec 10) (s : State) : Out :=
  if s.here.level.toNat < 2 then .next (s.faultWord 0x02)
  else s.waitFor [d, a, b] (
    match s.here.scan with
    | some { rect := _, ticket := _, stage := .out len } => s.scanOutEnd d len
    | _ => match s.owned (s.here.reg b) false (fun _ => true) with
      | .error v => s.faultHere 0x20 (BitVec.ofNat 64 v)
      | .ok _ =>
        let s1 := s.scanAt (s.here.reg b) .turn
        s1.inTurn (s.here.reg b) (match s1.owned (s.here.reg b) false isFrozen, rectOf (s.here.reg b) with
          | .error v, _ => s1.faultHere 0x20 (BitVec.ofNat 64 v)
          | .ok _, none => s1
          | .ok _, some (o, w, h) =>
            if (s.here.reg a).toNat % 256 ≠ 0 then s1.faultHere 0x0F (s.here.reg a)
            else s1.scanOutNow o w h mask (s.here.reg b) (s.here.reg a).toNat))
/-- The header of an image, and the length that it gives the whole. -/
def imageLen (hd : List Byte) : Nat := 304 + field hd 40 8
/-- A scan-in that fails once bits have moved (R217): every named core is cleared, d receives the capture tick, and the fault is taken, once the
accesses that have left the core are over (R203). -/
def State.scanInFault (s : State) (d : Reg) (cores : List Nat) (tick code value : Nat) : State :=
  if !s.here.accesses.isEmpty then s.setHere { s.here with moving := some [] }
  else
    let s1 := s.clearCores cores
    (s1.setHere (s1.here.setReg d (BitVec.ofNat 64 tick))).faultHere code (BitVec.ofNat 64 value)
/-- The segments of an image that has been read shift in, core by core, and the digest is checked at the end (R217). -/
def State.scanInNow (s : State) (d : Reg) (mask : BitVec 10) (cores : List Nat) (va len : Nat) : State :=
  let img := s.scanRead va len
  let tick := field img 16 8
  let fail := s.scanInFault d cores tick
  match shiftFails img mask cores.length fun off n => s.scanPoison (va + off) n with
  | some (code, x) => fail code x
  | none => match s.scanPoison va img.length with
    | some x => fail 0x0E x
    | none =>
      if (img.drop (img.length - 48)) ≠ sha384 ((img.drop 256).take (field img 40 8)) then fail 0x22 va
      else
        let s1 := s.shiftIn img mask cores (s.worldOf s.cur.core)
        s1.setHere ((s1.here.setReg d (BitVec.ofNat 64 tick)).scanned)
/-- The image of `k.scan.in` is read (R216, R217): alignment, pages and header first, once nothing of the core's own is before it at its address (R142,
R143). -/
def State.scanInFrom (s : State) (d : Reg) (mask : BitVec 10) (cores : List Nat) (o w h va : Nat) : State :=
  let level := s.here.level.toNat
  let parts (n : Nat) : List (Nat × Nat) := pieces (n / 65536 + 2) va n
  let page (n : Nat) : Option (Nat × Nat) := s.pageFault s.cur.core level .read (parts n)
  if va % 256 ≠ 0 then s.faultHere 0x0F (BitVec.ofNat 64 va)
  else match page 256 with
    | some (code, x) => s.faultHere code (BitVec.ofNat 64 x)
    | none => match s.scanPoison va 256 with
      | some x => s.faultHere 0x0E (BitVec.ofNat 64 x)
      | none =>
        if (parts 256).any (s.copyBehind .read) then s
        else s.withPieces 0 level (parts 256) (
          let hd := s.scanRead va 256
          match page (imageLen hd) with
          | some (code, x) => s.faultHere code (BitVec.ofNat 64 x)
          | none => match s.headerFails hd mask o w h (s.worldOf s.cur.core) false with
            | some x => s.faultHere 0x21 (BitVec.ofNat 64 x)
            | none =>
              if (parts (imageLen hd)).any (s.copyBehind .read) then s
              else s.withPieces 0 level (parts (imageLen hd)) (
                s.haulHere s.scannerHere (s.pieceUnits level .read (parts (imageLen hd))) fun s => s.scanInNow d mask cores va (imageLen hd)))
/-- `k.scan.in` (R210, R212, R217, R218). DEDUCED: log 41. -/
def execKScanIn (d a b : Reg) (mask : BitVec 10) (s : State) : Out :=
  if s.here.level.toNat < 2 then .next (s.faultWord 0x02)
  else s.waitFor [d, a, b] (
    match s.owned (s.here.reg b) false (fun _ => true) with
    | .error v => s.faultHere 0x20 (BitVec.ofNat 64 v)
    | .ok _ =>
      let s1 := s.scanAt (s.here.reg b) .turn
      s1.inTurn (s.here.reg b) (match s1.owned (s.here.reg b) false isFrozen, rectOf (s.here.reg b) with
        | .error v, _ => s1.faultHere 0x20 (BitVec.ofNat 64 v)
        | .ok _, none => s1
        | .ok cores, some (o, w, h) => s1.scanInFrom d mask cores o w h (s.here.reg a).toNat))
/-- `k.own` (R210, R211, R284): level 3; firmware writes `scom` of the target core. -/
def execKOwn (a b : Reg) (s : State) : Out :=
  if s.here.level.toNat < 3 then .next (s.faultWord 0x02)
  else s.waitFor [a, b] (
    let v := s.here.reg b
    let s1 := s.onCore ((s.here.reg a).toNat % 1024) fun c => { c with scom := v }
    s1.setHere s1.here.retire)

/-! ## Pre-emption -/

/-- The address at which EVICT puts its image. -/
def Evict.va (e : Evict) : Nat := (e.cmd.slot >>> 448).toNat % 2 ^ 64
/-- The image that an eviction writes, and where (R104, R225). A write to poison performs (R135). DEDUCED: log 56. -/
def State.evictTo (s : State) (r : Rope) (e : Evict) (mask : BitVec 10) (yielded : Bool) (pc : Nat → Word) : State :=
  (s.capture r.origin r.width r.height).writeFor r.key.world e.va (s.image r.origin r.width r.height mask s.serial yielded pc)
/-- The level-4 domain at whose pending barrier a rope that leaves has not arrived, if it is a member of one (R106). -/
def State.mayMiss (s : State) (r : Rope) : Option Nat :=
  if r.barrier4.isSome then none
  else ((r.cores.map fun c => (s.core c).dom4).find? (·.getLsbD 63)).map fun w => w.toNat / 2 ^ 32 % 2 ^ 16
/-- A rope whose incoming launch loses its rows: its record is that of the launch that goes out (R49, R57). -/
def Rope.lastAgain (r : Rope) : Rope :=
  match r.incoming, r.running with
  | some _, some l => { r with last := l.id, lastStart := l.started, lastEnd := 0 }
  | _, _ => r
/-- An eviction ends (R104): the launch is held out, the rope's cores are idle, and EVICT reports how and the capture tick. Rows that the
next launch had been given are taken from it: it follows the resumed one (R49). A proxy absence token goes to the level-4 barrier of a member that had
not arrived (R106). DEDUCED: log 56. -/
def State.evicted (s : State) (r : Rope) (e : Evict) (scanned : Bool) : State :=
  let run := match r.running with | some l => l.id | none => 0
  let s1 := r.cores.foldl (fun s c => if (s.core c).run = run then s.onCore c fun x => { x.idle with fmtq := [] } else s.onCore c Core.idle) s
  let s2 := s1.complete e.cmd 0 ((if scanned then 1 else 0) + r.captured * 2 ^ 64)
  let out := s2.mayMiss r
  let s3 := match out with | some d => s2.reply (.absence d true) | none => s2
  s3.onRope r.key fun r =>
    { r.lastAgain with
        absence := (r.absence.1, r.absence.2 || out.isSome), evict := none, evicted := r.running, running := none, incoming := none,
        queue := (r.incoming.map fun l => { l with rows := [] }).toList ++ r.queue, holds := [], freezing := .no, replaying := false, yields := 0 }
/-- A yield point counts once every core has retired its `y.yield` in all four queues (R104, R358). DEDUCED: log 40. -/
def Core.yieldCount (c : Core) : Nat := (c.yields.min?).getD 0
/-- Whether a rope stands at its next yield point (R104). -/
def State.atYield (s : State) (r : Rope) : Bool := r.running.isSome && r.cores.all fun c => decide (r.yields < (s.core c).yieldCount)
/-- The image of an eviction moves and is written (R13, R104), or EVICT fails with what `lost` leaves where a page of it cannot be written. `mask`,
`yielded` and `pc` are those of the image. -/
def State.evictNow (s : State) (r : Rope) (e : Evict) (mask : BitVec 10) (yielded : Bool) (pc : Nat → Word) (lost : Rope → Rope) : State :=
  let w := r.key.world
  let n := (s.image r.origin r.width r.height mask s.serial yielded pc).length
  if !s.rangeOk w e.va n .write then (s.complete e.cmd 8 0).onRope r.key lost
  else s.haulFor e.cmd true (s.scanner w .best) (s.unitsFor w e.va n .write) fun s => (s.evictTo r e mask yielded pc).evicted r e !yielded
/-- YIELD_POINT (R104, R225): a pending eviction saves the control segments there, once the accesses that have left the cores have been dealt with;
otherwise the point passes. DEDUCED: log 40, log 56. -/
def execEvYieldPoint (s : State) : Out :=
  match s.rope? s.cur.rope with
  | none => .next s
  | some r =>
    if s.atYield r then
      match r.evict with
      | none => .next (s.onRope r.key fun r => { r with yields := r.yields + 1 })
      | some e =>
        let s1 := s.settleCores r.cores
        if s1.stillOut r.cores then .next s1
        else
          .next ((s1.onRope r.key fun r => { r with captured := r.rtick }).evictNow { r with captured := r.rtick } e 0x001 true
            (fun c => (s1.core c).yieldPcs.getD r.yields (s1.core c).pc) fun r => { r with evict := none, yields := r.yields + 1 })
    else .next s
/-- The end of a grace period freezes the rope (R104), unless it is frozen. -/
def State.evictFreeze (s : State) (r : Rope) (e : Evict) : State :=
  match r.freezing with
  | .frozen => s.settleCores r.cores
  | _ => (s.freezeNow r.key).onRope r.key fun r => { r with evict := some { e with froze := true } }
/-- EVICT_GRACE_EXPIRY (R104): no yield point came in time, so the rope is frozen, and once the accesses that left its cores have been dealt with
(R214) all ten segments of every core are scanned out. Where that cannot be done, what the eviction has frozen runs on. DEDUCED: log 56. -/
def execEvEvictGraceExpiry (s : State) : Out :=
  match s.rope? s.cur.rope with
  | none => .next s
  | some r => match r.evict with
    | none => .next s
    | some e =>
      let grace := (e.cmd.slot >>> 384).toNat / 2 ^ 16 % 2 ^ 16
      if r.running.isNone ∨ r.failing.isSome ∨ r.cancel.any (·.owed.isSome) ∨ s.gtc.toNat < e.since.toNat + (if grace = 0 then 200 else grace) * Config.ticksPerMicro then .next s
      else
        let s1 := s.evictFreeze r e
        match s1.rope? r.key with
        | none => .next s
        | some r1 =>
          if s1.stillOut r.cores then .next s1
          else .next (s1.evictNow r1 e 0x3FF false (fun c => (s1.core c).pc) fun r =>
            { r with evict := none, freezing := if (r1.evict.any (·.froze)) then .thawing 1 else r.freezing })

end Sys2Proof.Machine
end

