-- ==== Sys2Proof/Machine/Replay.lean ====
section
/-! DEFINITION. Errors and phase replay (R135, R200, R228 to R235, R238): detection, and the replay before tick E + hdly. -/
namespace Sys2Proof.Machine

/-! ## The restart state comes back -/

/-- The Y word's number among the entries of a queue that are to run again: how many `y.yield` they hold. -/
def Queue.yieldsBack (q : Queue) : Nat := (q.issued.filter fun e => match e.ins with | .yYield _ => true | _ => false).length
/-- Barriers of a list of entries: routing number and level, once each. -/
def barsOf (es : List Entry) : List (Nat × Nat) :=
  (es.filterMap fun e => match e.ins with | .yBar o => some (e.seq, yArg o 31 3) | _ => none).eraseDups
/-- A queue returns to the first entry of its replay buffer (R232 step 2). DESIGN CHOICE: log 48. -/
def Queue.rewind (q : Queue) (base : Nat) (loop : Option Loop) : Queue :=
  { q with entries := q.issued ++ q.entries, issued := [], base := some base, nextT := base, wait := .none, loop := loop, susp := none,
           lagging := false }
/-- The format word of the decode that a core's carder is in. -/
def Core.carderFormat (c : Core) : Word :=
  match c.flights.find? fun f => f.isCarder with
  | some f => f.job.entry.fmt
  | none => 0
/-- Whether a flight loads the shadow plane: a step or a plane write of `m.wld` or `m.wldr` (R195, R320). -/
def Flight.loads (f : Flight) : Bool := match f.job.entry.ins with | .mWld _ | .mWldr _ => true | _ => false
/-- The registers that a flight is to write, by number (R234). -/
def Flight.regs (f : Flight) : List Nat :=
  match f.effect with
  | .vrf lanes => lanes.map (·.1)
  | .pred p mask _ => predBits p mask
  | .mrf lanes _ _ => lanes.map (16384 + ·.1)
  | .tile _ => []
  | _ => match f.job.entry.ins with
    | .mMac o | .mMacz o | .mTr o | .mAdd o => (List.range 4096).map fun i => 16384 + (o.bank.toNat * 4096 + i)
    | _ => []
/-- What a replay finds in the registers that the attempt has written, or was about to (R234): free values, until it has written them again, so that a
phase which reads one first has results that nothing fixes. `k`: counter, `id`: core. DESIGN CHOICE: log 48. -/
def Core.openAt (c : Core) (x : Restart) (k id : Nat) : List (Nat × Word) :=
  ((c.wrote ++ (c.flights.filter fun f => f.job.phase == x.base).flatMap Flight.regs).eraseDups).map fun i => (i, Config.freeLane k id i)
/-- The core as R231 recorded it: writes of the attempt that have not performed are gone; earlier phases' stand. The planes and what was on its way to
them are as at base B, so that the attempt finds them as the undisturbed run does (R200, R239). DEDUCED: log 43. DESIGN CHOICE: log 48. -/
def Core.restore (c : Core) (x : Restart) (k id : Nat) : Core :=
  let qs := c.queues.mapIdx fun q y => y.rewind x.base ((x.loops[q]?).getD none)
  let old := c.flights.filter fun f => decide (f.job.t < x.base) && !f.loads
  let back := barsOf (qs.flatMap (·.entries))
  { c with tokens := x.tokens, vrb := x.vrb, mstatus := x.mstatus, vstatus := x.vstatus, katc := x.katc, carder := x.carder, busy := x.busy,
           sets := x.sets, timed := x.timed, active := x.active, planeUse := x.planeUse, planes := x.planes, planeScales := x.planeScales,
           starts := [], flights := old ++ x.flights.filter (·.loads), queues := qs,
           yields := c.queues.mapIdx fun q y => c.yields.getD q 0 - y.yieldsBack, bars := back.map (·.2), halted := false,
           pending := c.pending.filter fun f => f.source == 0 || decide (f.tick < x.base), fetching := [], fetched := x.refetch,
           opens := c.openAt x k id, wrote := [] }

/-! ## Refetch -/

/-- Whether another package still owes the data of a flight (R337). -/
def State.owed (s : State) (core id : Nat) : Bool :=
  s.outgoing.any fun o => o.core == core && (match o.flight with | some f => f.1 == id | none => false)
/-- Whether a flight comes before another (R144): by tick, and on one tick what performs before the steps. -/
def Flight.sooner (f g : Flight) : Bool :=
  decide (f.tick < g.tick) || (f.tick == g.tick && (if f.effect.isStep == g.effect.isStep then f.before g else !f.effect.isStep))
/-- Whether a flight is of the refetch list, issued anew in the preamble of base B (R232 step 3). -/
def Flight.refetched (f : Flight) (base : Nat) : Bool := decide (base ≤ f.job.t)
/-- The flight that is due first among those of the refetch list whose data is there or comes within its latency. -/
def State.firstFlight (s : State) (core base : Nat) : Option Flight :=
  ((s.core core).flights.filter fun f => f.refetched base && !s.owed core f.id && !(s.core core).parked f).foldl (fun m f => match m with
    | none => some f
    | some g => if f.sooner g then some f else some g) none
/-- Whether a flight comes before an issue on a tick: on that tick itself it does where it performs (R144). -/
def Flight.dueBy (f : Flight) (tick : Option Nat) : Bool :=
  match tick with
  | none => true
  | some t => decide (f.tick < t) || (f.tick == t && !f.effect.isStep)
/-- One flight of the refetch list performs or steps; a page walk ends. -/
def State.runFlight (s : State) (core : Nat) (f : Flight) : State :=
  let s1 := s.onCore core fun c => { c with flights := c.flights.filter fun g => g.id != f.id }
  match f.effect with
  | .walk => s.endWalk core f
  | e => if e.isStep then s1.runStep core f.tick 0 f.job e else s1.perform core f.tick (s.core core) f
/-- The instances of the refetch list run, in the order of their ticks, up to an issue or to the end (R232 step 3, R360): also the tick of the last
write. -/
def State.drainTo (s : State) (core base : Nat) (upTo : Option Nat) (last : Nat) : Nat → State × Nat
  | 0 => (s, last)
  | n + 1 =>
    match s.firstFlight core base with
    | none => (s, last)
    | some f =>
      if !f.dueBy upTo then (s, last)
      else (s.runFlight core f).drainTo core base upTo (if f.effect.isStep || f.effect == .walk then last else max last f.tick) n
/-- Flights that one refetch list can make. -/
def drainFuel : Nat := 65536
/-- One entry of the refetch list is issued again, under the declared sets of its own phase, on the tick after its predecessor's occupied
ticks (R232 step 3, R360): also the first free tick after it, and the tick of the last write so far. DEDUCED: log 47. -/
def State.refetch (ex : Exec) (s : State) (core base tick last : Nat) (j : Job) : State × Nat × Nat :=
  let a := s.drainTo core base (some tick) last drainFuel
  let c := a.1.core core
  let s1 := a.1.setCore core { c with seq := c.seq + 1, busy := alter c.busy 0 fun _ => 0 }
  let s2 := ex.run j.entry.ins { s1 with cur := { core := core, rope := c.rope.getD s.cur.rope, job := { j with t := tick, seq := c.seq } } }
  (s2, max (tick + 1) ((s2.core core).busy.getD 0 0), a.2)
/-- The whole refetch list (R360), but for what waits for data of other packages: also the tick of its last write so far. DEDUCED: log 47. -/
def State.refetchAll (ex : Exec) (s : State) (core base : Nat) (js : List Job) : State × Nat :=
  let a := js.foldl (fun (a : State × Nat × Nat) j => a.1.refetch ex core base a.2.1 a.2.2 j) (s, base, base)
  a.1.drainTo core base none a.2.2 drainFuel
/-- Whether other packages still owe data of the refetch list (R337). -/
def State.owing (s : State) (cores : List Nat) (base : Nat) : Bool :=
  cores.any fun c => (s.core c).flights.any fun f => f.refetched base && s.owed c f.id
/-- What other packages have sent for the refetch list since goes on at a tick (R337, R360): also the tick of the last write so far. -/
def State.refetchOn (s : State) (core base tick last : Nat) : State × Nat :=
  let came (f : Flight) : Bool := f.refetched base && !s.owed core f.id && !(s.core core).parked f
  (s.onCore core fun c => { c with flights := c.flights.map fun f => if came f then { f with tick := max tick f.tick } else f }).drainTo core base none last drainFuel
/-- A refetched entry that has faulted in the preamble stands as if it had at base B, where the rope resumes. DEDUCED: log 47. -/
def Core.rebase (c : Core) (base : Nat) : Core :=
  match (c.queue 0).susp with
  | none => c
  | some x =>
    let d := x.tick - base
    { c with flights := c.flights.map (fun f => if f.job.q == 0 && c.parked f then { f with tick := f.tick - d } else f),
             queues := alter c.queues 0 fun q => { q with susp := some { x with tick := x.tick - d } } }

/-! ## The replay -/

/-- The error of a cancelled attempt ends the launch instead (R228, R233, R235): fault 0x29 or 0x2A. -/
def State.endByError (s : State) (e : ErrorReport) (code : Nat) : State := ((s.finishAccesses e.core).noteFault e.core code 0).endFaulted e.core code 0
/-- Decode steps that a catch-up takes (R200). -/
def Carder.steps (k : Carder) : Nat := if k.busy then (match k.restart with | some x => x.2 | none => 0) else 0
/-- One core is restored and refetches (R232 steps 1 to 3): also the preamble ticks to its last refetched write so far (R360). -/
def State.replayCore (ex : Exec) (s : State) (core : Nat) : State × Nat :=
  match (s.core core).restart with
  | none => (s, 0)
  | some x =>
    let a := (s.onCore core fun c => { c.restore x s.free core with carder := { x.carder with busy := false } }).refetchAll ex core x.base x.refetch
    (a.1, a.2 - x.base)
/-- Every core of a rope does something that takes preamble ticks: the most of them. -/
def State.mostOf (s : State) (cores : List Nat) (f : State → Nat → State × Nat) : State × Nat :=
  cores.foldl (fun (a : State × Nat) c => let b := f a.1 c; (b.1, max a.2 b.2)) (s, 0)
/-- One core catches up (R200, R232 step 4): also the preamble ticks of it. -/
def State.catchUpCore (s : State) (core : Nat) : State × Nat :=
  match (s.core core).restart with
  | none => (s, 0)
  | some x => (s.onCore core fun c => { c.rebase x.base with carder := c.catchUp x.carder c.carderFormat, busy := x.busy }, x.carder.steps)
/-- Ticks of a rope count as hold ticks of a replay (R232). -/
def State.replayTicks (s : State) (cores : List Nat) (n : Nat) : State :=
  cores.foldl (fun s c => s.onCore c fun x => { x with holdc := x.holdc + BitVec.ofNat 64 n }) s
/-- What a rope has written in the phase of a base, or was about to, is open to its own reads, in the replayed phase and in the one after it (R234).
DESIGN CHOICE: log 48. -/
def State.taint (s : State) (r : Rope) (base : Nat) : State :=
  let coming := (r.cores.flatMap fun c => (s.core c).flights).flatMap fun f => match f.effect with
    | .global _ pa _ bytes => if f.job.phase = base then bytes.map fun b => pa + b.1 else []
    | _ => []
  { s with tainted := (s.tainted.filter fun t => t.rope != r.key)
                        ++ [{ rope := r.key, left := 2,
                              cells := (s.phaseWrites.filter fun w => w.1 == r.key && decide (base ≤ w.2.1)).flatMap (·.2.2) ++ coming }] }
/-- Whether the phase in which a rope stands can be replayed (R233). -/
def State.canReplay (s : State) (r : Rope) : Bool := r.cores.all fun c => (s.core c).replayable && (s.core c).restart.isSome
/-- The records of errors that were to cancel a phase say that it could not be replayed (R230). -/
def State.relabel (s : State) (r : Rope) (x : Cancel) : State :=
  { s with alert := true, errors := s.errors.mapIdx fun i e =>
      if x.record ≤ i && e.kind == 2 && r.cores.contains e.core then { e with kind := 3 } else e }
/-- The rest of a replay (R232, R360): with the refetch done, every core catches up, and the rope resumes at base B; while other packages owe data of
it, a tick of the preamble passes. `last`: the preamble ticks to the last write so far, `gone`: those that have passed. DEDUCED: log 47. -/
def State.replayOn (s : State) (r : Rope) (x : Cancel) (last gone : Nat) : State :=
  let base := ((s.core r.origin).restart.map (·.base)).getD 0
  let a := s.mostOf r.cores fun s c => let b := s.refetchOn c base (base + gone) (base + last); (b.1, b.2 - base)
  if a.1.owing r.cores base then
    (a.1.replayTicks r.cores 1).onRope r.key fun r => { r with cancel := some { x with owed := some (max last a.2, gone + 1) } }
  else
    let b := a.1.mostOf r.cores State.catchUpCore
    (b.1.replayTicks r.cores (max (max last a.2) gone + b.2 + 1 - gone)).onRope r.key fun r => { r with cancel := none }
/-- The replay of a rope's phase before its cancel tick (R232 to R235, R360): the ticks thrown away and the preamble count as holds, and
the rope stands at base B again. DEDUCED: log 47. -/
def State.replayNow (ex : Exec) (s : State) (r : Rope) (x : Cancel) : State :=
  let base := ((s.core r.origin).restart.map (·.base)).getD 0
  if !s.canReplay r then ((s.setRope { r with cancel := none }).relabel r x).endByError x.error 0x29
  else
    let a := ((s.taint r base).replayTicks r.cores (r.rtick - base)).mostOf r.cores (State.replayCore ex)
    (a.1.onRope r.key fun r =>
      { r with rtick := base, replaying := true, lastError := some (x.error.store, x.error.core), barrier4 := none,
               holds := (r.holds.filter fun h => h.kind == .trap && (h.left.isSome || (a.1.core h.core).handler
                  || !(a.1.core h.core).pending.isEmpty)).map fun h => { h with due := base } }).replayOn r x a.2 0
/-- Accesses that met an error in a store of a core are suppressed (R229); a carder whose read is writes nothing until the cancel (R361). DEDUCED: log 49. -/
def Core.suppress (c : Core) (met : List Nat) : Core :=
  let carder := c.flights.any fun f => met.contains f.id && f.isCarder
  { c with flights := c.flights.filter (fun f => !met.contains f.id), accesses := c.accesses.filter (fun a => !met.contains a.id),
           carder := { c.carder with dead := c.carder.dead || carder } }
/-- Whether an access of an engine reads what it changes: not a plain store of whole bytes (R137, R345). -/
def Effect.readsTarget : Effect → Bool
  | .global _ _ _ bytes => bytes.any fun b => b.2.2 != 0xFF
  | _ => true
/-- Accesses that met an error in global memory are to take fault 0x0E and to perform nowhere (R228, R229). DEDUCED: log 49. -/
def Core.markBad (c : Core) (met : List Nat) : Core :=
  { c with flights := c.flights.map fun f => if met.contains f.id && f.effect.readsTarget then { f with bad := true } else f,
           accesses := c.accesses.map fun a => if met.contains a.id then { a with bad := true } else a }
/-- PHASE_REPLAY (R135, R228 to R235): an error is detected. A corrected one is logged; in global memory it poisons the granule, and the accesses
that met it take fault 0x0E; in queues, instruction memory, spill memory, registers and the cluster store it is fault 0x29; elsewhere it cancels the
phase before E + hdly. An error after a replay has begun, and before its phase commits, is fault 0x2A, and fences a core hit twice in one store.
The accesses that met it perform nowhere; one of the control core is fault 0x29 in every store of the package. DEDUCED: log 47, log 49. -/
def execEvPhaseReplay (e : ErrorReport) (s0 : State) : Out :=
  let s : State := if e.corrected ∨ 11 ≤ e.store ∨ Config.cores ≤ e.core then s0 else s0.onCore e.core fun c => c.suppress e.met
  let world := if e.core < Config.cores then s.worldOf e.core else 0
  let tick := if e.core < Config.cores then s.rtick e.core else 0
  let logged (k : Nat) : State := s.logError k e.store e.core world e.addr tick
  if e.corrected then .next (logged 1)
  else if e.store = 11 ∨ e.store = 12 then
    .next { logged 5 with poison := if s.poison.contains (e.addr / 4096) then s.poison else s.poison ++ [e.addr / 4096],
                          cores := s.cores.map fun x => (x.1, x.2.markBad e.met) }
  else match s.ropeOf e.core, s.launchOf e.core with
    | some r, some _ =>
      if 7 ≤ e.store ∨ e.control ∨ r.running.isNone then .next ((logged 3).endByError e 0x29)
      else if r.replaying then
        let s1 := logged 4
        let s2 := if r.lastError = some (e.store, e.core) then s1.onCore e.core fun c => { c with fenced := true } else s1
        .next (s2.endByError e 0x2A)
      else if r.cancel.isSome then .next (logged (if s.canReplay r then 2 else 3))
      else .next ((logged (if s.canReplay r then 2 else 3)).onRope r.key fun r => { r with cancel := some { tick := tick, error := e, record := s.errors.length, passed := false, owed := none } })
    | _, _ => .next (logged 3)

end Sys2Proof.Machine
end

