-- ==== Sys2Proof/Machine/RopeTick.lean ====
section
/-! DEFINITION. One tick of a rope (R87 to R98): a tick of its freeze or thaw, a hold tick, or the rope tick that runs everything due. -/
namespace Sys2Proof.Machine

/-! ## Holds -/

/-- The cores of a rope that run its launch (R86). -/
def State.live (s : State) (r : Rope) : List Nat :=
  match r.running with
  | some l => r.cores.filter fun c => (s.core c).run == l.id
  | none => []
/-- Whether a queue lacks the entry that its earliest tick asks for (R89): one tick at which the next entry could be due, and none is
there; in a loop whose body is still being routed, one initiation tick. A rope that has gone past the T of an entry stands for ever. DEDUCED: log 19. -/
def Core.starved (c : Core) (q tick : Nat) : Bool :=
  let x := (c.queue q).endLoop
  if x.overrun then true
  else if c.halted || x.base.isNone || x.halting || x.susp.isSome || x.wait != .none || x.realign then false
  else match x.loop, x.route with
    | some l, some b => x.entries.all (·.body.isSome) && decide (b.next < b.span) && decide (l.l0 + b.next ≤ tick) && decide (tick < l.stop)
    | some _, none => false
    | none, _ => x.entries.isEmpty && decide (x.nextT ≤ tick)
/-- Whether the suspended entries of a core resume (R207, R209): its last trap hold is over, and no fault of it is left. DEDUCED: log 21. -/
def State.mayResume (s : State) (r : Rope) (core : Nat) : Bool :=
  let c := s.core core
  c.pending.isEmpty && !c.handler && !((s.rope? r.key).getD r).holds.any fun h => h.core == core && h.kind == .trap
/-- Whether data that a tick needs is late, where that is a hold (R90, R214), or an `s.pbar` waits (R160), one that resumes after a fault too (R161,
R209). DEDUCED: log 19. -/
def State.awaits (s : State) (r : Rope) (core : Nat) : Bool :=
  let c := s.core core
  c.flights.any fun f => decide (f.tick ≤ r.rtick) && f.effect != .walk
    && ((!c.parked f && f.late && (f.resent || !(s.strict core && f.job.timed)))
      || (match f.effect with | .barrier => (!c.parked f || s.mayResume r core) && s.barrierOpen core f.job | _ => false))
/-- Whether a recorded hold is in force before the tick at which its rope stands: one of its launch, and a stretched period whatever core it
names (R96). DEDUCED: log 19. -/
def State.inForce (s : State) (r : Rope) (h : Hold) : Bool :=
  decide (h.due ≤ r.rtick) && (match r.running with | some l => h.kind == .stretch || (s.core h.core).run == l.id | none => false)
/-- The causes of a hold before the tick at which a rope stands, but for missing entries: the core of each, and whether it counts as a stall
(R96, R98, R339). DEDUCED: log 19. -/
def State.causes (s : State) (r : Rope) : List (Nat × Bool) :=
  ((r.holds.filter (s.inForce r)).map fun h => (h.core, h.stall))
    ++ ((s.live r).filter fun c => s.awaits r c || (s.alignHeld r).contains c).map fun c => (c, true)
/-- Whether some queue of the rope lacks its next entry (R89). -/
def State.starving (s : State) (r : Rope) : Bool := (s.live r).any fun c => (List.range 4).any fun q => (s.core c).starved q r.rtick
/-- Whether a rope has gone past the T of an entry. -/
def State.overran (s : State) (r : Rope) : Bool := (s.live r).any fun c => (s.core c).queues.any (·.overrun)
/-- One hold tick (R96 to R98). `cs`: its causes. A queue that lacks its entry counts as a stall until it is known whether it was one. DEDUCED: log 19. -/
def State.holdTick (s : State) (r : Rope) (cs : List (Nat × Bool)) : State :=
  let s1 := (s.live r).foldl (fun s c => s.onCore c fun x =>
    let stall := cs.contains (c, true)
    let lack := !stall && (List.range 4).any fun q => x.starved q r.rtick
    { x with holdc := x.holdc + 1, stallc := if stall || lack then x.stallc + 1 else x.stallc,
             lacked := if lack then (x.lacked.1, x.lacked.2 + 1) else x.lacked,
             queues := x.queues.mapIdx fun q y => if !stall && x.starved q r.rtick then { y with lack := (y.lack.1, y.lack.2 + 1) } else y }) s
  s1.onRope r.key fun r =>
    { r with holds := (r.holds.map fun h => if s.inForce r h then { h with left := h.left.map (· - 1) } else h).filter fun h => h.left != some 0 }
/-- One tick on which a rope stands only because a queue lacks its next entry (R89): it counts as a hold tick, and as a stall tick of that core, until the
entry is there and says whether it was one. DEDUCED: log 19. -/
def State.lackTick (s : State) (r : Rope) : State :=
  (s.live r).foldl (fun s c => s.onCore c fun x =>
    let lack := (List.range 4).any fun q => x.starved q r.rtick
    { x with holdc := x.holdc + 1, stallc := if lack then x.stallc + 1 else x.stallc, lacked := (x.lacked.1 + 1, if lack then x.lacked.2 + 1 else x.lacked.2),
             queues := x.queues.mapIdx fun q y => if x.starved q r.rtick then { y with lack := (y.lack.1 + 1, y.lack.2) } else y }) s
/-- The ticks from now to the T of the entry that a queue lacked (R88, R353); none where none came. -/
def Core.lead (c : Core) (q tick : Nat) : Option Nat :=
  let x := (c.queue q).endLoop
  match x.loop with
  | some l => ((x.entries.filterMap fun e => e.body.map (l.l0 + ·)).find? fun t => decide (tick ≤ t)).map (· - tick)
  | none => x.entries.head?.map fun e => x.dueT e - tick
/-- The hold ticks that a missing entry has cost (R89): its T would have been reached before it came. -/
def Core.shortOf (c : Core) (q tick : Nat) : Nat := match c.lead q tick with | some d => (c.queue q).lack.1 - d | none => 0
/-- The stall ticks that it has cost: also the hold ticks of other causes before the tick that is its T (R98). -/
def Core.stallOf (c : Core) (q tick : Nat) : Nat := c.shortOf q tick + if c.lead q tick = some 0 then (c.queue q).lack.2 else 0
/-- The rope goes on: of the ticks that it has stood for entries, those count that were hold ticks (R89, R98). DEDUCED: log 19. -/
def State.settleLack (s : State) (r : Rope) : State :=
  let cores := s.live r
  let most (f : Core → Nat → Nat → Nat) (c : Nat) : Nat := ((List.range 4).map fun q => f (s.core c) q r.rtick).foldl max 0
  let h := (cores.map (most Core.shortOf)).foldl max 0
  cores.foldl (fun t c => t.onCore c fun x =>
    { x with holdc := x.holdc - BitVec.ofNat 64 x.lacked.1 + BitVec.ofNat 64 h,
             stallc := x.stallc - BitVec.ofNat 64 x.lacked.2 + BitVec.ofNat 64 (most Core.stallOf c), lacked := (0, 0),
             queues := x.queues.map fun y => { y with lack := (0, 0) } }) s

/-! ## The first `y.align` -/

/-- Whether a core has routed its first `y.align`. -/
def Core.hasAlign (c : Core) : Bool := c.queues.any fun q => q.entries.any fun e => match e.ins with | .yAlign _ => true | _ => false
/-- `rtick` is set to 0 (R87): what was routed before counts as routed at tick 0 (R377), and is presented at its T. DEDUCED: log 38. -/
def State.startClock (s : State) (r : Rope) : State :=
  let s1 := r.cores.foldl (fun s c => s.onCore c fun x => { x with queues := x.queues.map fun q =>
    { q with entries := q.entries.map (fun e => { e with fixedT := e.fixedT.map fun _ => waitOf e.ins }), wait := .none } }) s
  (s1.onRope r.key fun r =>
    { r with rtick := 0, holds := r.holds.map (fun h => { h with due := h.due - r.rtick }),
             running := r.running.map fun l => { l with aligned := true } }).forgetPhases r.key
/-- Whether the clock of a rope starts now: every row loaded, and a `y.align` routed in every core (R87). DEDUCED: log 38. -/
def State.mayStart (s : State) (r : Rope) : Bool :=
  match r.running with
  | some l => !l.aligned && decide (l.rows.length = r.height) && r.cores.all fun c => (s.core c).run == l.id && (s.core c).hasAlign
  | none => false

/-! ## A tick that runs -/

/-- Do something for every core. -/
def State.each (s : State) (cores : List Nat) (f : State → Nat → State) : State := cores.foldl f s
/-- Run an event of one core. -/
def State.coreEvent (ex : Exec) (i : Instr) (s : State) (core : Nat) : State := ex.run i { s with cur := { s.cur with core := core } }
/-- The suspended entries of some cores that resume on a tick. -/
def State.resuming (s : State) (r : Rope) (cores : List Nat) : List (Nat × Nat × Suspended) :=
  (cores.filter (s.mayResume r)).flatMap fun c => (List.range 4).filterMap fun q => ((s.core c).queue q).susp.map fun x => (c, q, x)
/-- Everything that a rope tick does to the engines (R88 to R91, R111, R140, R144, R313, R380): what performs comes before the issues, of resumed
entries too, and an instance that issues takes its first step on the same tick. Where several cores of the rope write one location of HBM or CXL
memory on one tick, which R141 leaves to the controller, the highest core prevails. DEDUCED: log 31. DESIGN CHOICE: log 31. -/
def State.engines (ex : Exec) (s : State) (r : Rope) (cores : List Nat) (tick : Nat) : State :=
  let s0 := s.each cores fun s c => s.onCore c fun x => ({ x with ports := [], portTime := s.gtc } : Core).pruneStreams tick
  let s1 := (s0.noteBase r tick).each cores (State.coreEvent ex .yLoopInitiation)
  let back := s1.resuming r cores
  let s2 := back.foldl (fun s x => s.unpark x.1 x.2.1 tick x.2.2) s1
  let s3 := s2.each cores fun s c => s.stepsDue c tick fun f => f.isCarder
  let s4 := s3.each cores fun s c => s.performDue c tick
  let s5 := s4.each cores fun s c => s.stepsDue c tick fun f => !f.isCarder
  let a := s5.issues ex cores back tick 5 []
  let s6 := a.1.each cores fun s c => s.stepsDue c tick fun f => !f.isCarder
  let s7 := a.2.foldl (fun s x => s.gives x.1 tick x.2) s6
  s7.each cores fun s c => s.conflicts ex c tick
/-- Phases, barriers, halts, yields and the end of the launch, after the engines of a tick (R93, R100, R101, R104). -/
def State.joins (ex : Exec) (s : State) (r : Rope) (cores : List Nat) (tick : Nat) : State :=
  let s1 := s.alignCheck r tick
  let s2 := [1, 2, 3].foldl (fun s l => ex.run (.evBarrierCompletion r.key l) (s.each cores fun s c => s.arrive c l tick)) s1
  let s3 := s2.each cores fun s c => s.arrive c 4 tick
  let s4 := if r.barrier4.isNone ∧ s3.arrived4 r then
    s3.onRope r.key fun r => { r with barrier4 := some (s.gtc.toNat, false) } else s3
  ex.run .evHaltAndTree (s4.each cores fun s c => s.haltCore c)
/-- A phase in which a queue has issued more than 64 entries is no longer replayable (R233). -/
def State.overfull (s : State) (cores : List Nat) : State :=
  cores.foldl (fun s c => if (s.core c).queues.any fun q => decide (64 < q.replayed) then s.unreplayable c else s) s
/-- The rope tick at which a rope stands runs; the phase whose base comes next begins (R93, R235). -/
def State.runTick (ex : Exec) (s : State) (r : Rope) : State :=
  let cores := s.live r
  let s0 := s.alignCheck r (r.rtick - 1)
  let s1 := ((s0.engines ex r cores r.rtick).joins ex r cores r.rtick).overfull cores
  match s1.rope? r.key with
  | none => s1
  | some r1 =>
    if (r1.running.map (·.id)) = (r.running.map (·.id)) then
      let r2 := { r1 with rtick := r1.rtick + 1 }
      ex.run .evYieldPoint ((s1.setRope r2).beginPhases r2 r2.rtick)
    else s1

/-! ## A tick of a rope -/

/-- The clock starts, a hold tick passes, or the tick runs, once what is due has moved as the slots in force let it (R13). `ahead`: an entry that a queue
lacks is not due yet (R89). -/
def State.afterChecks (ex : Exec) (s : State) (r : Rope) (ahead : Bool) : State :=
  let s1 := if s.mayStart r then s.startClock r else s
  match s1.rope? r.key with
  | none => s1
  | some r1 =>
    let t := (s1.live r1).foldl (fun s c => s.serveDue c r1.rtick) s1
    let cs := t.causes r1
    if !cs.isEmpty then t.holdTick r1 cs
    else if t.starving r1 && !(ahead && !t.overran r1) then t.lackTick r1
    else (t.settleLack r1).runTick ex r1
/-- Whether a sealed rope freezes before the tick at which it stands (R213): at Z or later, once the holds before it are served, or within a trap hold;
at once where no launch runs on it any more. Not within the preamble of a replay, which is a hold before Z. -/
def State.freezes (s : State) (r : Rope) (ahead : Bool) : Bool :=
  match r.freezing with
  | .sealed z => r.running.isNone || (decide (z ≤ r.rtick) && !r.cancel.any (·.owed.isSome)
      && ((r.holds.any fun h => s.inForce r h && h.kind == .trap && h.left.isNone) || ((s.causes r).isEmpty && (ahead || !s.starving r))))
  | _ => false
/-- What a rope does on a tick, unless a launch of it that has ended faulted still stands in its way. -/
def State.ropeGoes (ex : Exec) (s : State) (r : Rope) (ahead : Bool) : State :=
  match r.freezing with
  | .frozen => s
  | .thawing n => if n ≤ 1 then ex.run .evThawResume s else s.setRope { r with freezing := .thawing (n - 1) }
  | _ =>
    if s.freezes r ahead then ex.run .evFreezeTakesEffect s
    else if r.running.isNone then s
    else if r.evict.isSome && s.atYield r then ex.run .evYieldPoint s
    else match r.cancel with
      | some x => match x.owed with
        | some (last, gone) => s.replayOn r x last gone
        | none => if x.tick + r.hdly ≤ r.rtick then s.replayNow ex r x else s.afterChecks ex r ahead
      | none => s.afterChecks ex r ahead
/-- One tick of a rope. A launch that has ended faulted settles (R208); a thaw counts down (R215); a sealed rope freezes (R213); an eviction goes on at its
yield point (R104); a cancelled phase is replayed (R232); the clock starts (R87); a hold tick passes (R96); or the rope tick runs (R88). DESIGN CHOICE:
log 2. DEDUCED: log 45, log 67. -/
def State.ropeTick (ex : Exec) (s0 : State) (key : RopeKey) (ahead : Bool) : State :=
  let s := { s0 with cur := { s0.cur with rope := key } }.settleEnd key
  match s.rope? key with
  | none => s
  | some r => if r.running.any (·.failed) then s else s.ropeGoes ex r ahead

end Sys2Proof.Machine
end

