-- ==== Sys2Proof/Machine/Dispatcher.lean ====
section
/-! DEFINITION. The dispatcher (R44 to R47, R84, R85, R379): command slots, what may start, which command is next, and how a command
starts, waits and completes. -/
namespace Sys2Proof.Machine

/-! ## The fields of a command slot -/

/-- Bits of a slot: lowest bit and width. -/
def slotBits (slot : BitVec 512) (lo n : Nat) : Nat := slot.toNat / 2 ^ lo % 2 ^ n
/-- The sequence that a slot carries (R44). -/
def slotSeq (slot : BitVec 512) : Nat := slotBits slot 0 32
/-- The opcode that a slot carries (R44). -/
def slotOp (slot : BitVec 512) : Nat := slotBits slot 32 8
/-- The opcode of a command. -/
def cmdOp (c : Cmd) : Nat := slotOp c.slot
/-- The class of a command: 0 Reserved, 1 High, 2 Normal, 3 Background. -/
def cmdClass (c : Cmd) : Nat := slotBits c.slot 40 8
/-- The wait count of a command. -/
def cmdWaits (c : Cmd) : Nat := slotBits c.slot 48 8
/-- The ordered flag of a command. -/
def cmdOrdered (c : Cmd) : Bool := c.slot.getLsbD 56
/-- Wait entry k of a command: event and target. -/
def cmdWait (c : Cmd) (k : Nat) : Nat × Nat := (slotBits c.slot (128 + 64 * k) 12, slotBits c.slot (144 + 64 * k) 48)
/-- The start `gtc` of a Reserved command (R45). -/
def cmdStart (c : Cmd) : Nat := slotBits c.slot 320 64
/-- Operand P0. -/
def cmdP0 (c : Cmd) : Nat := slotBits c.slot 384 64
/-- Operand P1. -/
def cmdP1 (c : Cmd) : Nat := slotBits c.slot 448 64
/-- Bits of P0. -/
def cmdBits (c : Cmd) (lo n : Nat) : Nat := cmdP0 c / 2 ^ lo % 2 ^ n

/-- Whether an address that a command carries keeps its zero bits: on interface 0 it is physical, with bits [63:48] zero (R55). -/
def physOk (c : Cmd) (va : Nat) : Bool := c.iface != 0 || decide (va < 2 ^ 48)

/-- Whether an opcode names a command on an interface (R49, R54). -/
def opcodeKnown (iface op : Nat) : Bool := (decide (1 ≤ op) && decide (op ≤ 14)) || (iface == 0 && decide (0x20 ≤ op) && decide (op ≤ 0x29))
/-- The instruction that a command of an opcode is. -/
def cmdInstr (c : Cmd) : Option Instr :=
  let op := cmdOp c
  if op = 0x01 then some (.cmdOpen c) else if op = 0x02 then some (.cmdClose c) else if op = 0x03 then some (.cmdRopeAlloc c)
  else if op = 0x04 then some (.cmdRopeFree c) else if op = 0x05 then some (.cmdLoad c) else if op = 0x06 then some (.cmdLaunch c)
  else if op = 0x07 then some (.cmdEvict c) else if op = 0x08 then some (.cmdResume c) else if op = 0x09 then some (.cmdEventWait c)
  else if op = 0x0A then some (.cmdEventSet c) else if op = 0x0B then some (.cmdQuery c) else if op = 0x0C then some (.cmdResync c)
  else if op = 0x0D then some (.cmdAttest c) else if op = 0x0E then some (.cmdManifestCmp c) else if op = 0x20 then some (.cmdBind c)
  else if op = 0x21 then some (.cmdWeight c) else if op = 0x22 then some (.cmdRevoke c) else if op = 0x23 then some (.cmdAsidMap c)
  else if op = 0x24 then some (.cmdInvalidate c) else if op = 0x25 then some (.cmdRollback c) else if op = 0x26 then some (.cmdDurableId c)
  else if op = 0x27 then some (.cmdPoisonClear c) else if op = 0x28 then some (.cmdMode c) else if op = 0x29 then some (.cmdPeerSet c)
  else none

/-! ## Consumption -/

/-- Whether the zero fields and ranges of a slot hold (R44, R45, R379). DEDUCED: log 50. -/
def slotOk (c : Cmd) : Bool :=
  let most := if cmdClass c = 0 then 3 else 4
  decide (cmdClass c ≤ 3) && decide (cmdWaits c ≤ most) && slotBits c.slot 57 7 == 0
    && ((List.range (cmdWaits c)).all fun k => slotBits c.slot (140 + 64 * k) 4 == 0)
    && (cmdClass c != 0 || cmdStart c % 8 == 0) && (cmdOp c != 1 || cmdWaits c == 0)
/-- Whether the interface is open: it has been opened and not closed since (R49, R379). DEDUCED: log 52. -/
def Iface.isOpen (i : Iface) : Bool := i.state == .running || (i.state == .lapped && !i.lappedClosed)
/-! ## What may start -/

/-- Whether a wait entry of a command cannot be read (R45). DEDUCED: log 54. -/
def State.unreadable (s : State) (c : Cmd) : Bool :=
  (List.range (cmdWaits c)).any fun k => (s.eventWord c.iface (cmdWait c k).1).isNone
/-- Whether every counted wait entry of a command is satisfied (R45). -/
def State.waitsMet (s : State) (c : Cmd) : Bool :=
  (List.range (cmdWaits c)).all fun k => match s.eventWord c.iface (cmdWait c k).1 with
    | some v => decide ((cmdWait c k).2 ≤ v.toNat)
    | none => false
/-- Whether the ordered flag lets a command start: every earlier command of its interface has completed (R44). -/
def State.inOrder (s : State) (c : Cmd) : Bool :=
  !cmdOrdered c || (s.iface c.iface).commands.all fun p => decide (c.pos ≤ p.cmd.pos)
/-- Whether the timeout of an EVENT.WAIT has passed since its consumption (R49). -/
def State.overdue (s : State) (c : Cmd) : Bool :=
  cmdOp c == 9 && cmdP0 c != 0 && decide (c.consumed.toNat + cmdP0 c * Config.ticksPerMicro ≤ s.gtc.toNat)
/-- Whether a command is startable (R45, R49, R84). -/
def State.startable (s : State) (c : Cmd) : Bool :=
  !s.overdue c && (s.iface c.iface).closing.isNone && s.waitsMet c && s.inOrder c
/-- Whether an interface has a startable command of a class. -/
def State.waitingIn (s : State) (cls n : Nat) : Bool :=
  (s.iface n).commands.any fun p => !p.started && cmdClass p.cmd == cls && s.startable p.cmd
/-- The first startable command of an interface in a class, in position order (R46). -/
def State.firstOf (s : State) (cls n : Nat) : Option Cmd :=
  (((s.iface n).commands.filter fun p => !p.started && cmdClass p.cmd == cls && s.startable p.cmd).foldl
    (fun (m : Option Cmd) p => match m with
      | none => some p.cmd
      | some x => if p.cmd.pos < x.pos then some p.cmd else some x) none)

/-- What the begin of a Reserved command's slot finds (R45), as a status: DENIED if an event word cannot be read, TIMEOUT if its waits are not
satisfied or an ordered predecessor is not complete, else 0. DEDUCED: log 54. -/
def State.slotVerdict (s : State) (c : Cmd) : Nat :=
  if s.unreadable c then 8 else if s.waitsMet c && s.inOrder c && !s.overdue c then 0 else 6
/-- A command enters the list of its interface as it is consumed: a bad slot, or a closed interface, answers it at once
(R44, R48, R49, R379). DEDUCED: log 50. -/
def State.accept (s : State) (c : Cmd) : State :=
  let s1 := s.onIface c.iface fun i =>
    { i with commands := i.commands ++ [{ cmd := c, started := false, start := 0, effect := false, waits := [], verdict := none, moving := none }] }
  if !opcodeKnown c.iface (cmdOp c) then s1.complete c 1 0
  else if cmdOp c ≠ 1 ∧ !(s.iface c.iface).isOpen then s1.complete c 3 0
  else if !slotOk c then s1.complete c 2 0
  else if cmdClass c = 0 ∧ cmdStart c = s.gtc.toNat then
    s1.onIface c.iface fun i => { i with commands := i.commands.map fun p => if p.cmd == c then { p with verdict := some (s1.slotVerdict c) } else p }
  else s1

/-! ## Rotations -/

/-- The rotation of a class. -/
def State.rotation (s : State) (cls : Nat) : Rotation :=
  if cls = 1 then s.rotations.1 else if cls = 2 then s.rotations.2.1 else s.rotations.2.2
/-- Set the rotation of a class. -/
def State.setRotation (s : State) (cls : Nat) (r : Rotation) : State :=
  { s with rotations := if cls = 1 then (r, s.rotations.2) else if cls = 2 then (s.rotations.1, r, s.rotations.2.2)
                        else (s.rotations.1, s.rotations.2.1, r) }
/-- Weight of an interface in a class: 0 is treated as 1 (R85). -/
def Iface.weight (i : Iface) (cls : Nat) : Nat :=
  max 1 (if cls = 1 then i.weights.1 else if cls = 2 then i.weights.2.1 else i.weights.2.2)
/-- A fresh rotation (R85): every interface with a startable command, ascending, after the one last visited. DEDUCED: log 54. -/
def State.freshPlan (s : State) (cls last : Nat) : List (Nat × Nat) :=
  let ns := (s.ifaces.map (·.1)).filter (s.waitingIn cls)
  ((ns.filter fun n => decide (last < n)) ++ ns.filter fun n => decide (n ≤ last)).map fun n => (n, (s.iface n).weight cls)
/-- The visits of a rotation that still have something to start. -/
def State.pruned (s : State) (cls : Nat) (plan : List (Nat × Nat)) : List (Nat × Nat) :=
  plan.dropWhile fun v => v.2 == 0 || !s.waitingIn cls v.1
/-- The command that a class starts next, and the rotation after it (R85). -/
def State.pickIn (s : State) (cls : Nat) : Option (Cmd × Rotation) :=
  let r := s.rotation cls
  let now := s.pruned cls r.plan
  match (if now.isEmpty then s.freshPlan cls r.last else now) with
  | [] => none
  | (n, k) :: rest => (s.firstOf cls n).map fun c => (c, { last := n, plan := (n, k - 1) :: rest })
/-- Reserved commands that have not started and whose slot has begun, in interface and position order (R84). -/
def State.reservedDue (s : State) : List Cmd :=
  s.ifaces.flatMap fun e => (e.2.commands.filter fun p => !p.started && cmdClass p.cmd == 0 && decide (cmdStart p.cmd ≤ s.gtc.toNat)).map (·.cmd)
/-- The command that the dispatcher starts next (R84): none of a lower class while a higher one has any, and none at all before the
Reserved commands whose slot has begun. -/
def State.pick (s : State) : Option (Cmd × Nat × Rotation) :=
  if !s.reservedDue.isEmpty then none
  else match s.pickIn 1 with
    | some (c, r) => some (c, 1, r)
    | none => match s.pickIn 2 with
      | some (c, r) => some (c, 2, r)
      | none => (s.pickIn 3).map fun x => (x.1, 3, x.2)

/-! ## Starting -/

/-- A command has started. -/
def State.markStarted (s : State) (c : Cmd) : State := s.onPending c fun p => { p with started := true, start := s.gtc }
/-- The rope that a command acts on (R46). -/
def cmdRope (c : Cmd) : Option Nat :=
  let op := cmdOp c
  if op = 0x04 ∨ op = 0x07 ∨ op = 0x08 then some (cmdBits c 0 12) else if op = 0x06 then some (cmdBits c 8 12) else none
/-- Whether an earlier command on the same rope has still to take effect (R46): a LAUNCH has once it is queued, the others once they
complete. DEDUCED: log 53. -/
def State.heldBack (s : State) (c : Cmd) : Bool :=
  (cmdRope c).isSome && (s.iface c.iface).commands.any fun p =>
    decide (p.cmd.pos < c.pos) && cmdRope p.cmd == cmdRope c && !(p.effect && cmdOp p.cmd == 0x06)
/-- Whether a request is still under way (R133); a freeze drops the reads that it discards (R214), and a write of an engine goes on in the message that it
leaves as (R337). -/
def State.under (s : State) (q : Request) : Bool :=
  match q with
  | .access core id => (s.core core).accesses.any fun a => a.id == id
  | .flight core id issued =>
    let still : Bool := match s.ropeOf core with | some r => (match r.freezing with | .frozen | .thawing _ => true | _ => false) | none => false
    (s.core core).flights.any (fun f => f.id == id && (f.effect.leavesCore || !still))
      || (decide (0 < issued) && s.outgoing.any fun o => o.core == core && o.issued == issued && o.flight.isNone)
  | .message id => s.outgoing.any fun o => o.id == id
/-- A command takes effect; `body` says how, or that it cannot yet (R83). -/
def State.effectOf (s : State) (c : Cmd) (body : State → Option State) : State :=
  match body (s.onPending c fun p => { p with effect := true }) with
  | some t => t
  | none => s
/-- A command that has been started takes effect, unless an earlier one on its rope has not (R46). DEDUCED: log 53. -/
def State.startNow (s : State) (c : Cmd) (body : State → Option State) : State :=
  let s1 := s.markStarted c
  if s1.heldBack c then s1 else s1.effectOf c body
/-- THE COURSE OF A COMMAND (R45, R46, R84, R133), one operation for every command: it starts when the dispatcher picks it; one that has
started and not taken effect does so once it can; one that waits for requests completes once they are over. A wait entry that cannot
be read ends it with DENIED. DEDUCED: log 53. -/
def State.advance (s : State) (c : Cmd) (op : Nat) (body : State → Option State) : Out :=
  if cmdOp c ≠ op then .next s
  else match s.pending c with
    | none => .next s
    | some p =>
      if p.effect then
        if p.waits.isEmpty ∨ p.waits.any s.under then .next s else .next (s.complete c 0 0)
      else if p.started then
        if s.heldBack c then .next s else .next (s.effectOf c body)
      else if (s.iface c.iface).closing.isSome then .next s
      else if s.overdue c then .next (s.complete c 6 0)
      else if s.unreadable c then .next (s.complete c 8 0)
      else match s.pick with
        | some (x, cls, r) => if x = c then .next ((s.setRotation cls r).startNow c body) else .next s
        | none => .next s
/-- The slots that begin now: each of their commands keeps what the begin finds (R45). -/
def State.beginSlots (s : State) : State :=
  let judge (p : Pending) : Pending :=
    if !p.started && cmdClass p.cmd == 0 && cmdStart p.cmd == s.gtc.toNat then { p with verdict := some (s.slotVerdict p.cmd) } else p
  { s with ifaces := s.ifaces.map fun e => (e.1, { e.2 with commands := e.2.commands.map judge }) }
/-- RESERVED_COMMAND_START (R45, R84): in the slot that begins at its start `gtc` the command starts, in ascending interface number
where slots coincide; it fails with TIMEOUT if the slot began before it was consumed, its waits were satisfied and its ordered predecessors
were complete, and with DENIED if an event word could not be read. DEDUCED: log 54. -/
def State.startReserved (s : State) (c : Cmd) (body : State → Option State) : Out :=
  match s.pending c with
  | none => .next s
  | some p =>
    if p.started ∨ cmdClass c ≠ 0 ∨ s.gtc.toNat < cmdStart c ∨ (s.iface c.iface).closing.isSome then .next s
    else if s.reservedDue.head? ≠ some c then .next s
    else match p.verdict with
      | some 0 => .next (s.startNow c body)
      | some v => .next (s.complete c v 0)
      | none => .next (s.complete c 6 0)
/-- EVENT_WAIT_TIMEOUT (R49): an EVENT.WAIT that has not started when its timeout has passed since its consumption. -/
def execEvEventWaitTimeout (c : Cmd) (s : State) : Out :=
  match s.pending c with
  | none => .next s
  | some p =>
    if !p.started ∧ s.overdue c then .next (s.complete c 6 0) else .next s

end Sys2Proof.Machine
end

