-- ==== Sys2Proof/Machine/Ring.lean ====
section
/-! DEFINITION. Virtual interfaces (R34 to R43, R47, R379): windows, remote operations, doorbells, the command ring and the response ring. -/
namespace Sys2Proof.Machine

/-! ## Slots -/

/-- Slots of a ring (R35). -/
def ringSlots : Nat := 1024
/-- A command slot right after the ring is initialised (R39): the sequence before its first one. DESIGN CHOICE: log 51. -/
def freshSlot (k : Nat) : BitVec 512 := BitVec.ofNat 512 (0xFFFFFC00 + k)
/-- A slot of the command ring. DESIGN CHOICE: log 51. -/
def Iface.slot (i : Iface) (k : Nat) : BitVec 512 := (find i.ring k).getD (freshSlot k)
/-- A slot of the response ring. DESIGN CHOICE: log 51. -/
def Iface.response (i : Iface) (k : Nat) : BitVec 512 := (find i.responses k).getD 0
/-- One byte of a slot. -/
def slotByte (v : BitVec 512) (k : Nat) : Byte := BitVec.ofNat 8 (v.toNat / 2 ^ (8 * k))
/-- A slot with one byte replaced. -/
def setSlotByte (v : BitVec 512) (k : Nat) (b : Byte) : BitVec 512 :=
  (v &&& ~~~(BitVec.ofNat 512 (0xFF * 2 ^ (8 * k)))) ||| BitVec.ofNat 512 (b.toNat * 2 ^ (8 * k))

/-! ## The window -/

/-- The ring status word (R38). -/
def State.ringStatus (s : State) (i : Iface) : Nat :=
  (match i.state with | .closed => 0 | .running => 1 | .lapped => 2) + (if i.waiting then 4 else 0) + (if s.degraded then 8 else 0)
    + i.lastgood.toNat * 2 ^ 32
/-- A 64-bit word of the doorbell page (R37). -/
def State.doorbellWord (s : State) (i : Iface) (off : Nat) : Nat :=
  if off = 0 then i.cwp else if off = 8 then i.crp else if off = 0x10 then s.ringStatus i else if off = 0x18 then i.swp
  else if off = 0x20 then i.srp else 0
/-- One byte of a window as read (R36, R37). DEDUCED: log 62. -/
def State.windowByte (s : State) (i : Iface) (off : Nat) : Byte :=
  if off < 0x1000 then BitVec.ofNat 8 (s.doorbellWord i (off / 8 * 8) / 2 ^ (8 * (off % 8)))
  else if off < 0x11000 then slotByte (i.slot ((off - 0x1000) / 64)) ((off - 0x1000) % 64)
  else if off < 0x21000 then slotByte (i.response ((off - 0x11000) / 64)) ((off - 0x11000) % 64)
  else 0
/-- One byte of the rings is written; a byte of the reserved part is dropped (R36). -/
def Iface.writeByte (i : Iface) (off : Nat) (b : Byte) : Iface :=
  if off < 0x1000 then i
  else if off < 0x11000 then
    let k := (off - 0x1000) / 64
    { i with ring := insert i.ring k (setSlotByte (i.slot k) ((off - 0x1000) % 64) b) }
  else if off < 0x21000 then
    let k := (off - 0x11000) / 64
    { i with responses := insert i.responses k (setSlotByte (i.response k) ((off - 0x11000) % 64) b) }
  else i
/-- A dropped remote operation is counted, saturating (R34, R37, R56). -/
def Iface.drop (i : Iface) : Iface := { i with dropped := min 0xFFFF (i.dropped + 1) }
/-- Whether a remote operation comes from the bound endpoint under the bound association (R34). -/
def State.bound (s : State) (n : Nat) (endpoint : Word) (sa : BitVec 16) : Bool := (s.iface n).bound == some (endpoint, sa)

/-! ## The command ring -/

/-- Consume the slots at crp, as far as the ring goes (R41, R379). -/
def State.consume (s : State) (n : Nat) : Nat → State
  | 0 => s
  | fuel + 1 =>
    let i := s.iface n
    if i.bound.isNone ∨ i.closing.isSome ∨ i.state = .lapped ∨ i.cwp ≤ i.crp then s
    else
      let slot := i.slot (i.crp % ringSlots)
      let q := slotSeq slot
      if q = i.crp % 2 ^ 32 then
        let s1 := s.setIface n { i with crp := i.crp + 1, lastgood := BitVec.ofNat 32 q, waiting := false }
        (s1.accept { iface := n, pos := i.crp, slot := slot, consumed := s.gtc }).consume n fuel
      else if q = (i.crp + 2 ^ 32 - ringSlots) % 2 ^ 32 then s.setIface n { i with waiting := true }
      else s.setIface n { i with state := .lapped, lappedClosed := i.state == .closed, waiting := false }
/-- Consume all that a ring can hold. DEDUCED: log 52. -/
def State.drain (s : State) (n : Nat) : State := s.consume n (ringSlots + 1)
/-- The slot at cwp − 1 of a lapped ring is examined (R40, R43): only a RESYNC with its sequence ends the lap, and runs. That holds while a CLOSE of the
interface is under way too, where the RESYNC is consumed and never starts: the spec says nothing of it. DEDUCED: log 52. DESIGN CHOICE: log 52. -/
def State.examine (s : State) (n : Nat) : State :=
  let i := s.iface n
  let p := i.cwp - 1
  let slot := i.slot (p % ringSlots)
  if i.cwp = 0 ∨ slotOp slot ≠ 0x0C ∨ slotSeq slot ≠ p % 2 ^ 32 then s
  else
    let s1 := s.setIface n { i with crp := i.cwp, waiting := false, state := if i.lappedClosed then .closed else .running }
    s1.accept { iface := n, pos := p, slot := slot, consumed := s.gtc }
/-- An aligned 8-byte write of cwp by the bound endpoint (R40). DEDUCED: log 52. -/
def State.ring (s : State) (n v : Nat) : State :=
  let i := s.iface n
  if i.state = .lapped then (s.setIface n { i with cwp := v }).examine n
  else if v ≤ i.cwp then s
  else if i.crp + ringSlots < v then
    s.setIface n { i with cwp := v, state := .lapped, lappedClosed := i.state == .closed, waiting := false }
  else (s.setIface n { i with cwp := v }).drain n
/-- CWP_WRITE (R34, R40). -/
def execEvCwpWrite (d : Doorbell) (s : State) : Out :=
  if s.bound d.iface d.endpoint d.sa then .next (s.ring d.iface d.value.toNat) else .next (s.onIface d.iface Iface.drop)
/-- SRP_WRITE (R34, R37). -/
def execEvSrpWrite (d : Doorbell) (s : State) : Out :=
  let v := d.value.toNat
  if s.bound d.iface d.endpoint d.sa ∧ (s.iface d.iface).srp ≤ v ∧ v ≤ (s.iface d.iface).swp then
    .next (s.onIface d.iface fun i => { i with srp := v })
  else .next (s.onIface d.iface Iface.drop)
/-- DOORBELL_OTHER_WRITE (R37): dropped and counted. -/
def execEvDoorbellOtherWrite (d : Doorbell) (s : State) : Out := .next (s.onIface d.iface Iface.drop)
/-- SLOT_RECHECK (R41): a waiting ring reads the slot at crp again. -/
def execEvSlotRecheck (iface : Nat) (s : State) : Out :=
  if (s.iface iface).waiting then .next (s.drain iface) else .next s

/-! ## Remote operations -/

/-- What a remote operation is answered (R36). -/
def State.answer (s : State) (r : HostReply) : State := { s with hostReplies := s.hostReplies ++ [r] }
/-- The answer of `exec` as a state, for an operation that always has one. -/
def outState (s : State) : Out → State
  | .next t => t
  | _ => s
/-- A request from outside leaves those that wait for a slot (R13). -/
def State.forget (s : State) (i : Instr) : State := { s with requests := s.requests.filter fun e => e.1 != i }
/-- A request from outside goes on when every unit of it in HBM has moved, as the slots in force let them (R13, R14); until then it waits with the units
that are left. DESIGN CHOICE: log 77. -/
def State.haulRequest (s : State) (i : Instr) (units : List Nat) (go : State → State) : State :=
  let a := s.moveSome (fun _ => .best) (((s.requests.find? fun e => e.1 == i).map (·.2)).getD units)
  let t := a.1.forget i
  if a.2.isEmpty then go t else { t with requests := t.requests ++ [(i, a.2)] }
/-- The world and virtual address of a peer request, if this package's own table admits it (R134). -/
def State.admits (s : State) (pkg : Nat) (sa : BitVec 16) (entry offset : Nat) : Option (Nat × Nat) :=
  match find s.peers entry with
  | some e => if e.valid ∧ e.pkg = pkg ∧ e.sa = sa.toNat then some (e.world, e.base + offset) else none
  | none => none
/-- A request of a world that waits for a slot meets the world's next generation (R68): a write is dropped, a read returns zeros, and either is answered.
DESIGN CHOICE: log 77. -/
def State.staleRequest (s : State) (w : Nat) (i : Instr) : State :=
  match i with
  | .evRemoteOperation o =>
    if o.iface = w then (s.forget i).answer (if o.write then .done o.iface else .data o.iface (zeros o.len)) else s
  | .evPeerRequestReceive q =>
    if ((s.admits q.sender q.sa q.entry q.offset).map (·.1)) = some w then
      (s.forget i).reply (match q.kind with
        | .read n => .data q.sender q.id (zeros n)
        | .write .. => .applied q.sender q.id
        | .amo .. => .data q.sender q.id (zeros 8))
    else s
  | _ => s
/-- A write of the window by its bound endpoint (R36, R37, R41). DEDUCED: log 62. -/
def State.writeWindow (s : State) (o : RemoteOp) : State :=
  if o.addr < 0x1000 then
    let d : Doorbell := { iface := o.iface, endpoint := o.endpoint, sa := o.sa, value := BitVec.ofNat 64 (leNat o.data) }
    if o.data.length = 8 ∧ o.addr = 0 then outState s (execEvCwpWrite d s)
    else if o.data.length = 8 ∧ o.addr = 0x20 then outState s (execEvSrpWrite d s)
    else outState s (execEvDoorbellOtherWrite d s)
  else
    let s1 := s.onIface o.iface fun i => (cellsAt o.addr o.data).foldl (fun i c => i.writeByte c.1 c.2) i
    if (s1.iface o.iface).waiting then s1.drain o.iface else s1
/-- A remote operation on the world's global addresses, with every check of an access under local ASID 0 (R36, R55, R131, R135, R376), once
its units have moved (R13). A read of poison is a transport error. DESIGN CHOICE: log 25. -/
def State.remoteGlobal (s : State) (o : RemoteOp) : State :=
  let n := if o.write then o.data.length else o.len
  if !s.rangeOk o.iface o.addr n (if o.write then .write else .read) ∨ (!o.write ∧ s.poisonedFor o.iface o.addr n) then
    (s.forget (.evRemoteOperation o)).answer (.transportError o.iface)
  else s.haulRequest (.evRemoteOperation o) (s.unitsFor o.iface o.addr n (if o.write then .write else .read)) fun s =>
    if o.write then (s.writeFor o.iface o.addr o.data).answer (.done o.iface) else s.answer (.data o.iface (s.readFor o.iface o.addr n))
/-- REMOTE_OPERATION (R34, R36, R37): on the window or on global memory; from anyone else it is dropped and counted. DESIGN CHOICE: log 73. -/
def execEvRemoteOperation (o : RemoteOp) (s : State) : Out :=
  if !s.bound o.iface o.endpoint o.sa then .next (((s.forget (.evRemoteOperation o)).onIface o.iface Iface.drop).answer (.dropped o.iface))
  else if !o.window then .next (s.remoteGlobal o)
  else if o.write then .next ((s.writeWindow o).answer (.done o.iface))
  else .next (s.answer (.data o.iface ((List.range o.len).map fun k => s.windowByte (s.iface o.iface) (o.addr + k))))

/-! ## Responses -/

/-- A response slot (R47). -/
def responseSlot (r : Response) : BitVec 512 :=
  BitVec.ofNat 512 (slotSeq r.cmd.slot + cmdOp r.cmd * 2 ^ 32 + r.status % 256 * 2 ^ 40 + slotBits r.cmd.slot 64 64 * 2 ^ 64
    + r.start.toNat * 2 ^ 128 + r.fin.toNat * 2 ^ 192 + r.result % 2 ^ 256 * 2 ^ 256)
/-- The oldest waiting response is written at swp (R47). -/
def Iface.writeResponse (i : Iface) : Iface :=
  match i.replies with
  | [] => i
  | r :: rest => { i with responses := insert i.responses (i.swp % ringSlots) (responseSlot r), swp := i.swp + 1, replies := rest }
/-- The ring and its positions as binding and CLOSE leave them (R39). DEDUCED: log 58. -/
def Iface.reinit (i : Iface) : Iface :=
  { i with ring := [], cwp := 0, crp := 0, swp := 0, srp := 0, lastgood := 0xFFFFFFFF, waiting := false, state := .closed,
           lappedClosed := false, events := 0, commands := [], replies := [], closing := none }
/-- Whether a response ends the CLOSE of its own interface. -/
def Response.endsClose (r : Response) : Bool := cmdOp r.cmd == 0x02 && r.status == 0
/-- RESPONSE_WRITE (R39, R47, R49): the oldest waiting response is written while the ring has room; after that of CLOSE, the ring is
initialised again. -/
def execEvResponseWrite (iface : Nat) (s : State) : Out :=
  let i := s.iface iface
  match i.replies with
  | [] => .next s
  | r :: _ =>
    if i.swp - i.srp < ringSlots then
      .next (s.setIface iface (if r.endsClose then i.writeResponse.reinit else i.writeResponse))
    else .next s

end Sys2Proof.Machine
end

