-- ==== Sys2Proof/Machine/Place.lean ====
section
/-! DEFINITION. Placement of ropes (R20, R24, R26, R27, R62, R80 to R82, R238), their allocation, and their freeing (R49, R152). -/
namespace Sys2Proof.Machine

/-! ## Ridges, dies and crossings -/

/-- The ridges that cores lie in (R11, R81). -/
def ridgesOf (cores : List Nat) : List Nat := (cores.map clusterOf).eraseDups
/-- The cores of a ridge, ascending. -/
def ridgeCores (r : Nat) : List Nat :=
  (List.range 16).map fun i => r / 16 * 256 + (r % 16 / 4 * 4 + i / 4) * 16 + r % 4 * 4 + i % 4
/-- The dies that cores lie on. -/
def diesOf (cores : List Nat) : List Nat := (cores.map (· / 256)).eraseDups
/-- The crossings by index, with the ridges that each joins (R27). -/
def crossingEnds : List (Nat × Nat × Nat) :=
  ((List.range 4).flatMap fun d => (List.range 12).map fun i =>
      (d * 24 + i, d * 16 + i / 3 * 4 + i % 3, d * 16 + i / 3 * 4 + i % 3 + 1))
    ++ ((List.range 4).flatMap fun d => (List.range 12).map fun i => (d * 24 + 12 + i, d * 16 + i, d * 16 + i + 4))
    ++ (List.range 4).map (fun j => (96 + j, j * 4 + 3, 16 + j * 4))
    ++ (List.range 4).map (fun j => (100 + j, 32 + j * 4 + 3, 48 + j * 4))
    ++ (List.range 4).map (fun j => (104 + j, 12 + j, 32 + j))
    ++ (List.range 4).map fun j => (108 + j, 28 + j, 48 + j)
/-- Whether a crossing is Excluded (R26, R28). -/
def State.excluded (s : State) (i : Nat) : Bool := match s.crossings[i]? with | some c => c.state == 2 | none => false
/-- Whether the crossings that a rope needs allow it (R26, R81): between its ridges, and for a strict rope at the edge of them too. -/
def State.crossingsOk (s : State) (ridges : List Nat) (strict : Bool) : Bool :=
  crossingEnds.all fun x =>
    let a := ridges.contains x.2.1
    let b := ridges.contains x.2.2
    !(if strict then a || b else a && b) || !s.excluded x.1
/-- Whether a rope spans dies. -/
def Rope.spans (r : Rope) : Bool := decide (1 < (diesOf r.cores).length)
/-- The step group of a die (R20): the dies joined to it by spanning elastic ropes. DEDUCED: log 15. -/
def State.stepGroup (s : State) (die : Nat) : List Nat :=
  let grow (ds : List Nat) : List Nat :=
    (s.ropes.foldl (fun ds r =>
      if !r.strict && r.spans && (diesOf r.cores).any ds.contains then ds ++ (diesOf r.cores).filter fun d => !ds.contains d else ds) ds)
  grow (grow (grow (grow [die])))
/-- A die's clock step: 0 for 1.9 GHz, 1 for 1.6 GHz, 2 for 1.3 GHz (R20). -/
def State.stepOf (s : State) (die : Nat) : Nat := s.steps.getD die 0
/-- Bring dies to one step, the lowest clock among them (R20, R24). -/
def State.levelSteps (s : State) (dies : List Nat) : State :=
  let low := (dies.map s.stepOf).foldl max 0
  { s with steps := s.steps.mapIdx fun d x => if dies.contains d then low else x }

/-! ## Wheels, classes and power -/

/-- Pseudo-channels of the stacks that are present (R12, R33). -/
def State.channels (s : State) : List Nat := s.present.flatMap fun k => (List.range 64).map fun n => k * 64 + n
/-- The positions of the Strict slots of a reservation (R81). -/
def strictSlots (o k : Nat) : List Nat := (List.range k).map fun j => (o + j * 63 / k) % 63
/-- Positions that are not Open on some wheel. -/
def State.takenSlots (s : State) : List Nat := ((s.wheels.filter fun e => s.present.contains (e.1 / 4096)).map fun e => e.1 % 64).eraseDups
/-- The lowest wheel offset that fits (R81). -/
def State.wheelOffset (s : State) (k : Nat) : Option Nat :=
  let taken := s.takenSlots
  (List.range 63).find? fun o => (strictSlots o k).all fun p => !taken.contains p
/-- Reserve the Strict slots of a rope on every wheel (R81). -/
def State.reserveSlots (s : State) (key : RopeKey) (o k : Nat) : State :=
  { s with wheels := s.channels.foldl (fun w pc => (strictSlots o k).foldl (fun w p => insert w (pc * 64 + p) (.strict key)) w) s.wheels }
/-- Reservable classes that no strict rope holds (R18, R81). DEDUCED: log 61. -/
def State.openClasses (s : State) : List Nat := [3, 4, 5, 6].filter fun c => (find s.classHolders c).isNone
/-- Ridges that strict ropes own (R81). -/
def State.strictRidges (s : State) : List Nat := (s.ropes.filter (·.strict)).flatMap fun r => ridgesOf r.cores

/-! ## Placement -/

/-- What ROPE.ALLOC asks for (R49). -/
structure Ask where
  width : Nat
  height : Nat
  strict : Bool
  span : Bool
  asid : Bool
  slots : Nat
  classes : Nat
deriving DecidableEq, Repr

/-- Whether a rectangle lies on the grid, and within one die unless the rope may span (R80). -/
def Ask.inside (a : Ask) (origin : Nat) : Bool :=
  decide (gridX origin + a.width ≤ 32) && decide (gridY origin + a.height ≤ 32)
    && (a.span || (decide (gridX origin % 16 + a.width ≤ 16) && decide (gridY origin % 16 + a.height ≤ 16)))
/-- Whether a rope fits at an origin (R80, R81, R238). DESIGN CHOICE: log 11. -/
def State.fits (s : State) (a : Ask) (origin : Nat) : Bool :=
  let cores := rectCores origin a.width a.height
  let ridges := ridgesOf cores
  a.inside origin && cores.all (fun c => (s.core c).rope.isNone && !(s.core c).fenced)
    && (if a.strict then ridges.all fun r => (ridgeCores r).all fun c => (s.core c).rope.isNone
        else ridges.all fun r => !s.strictRidges.contains r)
    && s.crossingsOk ridges a.strict
    && (!a.strict || ((s.wheelOffset a.slots).isSome && decide (a.classes ≤ s.openClasses.length)
        && Config.powerFits s.strictRidges.length ridges.length))
/-- The first origin at which a rope fits (R80). DEDUCED: log 61. -/
def State.place (s : State) (a : Ask) : Option Nat := (List.range Config.cores).find? (s.fits a)
/-- The lowest rope number of an interface that is free (R35, R49). -/
def State.freeNumber (s : State) (w : Nat) : Option Nat := (List.range 1024).find? fun n => (s.rope? { world := w, num := n }).isNone
/-- A rope right after its allocation. DEDUCED: log 61. -/
def Ask.rope (a : Ask) (key : RopeKey) (origin offset : Nat) (classes : List Nat) (alloc : BitVec 16) : Rope :=
  { key := key, asid := a.asid, origin := origin, width := a.width, height := a.height, strict := a.strict,
    hdly := if (diesOf (rectCores origin a.width a.height)).length = 1 then 32 else 64, offset := offset, slots := a.slots,
    classes := classes, alloc := alloc, rtick := 0, holds := [], running := none, incoming := none, queue := [], freezing := .no,
    whole := false, captured := 0, breach := false, last := 0, lastStart := 0, lastEnd := 0, evict := none, evicted := none, yields := 0,
    barrier4 := none, cancel := none, replaying := false, lastError := none, fenced := false, peers := [], quiet := 0, table := none,
    absence := ([], false) }
/-- The regions of the cluster stores that a rope may reach (R124): its cores' own, or all of its ridges' if it is strict. -/
def Rope.regions (r : Rope) : List Nat :=
  if r.strict then (ridgesOf r.cores).flatMap fun g => (List.range 32).map fun i => g * 32 + i
  else r.cores.flatMap fun c => [clusterOf c * 32 + 2 * clusterIndex c, clusterOf c * 32 + 2 * clusterIndex c + 1]
/-- Regions pass to a rope; one that another tag held last is zeroed first (R62). -/
def State.takeRegions (s : State) (r : Rope) : State :=
  let tag := (r.key.world, s.gen r.key.world)
  let stale := r.regions.filter fun g => match find s.regionTags g with | some t => t != tag | none => true
  { s with store := s.store.filter (fun e => !stale.contains (e.1 / 2 ^ 18)),
           regionTags := r.regions.foldl (fun m g => insert m g tag) s.regionTags }
/-- The rope takes its cores; it has signalled nobody (R151). -/
def State.takeCores (s : State) (r : Rope) : State :=
  r.cores.foldl (fun s c => s.onCore c fun x => { x with rope := some r.key, signals := [] }) s
/-- A rope exists from here on (R24, R62, R80, R81, R151). -/
def State.addRope (s : State) (r : Rope) : State :=
  let s1 := { s with ropes := s.ropes ++ [r], allocNext := s.allocNext + 1,
                     classHolders := r.classes.foldl (fun m c => insert m c r.key) s.classHolders }
  let s2 := (s1.takeRegions r).takeCores r
  if r.strict then s2.reserveSlots r.key r.offset r.slots
  else if r.spans then s2.levelSteps ((diesOf r.cores).flatMap s2.stepGroup).eraseDups
  else s2
/-- The operands of ROPE.ALLOC, if they are in range (R49, R80). -/
def askOf (c : Cmd) : Option Ask :=
  let a : Ask := { width := cmdBits c 0 8, height := cmdBits c 8 8, strict := cmdBits c 16 1 == 1, span := cmdBits c 17 1 == 1,
                   asid := cmdBits c 18 1 == 1, slots := cmdP1 c % 2 ^ 8, classes := cmdP1 c / 2 ^ 8 % 2 ^ 3 }
  let most := if a.span then 32 else 16
  if cmdP0 c / 2 ^ 19 = 0 ∧ 1 ≤ a.width ∧ a.width ≤ most ∧ 1 ≤ a.height ∧ a.height ≤ most
      ∧ (if a.strict then cmdP1 c / 2 ^ 11 = 0 ∧ 1 ≤ a.slots ∧ a.slots ≤ 32 ∧ a.classes ≤ 4 else cmdP1 c = 0)
  then some a else none
/-- The effect of ROPE.ALLOC (R49, R80, R81). -/
def State.ropeAlloc (s : State) (c : Cmd) : State :=
  match askOf c with
  | none => s.complete c 2 0
  | some a => match s.freeNumber c.iface, s.place a with
    | some n, some o =>
      let offset := if a.strict then (s.wheelOffset a.slots).getD 0 else 0
      let r := a.rope { world := c.iface, num := n } o offset (s.openClasses.take a.classes) s.allocNext
      (s.addRope r).complete c 0 (n + o * 2 ^ 16 + r.hdly * 2 ^ 32 + offset * 2 ^ 48)
    | _, _ => s.complete c 5 0
/-- ROPE_ALLOC (R49, R80, R81). -/
def execCmdRopeAlloc (c : Cmd) (s : State) : Out := s.advance c 0x03 fun s => some (s.ropeAlloc c)

/-! ## Freeing -/

/-- A rope ends: its cores, slots, classes and power go back. -/
def State.dropRope (s : State) (r : Rope) : State :=
  let s1 := r.cores.foldl (fun s c => s.onCore c fun x => { x.idle with rope := none }) s
  { s1 with ropes := s1.ropes.filter (fun x => x.key != r.key), classHolders := s1.classHolders.filter (fun e => e.2 != r.key),
            wheels := s1.wheels.filter fun e => e.2 != .strict r.key }
/-- Release notices go to every package that a rope signalled (R152). -/
def State.notify (s : State) (r : Rope) : State :=
  { s with replies := s.replies ++ r.peers.map fun p => .notice p { pkg := Config.package, iface := r.key.world, rope := r.key.num } }
/-- Whether a launch runs, waits or is evicted on a rope. -/
def Rope.busy (r : Rope) : Bool := r.running.isSome || r.incoming.isSome || !r.queue.isEmpty || r.evicted.isSome
/-- Whether every signal of a rope to another package is acknowledged (R152). -/
def State.acked (s : State) (r : Rope) : Bool := s.outgoing.all fun o => !(o.rope == some r.key && o.signal.isSome)
/-- Nominal ticks of 1 s. -/
def oneSecond : Nat := 1900000000
/-- Whether a rope may be freed now (R152). -/
def State.quietEnough (s : State) (r : Rope) : Bool :=
  r.peers.isEmpty || (s.acked r && decide (r.quiet.toNat + oneSecond ≤ s.gtc.toNat))
/-- The rope that a command of an interface names. -/
def State.named (s : State) (c : Cmd) (num : Nat) : Option Rope := s.rope? { world := c.iface, num := num }
/-- The effect of ROPE.FREE (R49, R152): it cannot come yet while signals are young. Bits of P0 beside the rope must be zero. DESIGN CHOICE: log 50. -/
def State.ropeFree (s : State) (c : Cmd) : Option State :=
  if cmdP0 c / 2 ^ 12 ≠ 0 ∨ cmdP1 c ≠ 0 then some (s.complete c 2 0)
  else match s.named c (cmdBits c 0 12) with
    | none => some (s.complete c 2 0)
    | some r =>
      if r.busy then some (s.complete c 4 0)
      else if s.quietEnough r then some (((s.notify r).dropRope r).complete c 0 0)
      else none
/-- ROPE_FREE (R49, R152). -/
def execCmdRopeFree (c : Cmd) (s : State) : Out := s.advance c 0x04 fun s => s.ropeFree c
/-- ROPE_FREE_QUIET_EXPIRY (R152): a ROPE.FREE that waits for a rope's signals completes, once 1 s has passed since the last
acknowledgement. -/
def execEvRopeFreeQuietExpiry (rope : RopeKey) (s : State) : Out :=
  match (s.iface rope.world).commands.find? fun p => p.started && cmdOp p.cmd == 0x04 && cmdBits p.cmd 0 12 == rope.num with
  | some p => s.advance p.cmd 0x04 fun s => s.ropeFree p.cmd
  | none => .next s

end Sys2Proof.Machine
end

