-- ==== Sys2Proof/Machine/Loader.lean ====
section
/-! DEFINITION. Program images (R51, R52), LAUNCH (R53, R366), and the loader (R61, R86, R87, R99, R202). -/
namespace Sys2Proof.Machine

/-! ## Image fields -/

/-- A block descriptor (R51): offset and length of the block, entry, `tvec`, its zero field, and its core map. -/
structure Block where
  off : Nat
  len : Nat
  entry : Nat
  tvec : Nat
  zero : Nat
  map : Nat
deriving DecidableEq, Repr
/-- Descriptor k of an image (R51). -/
def blockAt (img : List Byte) (k : Nat) : Block :=
  let a := 64 + 144 * k
  { off := field img a 4, len := field img (a + 4) 4, entry := field img (a + 8) 2, tvec := field img (a + 10) 2, zero := field img (a + 12) 4,
    map := field img (a + 16) 128 }
/-- The descriptors of an image. -/
def blocksOf (img : List Byte) : List Block := (List.range (field img 10 2)).map (blockAt img)
/-- An overlay block has an empty core map (R51). -/
def Block.overlay (b : Block) : Bool := b.map == 0
/-- Whether two blocks overlap. -/
def Block.meets (a b : Block) : Bool := decide (a.off < b.off + b.len) && decide (b.off < a.off + a.len)
/-- Whether a block's field checks of R52 hold, items 2 to 5; an entry that is no multiple of 8, which R51 gives as its form, fails with
them. DESIGN CHOICE: log 50. -/
def Block.ok (b : Block) (first length : Nat) : Bool :=
  b.zero == 0 && b.off % 8 == 0 && decide (first ≤ b.off) && decide (b.off + b.len ≤ length) && b.len % 8 == 0 && decide (8 ≤ b.len)
    && decide (b.len ≤ 65536) && b.entry % 8 == 0
    && (if b.overlay then b.entry == 0 && b.tvec == 0 else decide (b.entry < b.len) && b.tvec / 2 % 4 == 0)
/-- Whether no two blocks overlap. -/
def apart : List Block → Bool
  | [] => true
  | b :: r => (r.all fun x => !b.meets x) && apart r
/-- The checks of R52 on an image as read. -/
def imageOk (img : List Byte) : Bool :=
  let f := field img
  let n := f 10 2
  let w := f 8 1
  let h := f 9 1
  let flags := f 6 1
  let bs := blocksOf img
  let scan := f 16 8
  decide (64 ≤ img.length) && f 0 4 == 0x4D475045 && f 4 2 == 1 && flags / 8 == 0 && f 7 1 == 0 && f 12 4 == 0 && f 24 40 == 0
    && decide (1 ≤ w) && decide (w ≤ 32) && decide (1 ≤ h) && decide (h ≤ 32) && decide (1 ≤ n) && decide (n ≤ 2048)
    && decide (64 + 144 * n ≤ img.length) && (bs.all fun b => b.ok (64 + 144 * n) img.length) && apart bs
    && ((List.range (w * h)).all fun c => (bs.filter fun b => b.map / 2 ^ c % 2 == 1).length == 1)
    && (bs.all fun b => b.map / 2 ^ (w * h) == 0)
    && (scan == 0 || (flags / 4 % 2 == 1 && scan / 2 ^ 12 != 0))
/-- Bytes that the copy of an image takes: header, descriptors and core blocks (R52). -/
def copyLength (img : List Byte) : Nat :=
  64 + 144 * field img 10 2 + (((blocksOf img).filter fun b => !b.overlay).map (·.len)).sum

/-! ## LOAD -/

/-- Bytes of all copies of an interface (R52). -/
def Iface.copies (i : Iface) : Nat := (i.images.map fun e => copyLength e.2.bytes).sum
/-- The lowest free handle (R35, R52). -/
def Iface.freeHandle (i : Iface) : Option Nat := (List.range 256).find? fun k => (find i.images k).isNone
/-- The effect of LOAD (R52, R55, R75): pages first, then the fields, then room. A poisoned image draws DENIED. DESIGN CHOICE: log 25. -/
def State.load_ (s : State) (c : Cmd) : State :=
  let va := cmdP0 c
  let n := cmdP1 c
  if va % 8 ≠ 0 ∨ n % 8 ≠ 0 ∨ 2 ^ 26 < n ∨ !physOk c va then s.complete c 2 0
  else if !s.rangeOk c.iface va n .image ∨ s.poisonedFor c.iface va n then s.complete c 8 0
  else s.haulFor c false (fun _ => .best) (s.unitsFor c.iface va n .image) fun s =>
    let img := s.readFor c.iface va n
    if !imageOk img then s.complete c 2 0
    else match (s.iface c.iface).freeHandle with
      | none => s.complete c 5 0
      | some k =>
        if 2 ^ 28 < (s.iface c.iface).copies + copyLength img then s.complete c 5 0
        else
          (s.onIface c.iface fun i =>
            { i with images := insert i.images k { va := va, bytes := img, length := n, digest := sha384 img } }).complete c 0 k
/-- LOAD (R49, R52). -/
def execCmdLoad (c : Cmd) (s : State) : Out := s.advance c 0x05 fun s => some (s.load_ c)

/-! ## LAUNCH -/

/-- Whether an image may run on a rope (R53). -/
def imageFits (img : List Byte) (r : Rope) : Bool :=
  let flags := field img 6 1
  field img 8 1 == r.width && field img 9 1 == r.height && flags % 2 == (if r.strict then 1 else 0)
    && flags / 2 % 2 == (if r.hdly = 64 then 1 else 0)
/-- The rope numbers that a scan word names (R211, R366). -/
def scanNumbers (v : Nat) : List Nat := ((List.range 52).filter fun j => v / 2 ^ (12 + j) % 2 == 1).map fun j => v % 2 ^ 12 + j
/-- `scom` as firmware sets it from a scan word (R366): its base is the lowest number listed. -/
def scomOf (v : Nat) : Word :=
  match scanNumbers v with
  | [] => 0
  | n :: r => BitVec.ofNat 64 (n + ((n :: r).map fun m => 2 ^ (12 + (m - n))).sum)
/-- Whether a scan list names only allocated ropes of the world, and not the launching one (R366). -/
def State.scanListOk (s : State) (img : List Byte) (r : Rope) : Bool :=
  (scanNumbers (field img 16 8)).all fun n => n != r.key.num && (s.rope? { world := r.key.world, num := n }).isSome
/-- Whether a rope holds a fenced core (R238). -/
def State.holdsFenced (s : State) (r : Rope) : Bool := r.cores.any fun c => (s.core c).fenced
/-- A launch as LAUNCH queues it. -/
def newLaunch (c : Cmd) (id handle event : Nat) : Launch :=
  { id := id, cmd := c, handle := handle, event := event, arg := BitVec.ofNat 64 (cmdP1 c), rows := [], started := 0, firstBase := 0,
    aligned := false, firstCode := 0, firstSub := 0, firstCore := 0xFFFF, faults := 0, failed := false, adopted := false,
    holds := 0, stalls := 0 }
/-- The effect of LAUNCH (R49, R53, R238, R366): the launch joins the queue of its rope. -/
def State.launch (s : State) (c : Cmd) : State :=
  let handle := cmdBits c 0 8
  match s.named c (cmdBits c 8 12), find (s.iface c.iface).images handle with
  | some r, some img =>
    if cmdP0 c / 2 ^ 32 ≠ 0 ∨ !imageFits img.bytes r ∨ !s.scanListOk img.bytes r then s.complete c 2 0
    else if s.holdsFenced r then s.complete c 5 0
    else State.setRope { s with serial := s.serial + 1 }
      { r with queue := r.queue ++ [newLaunch c s.serial handle (cmdBits c 20 12)] }
  | _, _ => s.complete c 2 0
/-- LAUNCH (R49, R53): once queued it stays incomplete until its launch ends (R58). -/
def execCmdLaunch (c : Cmd) (s : State) : Out := s.advance c 0x06 fun s => some (s.launch c)

/-! ## The loader -/

/-- The clear of R61: a core whose new stream carries another tag. -/
def Core.cleared (c : Core) : Core :=
  { Core.clear with rope := c.rope, fenced := c.fenced, signals := c.signals, segments := c.segments, scanTicks := c.scanTicks }
/-- A domain register that the loader fills (R99). -/
def domWord (id count index : Nat) : Word := BitVec.ofNat 64 (2 ^ 63 + id % 2 ^ 16 * 2 ^ 32 + count % 2 ^ 16 * 2 ^ 16 + index % 2 ^ 16)
/-- `dom1` to `dom3` of a core (R99). -/
def Rope.domains (r : Rope) (core : Nat) : Word × Word × Word :=
  let mine := r.cores.filter fun c => clusterOf c == clusterOf core
  (domWord (r.localOf core) 1 0, domWord (clusterOf core) mine.length (mine.idxOf core),
   domWord r.key.num (r.width * r.height) (r.localOf core))
/-- The core block of an image that a rope-local core runs (R51, R52). -/
def coreBlock (img : List Byte) (n : Nat) : Block :=
  ((blocksOf img).find? fun b => b.map / 2 ^ n % 2 == 1).getD (blockAt img 0)
/-- The scalar registers at the start of a launch (R53, R86). -/
def startRegs (arg : Word) (va : Nat) : Vector Word 32 :=
  ((Vector.replicate 32 (0 : Word)).set 1 arg (by decide)).set 2 (BitVec.ofNat 64 va) (by decide)
/-- One core as the loader starts it (R53, R61, R86, R99, R202, R366). -/
def Core.start (c : Core) (r : Rope) (core : Nat) (tag : Nat × BitVec 24) (l : Launch) (img : Image) : Core :=
  let base : Core := if c.tag = some tag then c.dropEngines else c.cleared
  let n := r.localOf core
  let b := coreBlock img.bytes n
  let doms := r.domains core
  let flags := field img.bytes 6 1
  let im := writeAllZ base.im (cellsAt 0 ((img.bytes.drop b.off).take b.len))
  let preds := Vector.replicate 16 (0 : Word)
  { base with
    tag := some tag, run := l.id, halted := false, stopped := false, s := startRegs l.arg img.va, b := Vector.replicate 8 0,
    pc := BitVec.ofNat 64 b.entry, level := if flags / 4 % 2 = 1 then 2 else 1, prev := 0, handler := false, holdc := 0, stallc := 0,
    katc := 0, dom1 := doms.1, dom2 := doms.2.1, dom3 := doms.2.2, dom4 := 0, tvec := BitVec.ofNat 64 b.tvec, tcause := 0, tpc := 0,
    tval := 0, tinfo := 0, tsave := 0, scom := scomOf (field img.bytes 16 8), shbase := 0, shlim := 0, dbgc := 0, dbga := 0,
    vrb := 0, im := im, preds := preds, mstatus := List.replicate 8 .none, vstatus := .none, brkHit := false, dbgEvent := none }
/-- The launch that a row would be given (R86, R87): the incoming one, else the next of the queue. -/
def Rope.next (r : Rope) : Option Launch := match r.incoming with | some l => some l | none => r.queue.head?
/-- Cores of a row of a rope. -/
def Rope.row (r : Rope) (k : Nat) : List Nat := (List.range r.width).map fun x => coreAt (gridX r.origin + x) (gridY r.origin + k)
/-- Whether a row's lease bit is free (R86): every core of it has retired its halt, or runs nothing. -/
def State.rowFree (s : State) (r : Rope) (k : Nat) : Bool := (r.row k).all fun c => (s.core c).halted || (s.core c).run == 0
/-- The rope's incoming launch becomes its running one, once every row is loaded and the outgoing one has ended (R79, R87). -/
def Rope.promote (r : Rope) : Rope :=
  match r.incoming with
  | some l => if r.running.isNone ∧ l.rows.length = r.height then { r with running := some l, incoming := none, rtick := 0, yields := 0 } else r
  | none => r
/-- The stall ticks of a row go to the launch that its cores leave (R98, R102). -/
def State.leaveRow (s : State) (r : Rope) (k : Nat) (l : Launch) : Launch :=
  { l with stalls := l.stalls + (((r.row k).filter fun c => (s.core c).run == l.id).map fun c => (s.core c).stallc.toNat).sum }
/-- A row of a rope is loaded with a launch (R86). -/
def State.loadRow_ (s : State) (r : Rope) (k : Nat) (l : Launch) (img : Image) : State :=
  let tag := (r.key.world, s.gen r.key.world)
  let l1 := { l with rows := l.rows ++ [k], started := if l.rows.isEmpty then s.gtc else l.started }
  let s1 := (r.row k).foldl (fun s c => s.onCore c fun x => x.start r c tag l1 img) s
  s1.onRope r.key fun r =>
    { r with incoming := some l1, running := r.running.map (s.leaveRow r k), queue := if r.incoming.isNone then r.queue.drop 1 else r.queue,
             last := l.id, lastStart := if l.rows.isEmpty then s.gtc else r.lastStart, lastEnd := if l.rows.isEmpty then 0 else r.lastEnd }.promote
/-- Whether a rope takes rows of a next launch: not while an eviction of a running launch is under way or a launch is out (R104, R105), not sealed, and not
while one that has ended faulted still waits for its accesses (R208). DEDUCED: log 56. -/
def Rope.loads (r : Rope) : Bool := r.freezing == .no && (r.evict.isNone || r.running.isNone) && r.evicted.isNone && r.failing.isNone
/-- ROW_LOAD (R61, R86, R87, R99): a free row is filled with the next launch of its rope. -/
def execEvRowLoad (rope : RopeKey) (row : Nat) (s : State) : Out :=
  match s.rope? rope with
  | none => .next s
  | some r => match r.next with
    | none => .next s
    | some l => match find (s.iface rope.world).images l.handle with
      | none => .next s
      | some img =>
        if r.loads ∧ row < r.height ∧ !l.rows.contains row ∧ s.rowFree r row ∧ !s.holdsFenced r then .next (s.loadRow_ r row l img)
        else .next s

end Sys2Proof.Machine
end

