-- ==== Sys2Proof/Machine/Preempt.lean ====
section
/-! DEFINITION. EVICT and RESUME (R49, R83, R104 to R106, R215, R225, R238). -/
namespace Sys2Proof.Machine

/-! ## Scan slots -/

/-- The stacks that hold a range of a world's addresses (R83), as far as its pages may be used as an instruction asks. PRESUMED: log 10. -/
def State.stacksOf (s : State) (w va n : Nat) (want : Want) : List Nat :=
  ((pieces (n / 65536 + 2) va n).filterMap fun p => match s.mapFor w p.1 p.2 want with
    | .ok m => if m.medium = .hbm then some (m.pa / Config.stackBytes) else none
    | .error _ => none).eraseDups
/-- Two Open slots of a wheel, if it has as many; which two is not given (R83). DESIGN CHOICE: log 55. -/
def State.twoOpen (s : State) (pc : Nat) : Option (List Nat) :=
  let all := ((List.range 63).filter fun p => (find s.wheels (pc * 64 + p)).isNone).map fun p => pc * 64 + p
  let i := Config.freeNat (s.free + 2 * pc) % max 1 all.length
  let rest := all.eraseIdx i
  let j := Config.freeNat (s.free + 2 * pc + 1) % max 1 rest.length
  if all.length < 2 then none else some [all.getD i 0, rest.getD j 0]
/-- Convert the slots that an image of a world needs (R83), once for a command: none while some wheel has fewer than two Open. DESIGN CHOICE: log 55. -/
def State.convertSlots (s : State) (c : Cmd) (w va n : Nat) (want : Want) : Option State :=
  let pcs := (s.stacksOf w va n want).flatMap fun k => (List.range 64).map fun i => k * 64 + i
  let picks := pcs.map s.twoOpen
  if s.scanSlots.any (·.1 == c) then some s
  else if picks.any (·.isNone) then none
  else
    let mine := picks.flatMap (·.getD [])
    some { s with wheels := mine.foldl (fun w k => insert w k (.scan c.iface)) s.wheels,
                  scanSlots := if mine.isEmpty then s.scanSlots else s.scanSlots ++ [(c, mine)] }

/-! ## EVICT -/

/-- The largest image that a rope's eviction can write (R219, R222). DESIGN CHOICE: log 55. -/
def State.fullImage (s : State) (r : Rope) : Nat :=
  304 + r.cores.length * recordLen 0x3FF
    + ((s.crossLinks r.cores).map fun x => (8 + 512 * x.2.2.2 + 63) / 64 * 64).sum
/-- The effect of EVICT (R49, R104): the rope runs on to its next yield point, or to the end of the grace period. Bits of P0 in no field must be zero. DEDUCED: log 56. DESIGN CHOICE: log 50. -/
def State.evictStart (s : State) (c : Cmd) : Option State :=
  if cmdP0 c / 2 ^ 32 ≠ 0 ∨ cmdBits c 12 4 ≠ 0 ∨ cmdP1 c % 256 ≠ 0 ∨ !physOk c (cmdP1 c) then some (s.complete c 2 0)
  else match s.named c (cmdBits c 0 12) with
    | none => some (s.complete c 2 0)
    | some r =>
      if r.running.isNone ∧ r.incoming.isNone then some (s.complete c 2 0)
      else (s.convertSlots c r.key.world (cmdP1 c) (s.fullImage r) .write).map fun s1 =>
        s1.onRope r.key fun r => { r with evict := some { cmd := c, since := s.gtc, froze := false } }
/-- EVICT (R49, R104). -/
def execCmdEvict (c : Cmd) (s : State) : Out := s.advance c 0x07 fun s => s.evictStart c

/-! ## RESUME -/

/-- One core of a yield image (R105, R225): instruction memory from the launch's image, and the control segment; its queues have no
base. -/
def Core.fromYield (c : Core) (r : Rope) (core : Nat) (tag : Nat × BitVec 24) (run : Nat) (img : Image) (ctl : List Byte) : Core :=
  let base : Core := if c.tag = some tag then c.dropEngines else c.cleared
  let b := coreBlock img.bytes (r.localOf core)
  let c1 : Core := { base with tag := some tag, run := run, halted := false, stopped := false, fmtq := [],
                               im := writeAllZ base.im (cellsAt 0 ((img.bytes.drop b.off).take b.len)) }
  c1.setCtl ctl
/-- RESUME of a yield image (R105). DEDUCED: log 57. -/
def State.resumeYield (s : State) (r : Rope) (l : Launch) (prog : Image) (img : List Byte) : State :=
  let tag := (r.key.world, s.gen r.key.world)
  let s1 := (r.cores.mapIdx fun k c => (k, c)).foldl (fun s x =>
    s.onCore x.2 fun y => y.fromYield r x.2 tag l.id prog (imageSeg img x.1 0)) s
  s1.onRope r.key fun r => { r with running := some { l with aligned := true }, evicted := none, rtick := field img 16 8, yields := 0 }
/-- On RESUME the proxy absence token of a rope is withdrawn (R106): the member arrives in the normal way. -/
def State.withdraw (s : State) (k : RopeKey) : State :=
  match s.rope? k with
  | none => s
  | some r =>
    if !r.absence.2 then s
    else
      let w := ((r.cores.map fun c => (s.core c).dom4).find? (·.getLsbD 63)).getD 0
      (s.onRope k fun r => { r with absence := (r.absence.1, false) }).reply (.absence (w.toNat / 2 ^ 32 % 2 ^ 16) false)
/-- The level-4 barrier of a rope completed while it was out (R106): it resumes with the completion seen. DEDUCED: log 57. -/
def State.passMissed (s : State) (r : Rope) : State :=
  if r.barrier4.isNone ∧ s.arrived4 r then s.completeBarriers r 4 r.rtick else s
/-- RESUME of a scan image (R105, R215): the segments shift in, and the rope is thawed at the capture tick. DEDUCED: log 57. -/
def State.resumeScan (s : State) (r : Rope) (l : Launch) (img : List Byte) : State :=
  let s1 := r.cores.foldl (fun s c => s.onCore c fun x => { x with segments := 0, scanTicks := [] }) s
  let s2 := s1.shiftIn img 0x3FF r.cores r.key.world
  let s3 := r.cores.foldl (fun s c => s.onCore c fun x => { x with run := l.id }) s2
  let s4 := s3.onRope r.key fun r =>
    { r with running := some l, evicted := none, freezing := .thawing 0, captured := field img 16 8,
             yields := ((r.cores.map fun c => (s3.core c).yieldCount).min?).getD 0 }
  let s5 := outState s4 (execEvThawResume { s4 with cur := { s4.cur with rope := r.key } })
  match s5.rope? r.key with
  | some r1 => s5.passMissed r1
  | none => s5
/-- A restore that fails (R49, R217): FAULTED, with the fault code where LAUNCH gives it. DEDUCED: log 57. -/
def State.resumeFault (s : State) (c : Cmd) (code : Nat) : State := s.complete c 7 (code * 2 ^ 128)
/-- The restore of RESUME (R49, R217, R225), with its checks in the order of R217. DEDUCED: log 57. -/
def State.restore (s : State) (c : Cmd) (r : Rope) (l : Launch) : State :=
  let va := cmdP1 c
  let w := r.key.world
  if !s.rangeOk w va 256 .read ∨ s.poisonedFor w va 256 then s.complete c 8 0
  else
    let hd := s.readFor w va 256
    let yield := field hd 14 1 / 4 % 2 == 1
    let mask : BitVec 10 := if yield then 0x001 else 0x3FF
    if !s.rangeOk w va (imageLen hd) .read then s.complete c 8 0
    else if (s.headerFails hd mask r.origin r.width r.height w true).isSome ∨ (yield ∧ field hd 12 2 ≠ 1) then s.resumeFault c 0x21
    else
      let img := s.readFor w va (imageLen hd)
      let poison (off n : Nat) : Option Nat := if s.poisonedFor w (va + off) n then some (va + off) else none
      match shiftFails img mask r.cores.length poison with
      | some (code, _) => (s.clearCores r.cores).resumeFault c code
      | none =>
        if s.poisonedFor w va img.length then (s.clearCores r.cores).resumeFault c 0x0E
        else if img.drop (img.length - 48) ≠ sha384 ((img.drop 256).take (field hd 40 8)) then (s.clearCores r.cores).resumeFault c 0x22
        else if yield then match find (s.iface w).images l.handle with
          | some prog => ((s.resumeYield r l prog img).withdraw r.key).complete c 0 0
          | none => s.complete c 2 0
        else ((s.resumeScan r l img).withdraw r.key).complete c 0 0
/-- Length of the image at an address, as its header says: that of the header where it cannot be read (R83, R219). -/
def State.imageAt (s : State) (w va : Nat) : Nat :=
  if s.rangeOk w va 256 .read && !s.poisonedFor w va 256 then imageLen (s.readFor w va 256) else 256
/-- The effect of RESUME (R49, R83, R105, R238). Bits of P0 beside the rope must be zero. DEDUCED: log 57. DESIGN CHOICE: log 50. -/
def State.resume (s : State) (c : Cmd) : Option State :=
  if cmdP0 c / 2 ^ 12 ≠ 0 ∨ cmdP1 c % 256 ≠ 0 ∨ !physOk c (cmdP1 c) then some (s.complete c 2 0)
  else match s.named c (cmdBits c 0 12) with
    | none => some (s.complete c 2 0)
    | some r => match r.evicted with
      | none => some (s.complete c 2 0)
      | some l =>
        if s.holdsFenced r then some (s.complete c 5 0)
        else
          let w := r.key.world
          let n := s.imageAt w (cmdP1 c)
          (s.convertSlots c w (cmdP1 c) n .read).map fun s1 =>
            s1.haulFor c false (s1.scanner w .best) (s1.unitsFor w (cmdP1 c) n .read) fun s => s.restore c r l
/-- RESUME (R49, R105). -/
def execCmdResume (c : Cmd) (s : State) : Out := s.advance c 0x08 fun s => s.resume c

end Sys2Proof.Machine
end

