-- ==== Sys2Proof/Machine/Session.lean ====
section
/-! DEFINITION. Sessions, events and queries (R39, R47, R49, R50, R56 to R58, R67 to R69, R102): OPEN, CLOSE, the kill fence, EVENT.WAIT,
EVENT.SET, QUERY, RESYNC. -/
namespace Sys2Proof.Machine

/-! ## OPEN -/

/-- The effect of OPEN (R49, R58, R379). DEDUCED: log 52. -/
def State.open_ (s : State) (c : Cmd) : State :=
  let n := c.iface
  if (s.iface n).isOpen then s.complete c 4 0
  else if cmdP0 c % 65536 ≠ 0 ∨ cmdP1 c ≠ 0 ∨ !physOk c (cmdP0 c) then s.complete c 2 0
  else if !s.rangeOk n (cmdP0 c) 0x18000 .readWrite then s.complete c 8 0
  else
    let s1 := s.onIface n fun i =>
      { i with events := cmdP0 c, lappedClosed := false, state := if i.state = .lapped then .lapped else .running }
    s1.complete c 0 (n + ringSlots * 2 ^ 8 + 4096 * 2 ^ 32 + cmdP0 c * 2 ^ 64)
/-- OPEN (R49). -/
def execCmdOpen (c : Cmd) (s : State) : Out := s.advance c 0x01 fun s => some (s.open_ c)

/-! ## Closing an interface -/

/-- A world's generation rises by 1; from 0xFF_FFFF it wraps, and a new key is drawn (R67). -/
def World.bump (w : World) : World := { w with gen := w.gen + 1, draw := if w.gen = 0xFFFFFF then w.draw + 1 else w.draw }
/-- Which accesses of a core on their way to a controller reach it before the fence's new generation does (R69): of each class the first
ones, how many is not given; the others are dropped there (R68). DESIGN CHOICE: log 58. -/
def State.fenceCut (s : State) (id : Nat) : State :=
  let c := s.core id
  let count (k n : Nat) : Nat := Config.freeNat (s.free + 32 * id + k) % (n + 1)
  let first (cls : Nat) : List Access := let l := c.accesses.filter fun a => a.cls == cls; l.take (count (cls % 16) l.length)
  let leaving (cls : Nat) : List Flight :=
    (c.flights.filter fun f => f.effect.leavesCore && classOf f.job.entry.ins == cls).mergeSort fun a b =>
      decide (a.tick < b.tick) || (a.tick == b.tick && decide (a.job.seq ≤ b.job.seq))
  let before (cls : Nat) : List Flight := let l := leaving cls; l.take (count (16 + cls % 16) l.length)
  s.onCore id fun c => { c with
    accesses := c.accesses.filter fun a => (first a.cls).any fun x => x.id == a.id,
    flights := c.flights.filter fun f => !f.effect.leavesCore || (before (classOf f.job.entry.ins)).any fun x => x.id == f.id }
/-- The record of a launch that CLOSE discards, where the mode asks for one (R102). -/
def State.discardRecord (s : State) (r : Rope) (l : Option Launch) : State :=
  match l with
  | some l => if l.adopted then s else (s.writeRecord r l 2).1
  | none => s
/-- A rope with nothing on it. -/
def Rope.emptied (r : Rope) : Rope :=
  { r with running := none, incoming := none, queue := [], holds := [], freezing := .no, evict := none, evicted := none, barrier4 := none,
           cancel := none, replaying := false }
/-- A world's ropes, whatever runs on them, are frozen and their launches discarded without an image (R49, R50, R69). What reached a controller in time
performs as far as its slots have room, and the rest is dropped. A launch that EVICT has put out leaves no completion record: whether it should
the spec does not say. DEDUCED: log 58. DESIGN CHOICE: log 58. -/
def State.dropRopes (s : State) (w : Nat) : State :=
  (s.ropes.filter fun r => r.key.world == w).foldl (fun s r =>
    let run := r.running.map (s.tally r)
    let next := r.incoming.map (s.tally r)
    let s1 := r.cores.foldl (fun s c =>
      if (s.core c).run = 0 then s else (((s.fenceCut c).finishAccesses c).flushWrites c).onCore c Core.idle) s
    ((s1.discardRecord r run).discardRecord r next).onRope r.key Rope.emptied) s
/-- The ropes of a world are freed, so that their cores, slots and classes can go to others (R69). -/
def State.freeRopes (s : State) (w : Nat) : State := (s.ropes.filter fun r => r.key.world == w).foldl (fun s r => s.dropRope r) s
/-- Every other command of an interface that is not complete ends CANCELLED (R48, R49). -/
def State.cancelAll (s : State) (n : Nat) (c : Cmd) : State :=
  ((s.iface n).commands.filter fun p => p.cmd != c).foldl (fun s p => s.complete p.cmd 9 0) s
/-- An interface closes for a command, and its kill fence begins: its ropes are discarded, and the new generation is written (R49, R68, R69). DEDUCED: log 58. -/
def State.closeFor (s : State) (n : Nat) (c : Cmd) : State :=
  let s1 := (s.cancelAll n c).dropRopes n
  let s2 := s1.setWorld n (s1.world n).bump
  let s3 := s.requests.foldl (fun s e => s.staleRequest n e.1) s2
  s3.onIface n fun i => { i with images := [], closing := some c }
/-- The effect of CLOSE (R49). -/
def State.close (s : State) (c : Cmd) : State :=
  if cmdP0 c ≠ 0 ∨ cmdP1 c ≠ 0 then s.complete c 2 0 else s.closeFor c.iface c
/-- CLOSE (R49, R50). -/
def execCmdClose (c : Cmd) (s : State) : Out := s.advance c 0x02 fun s => some (s.close c)
/-- Write the waiting responses that the ring has room for (R47). DEDUCED: log 58. -/
def Iface.flush (i : Iface) : Nat → Iface
  | 0 => i
  | fuel + 1 => if i.replies.isEmpty ∨ ringSlots ≤ i.swp - i.srp then i else i.writeResponse.flush fuel
/-- The binding that a command leaves: BIND names it, REVOKE keeps it (R54). -/
def boundAfter (c : Cmd) (old : Option (Word × BitVec 16)) : Option (Word × BitVec 16) :=
  if cmdOp c ≠ 0x20 then old
  else if cmdBits c 8 1 = 1 then none else some (BitVec.ofNat 64 (cmdP1 c), BitVec.ofNat 16 (cmdBits c 16 16))
/-- KILL_FENCE (R49, R54, R69): it completes once no request with the world's old generation remains; the world's cores are then free, and CLOSE is
answered, or the binding command of interface 0 ends with the ring initialised again. Where interface 0 has been closed meanwhile, which
cancelled its BIND or REVOKE, the fence that has begun completes all the same, unanswered; the spec says nothing of it. A signal of another
package that waits here for its predecessors (R152) is no request of the world's for the fence: it waits on; the spec does not say which it is. DEDUCED: log 58.
DESIGN CHOICE: log 58. -/
def execEvKillFence (world : Nat) (s : State) : Out :=
  match (s.iface world).closing with
  | none => .next s
  | some c =>
    if s.outgoing.any (fun o => match o.rope with | some k => k.world == world | none => false) then .next s
    else if cmdOp c = 0x02 then .next (if (s.pending c).isNone then s else (s.freeRopes world).complete c 0 0)
    else
      let s1 := (s.freeRopes world).onIface world fun i => { (i.flush i.replies.length).reinit with bound := boundAfter c i.bound }
      .next (if (s.pending c).isNone then s1 else s1.complete c 0 0)

/-! ## Events -/

/-- EVENT_WAIT (R49): it completes as soon as it starts. -/
def execCmdEventWait (c : Cmd) (s : State) : Out :=
  s.advance c 0x09 fun s => some (s.complete c (if cmdP1 c = 0 then 0 else 2) 0)
/-- The effect of EVENT.SET (R49, R58). An event word on poison draws DENIED: the spec names no status for it. DESIGN CHOICE: log 25. -/
def State.eventSet (s : State) (c : Cmd) : State :=
  if cmdBits c 12 4 ≠ 0 ∨ cmdP0 c / 2 ^ 17 ≠ 0 then s.complete c 2 0
  else
    let v := BitVec.ofNat 64 (cmdP1 c)
    match s.eventOp c.iface (cmdBits c 0 12) .readWrite fun old => if cmdBits c 16 1 = 1 then old + v else v with
    | some (t, old) => t.complete c 0 old.toNat
    | none => s.complete c 8 0
/-- EVENT_SET (R58). -/
def execCmdEventSet (c : Cmd) (s : State) : Out := s.advance c 0x0A fun s => some (s.eventSet c)

/-! ## Summaries -/

/-- The ropes of a world by number. -/
def State.ropesOf (s : State) (w : Nat) : List Rope :=
  (s.ropes.filter fun r => r.key.world == w).mergeSort fun a b => decide (a.key.num ≤ b.key.num)
/-- A rope record (R57), as a little-endian number. -/
def Rope.record (r : Rope) : Nat :=
  r.key.num + r.origin * 2 ^ 16 + r.width * 2 ^ 32 + r.height * 2 ^ 40 + (if r.strict then 2 ^ 48 else 0)
    + (if r.running.isSome || r.incoming.isSome then 1 else if r.evicted.isSome then 2 else 0) * 2 ^ 56 + r.queue.length % 2 ^ 16 * 2 ^ 64
    + r.offset * 2 ^ 80 + r.slots * 2 ^ 88 + (if r.breach then 2 ^ 96 else 0) + r.lastStart.toNat * 2 ^ 128 + r.lastEnd.toNat * 2 ^ 192
/-- Whether a strict-timing breach has been seen on a rope of a world (R23, R56, R76): a rope that has been freed is none of them any more. World 0 sees
a breach of its own ropes so, and by nothing else one of another world's: R23 has it see them and no rule names the channel. DESIGN CHOICE: log 60, log 68. -/
def State.breached (s : State) (w : Nat) : Bool := (s.ropesOf w).any (·.breach)
/-- QUERY item 0 (R56). -/
def State.summary (s : State) (n : Nat) : Nat :=
  let i := s.iface n
  n + (match i.state with | .closed => 0 | .running => 1 | .lapped => 2) * 2 ^ 8
    + ((if s.degraded then 1 else 0) + (if s.breached n then 2 else 0)) * 2 ^ 16 + i.events * 2 ^ 64 + (s.ropesOf n).length * 2 ^ 128
    + i.images.length * 2 ^ 144 + i.commands.length % 2 ^ 16 * 2 ^ 160 + i.dropped * 2 ^ 176 + i.refusals * 2 ^ 192
/-- A crossing-table entry (R28). A delay above 255 ticks is reported as 255, the most that its field holds. DESIGN CHOICE: log 3. -/
def Crossing.word (x : Crossing) : Nat := x.arch % 2 ^ 8 + x.pad % 2 ^ 8 * 2 ^ 8 + min 255 x.measured * 2 ^ 16 + x.state % 4 * 2 ^ 30
/-- The effect of QUERY (R49, R56). Bits of P0 in no listed field must be zero here as where the row says so. An event word that cannot be read as
a wait entry's is (R45), for its page or for poison, draws DENIED: the spec names no status for it. DESIGN CHOICE: log 25, log 50. -/
def State.query (s : State) (c : Cmd) : State :=
  let item := cmdBits c 0 8
  let k := cmdBits c 16 12
  if cmdBits c 8 8 ≠ 0 ∨ cmdP0 c / 2 ^ 28 ≠ 0 ∨ cmdP1 c ≠ 0 ∨ 3 < item then s.complete c 2 0
  else if item = 0 then (if k = 0 then s.complete c 0 (s.summary c.iface) else s.complete c 2 0)
  else if item = 1 then (match s.named c k with | some r => s.complete c 0 r.record | none => s.complete c 2 0)
  else if item = 2 then (match s.crossings[k]? with | some x => s.complete c 0 x.word | none => s.complete c 2 0)
  else match s.eventWord c.iface k with
    | some v => s.complete c 0 v.toNat
    | none => s.complete c 8 0
/-- QUERY (R56). -/
def execCmdQuery (c : Cmd) (s : State) : Out := s.advance c 0x0B fun s => some (s.query c)
/-- The RESYNC summary (R57). -/
def State.resyncBytes (s : State) (n : Nat) : List Byte :=
  let i := s.iface n
  let rs := s.ropesOf n
  leBytes 4 1 ++ leBytes 4 i.lastgood.toNat ++ leBytes 8 i.crp ++ leBytes 8 i.swp ++ leBytes 2 rs.length ++ leBytes 2 i.images.length
    ++ leBytes 2 i.commands.length ++ leBytes 2 i.dropped ++ zeros 32 ++ rs.flatMap fun r => leBytes 32 r.record
/-- A command writes bytes to a buffer of its world, once its units have moved (R13), or draws DENIED (R49). -/
def State.deposit (s : State) (c : Cmd) (va : Nat) (bytes : List Byte) (result : Nat) : State :=
  if !s.rangeOk c.iface va bytes.length .write then s.complete c 8 0
  else s.haulFor c false (fun _ => .best) (s.unitsFor c.iface va bytes.length .write) fun s => (s.writeFor c.iface va bytes).complete c 0 result
/-- The effect of RESYNC (R49, R57). DEDUCED: log 52. -/
def State.resync (s : State) (c : Cmd) : State :=
  if cmdP1 c ≠ 0 ∨ !physOk c (cmdP0 c) then s.complete c 2 0 else s.deposit c (cmdP0 c) (s.resyncBytes c.iface) 0
/-- RESYNC (R57). -/
def execCmdResync (c : Cmd) (s : State) : Out := s.advance c 0x0C fun s => some (s.resync c)

end Sys2Proof.Machine
end

