-- ==== Sys2Proof/Machine/Manage.lean ====
section
/-! DEFINITION. Attestation and manifests (R74 to R78), and the management commands of interface 0 (R54, R67, R73, R85, R102, R133 to R135,
R155). -/
namespace Sys2Proof.Machine

/-! ## Measurements -/

/-- A measurement entry (R74). -/
def entryBytes (type index value : Nat) (digest : List Byte) : List Byte :=
  leBytes 1 type ++ zeros 1 ++ leBytes 2 index ++ leBytes 12 value ++ digest
/-- A digest field with no digest. DEDUCED: log 60. -/
def noDigest : List Byte := zeros 48
/-- The security version of a firmware image (R71). -/
def securityVersion (f : Firmware) : Nat := field f.header 7 1
/-- Clock of a rope in MHz (R20, R23, R75). -/
def State.clockOf (s : State) (r : Rope) : Nat :=
  if r.strict then 1900 else match s.stepOf (r.origin / 256) with | 0 => 1900 | 1 => 1600 | _ => 1300
/-- The digest of a rope's shape table (R75), as its last launch has it, or left it: that of its origin core; zero before the first
launch. DEDUCED: log 60. -/
def State.tableDigest (s : State) (r : Rope) : List Byte :=
  match (if r.running.isSome || r.incoming.isSome || r.evicted.isSome then s.shapeTable r else r.table) with
  | some bs => sha384 bs
  | none => noDigest
/-- The measurement list of a world (R75). -/
def State.entries (s : State) (w : Nat) : List (List Byte) :=
  [entryBytes 1 0 (securityVersion s.firmware) (sha384 (s.firmware.header ++ s.firmware.body)), entryBytes 2 0 s.rollback noDigest,
   entryBytes 3 0 0 (sha384 (s.crossings.flatMap fun x => leBytes 4 x.word)), entryBytes 4 0 1 noDigest,
   entryBytes 5 0 s.formats.toNat noDigest]
  ++ ((s.iface w).images.map fun e => entryBytes 6 e.1 e.2.length e.2.digest)
  ++ (s.ropesOf w).map fun r => entryBytes 7 r.key.num
      ((if r.strict then 1 else 0) + r.width * 2 ^ 8 + r.height * 2 ^ 16 + s.clockOf r * 2 ^ 24) (s.tableDigest r)
/-- The signed part of a report (R76). DEDUCED: log 60. -/
def State.reportBody (s : State) (w nonce : Nat) : List Byte :=
  let es := s.entries w
  leBytes 4 0x54505441 ++ leBytes 2 1 ++ leBytes 2 es.length ++ leBytes 8 nonce ++ leBytes 8 s.gtc.toNat ++ leBytes 1 w
    ++ leBytes 3 (s.gen w).toNat ++ leBytes 1 ((if s.degraded then 1 else 0) + (if s.breached w then 2 else 0)) ++ zeros 35 ++ es.flatten
/-- The effect of ATTEST (R49, R76); the signatures are the device's. DESIGN CHOICE: log 9. DEDUCED: log 60. -/
def State.attest (s : State) (c : Cmd) : State :=
  let body := s.reportBody c.iface (cmdP1 c)
  let report := body ++ (List.range 16608).map (Config.attestByte (sha384 body))
  if physOk c (cmdP0 c) then s.deposit c (cmdP0 c) report report.length else s.complete c 2 0
/-- ATTEST (R76). -/
def execCmdAttest (c : Cmd) (s : State) : Out := s.advance c 0x0D fun s => some (s.attest c)
/-- The first place at which a stored and a live list differ (R78). -/
def firstDiff : List (List Byte) → List (List Byte) → Nat → Nat
  | [], [], _ => 0xFFFF
  | a :: as, b :: bs, k => if a = b then firstDiff as bs (k + 1) else k
  | _, _, k => k
/-- The effect of MANIFEST.CMP (R49, R77, R78). A poisoned manifest draws DENIED. DESIGN CHOICE: log 25. -/
def State.manifest (s : State) (c : Cmd) : State :=
  let va := cmdP0 c
  let readable (n : Nat) : Bool := s.rangeOk c.iface va n .read && !s.poisonedFor c.iface va n
  if cmdP1 c ≠ 0 ∨ !physOk c va then s.complete c 2 0
  else if !readable 16 then s.complete c 8 0
  else
    let hd := s.readFor c.iface va 16
    let m := field hd 6 2
    if field hd 0 4 ≠ 0x58535A4D ∨ field hd 4 2 ≠ 1 ∨ field hd 8 8 ≠ 0 then s.complete c 2 0
    else if !readable (16 + 64 * m) then s.complete c 8 0
    else s.haulFor c false (fun _ => .best) (s.unitsFor c.iface va (16 + 64 * m) .read) fun s =>
      let all := s.readFor c.iface va (16 + 64 * m)
      s.complete c 0 (firstDiff ((List.range m).map fun k => (all.drop (16 + 64 * k)).take 64) (s.entries c.iface) 0)
/-- MANIFEST_CMP (R78). -/
def execCmdManifestCmp (c : Cmd) (s : State) : Out := s.advance c 0x0E fun s => some (s.manifest c)

/-! ## Bindings and weights -/

/-- The effect of BIND (R39, R54): a binding to the endpoint and association already in force changes nothing. It waits while the interface closes, until
its ring is initialised again, which a full response ring can put off: the spec does not say what the two do to each other. DEDUCED: log 58.
DESIGN CHOICE: log 58. -/
def State.bind (s : State) (c : Cmd) : Option State :=
  let n := cmdBits c 0 8
  let i := s.iface n
  if n = 0 ∨ cmdBits c 9 7 ≠ 0 ∨ cmdP0 c / 2 ^ 32 ≠ 0 ∨ (cmdBits c 8 1 = 1 ∧ cmdP1 c ≠ 0) then some (s.complete c 2 0)
  else if i.closing.isSome then none
  else if i.bound = boundAfter c i.bound then some (s.complete c 0 0)
  else if i.bound.isNone then some ((s.setIface n { i.reinit with bound := boundAfter c i.bound }).complete c 0 0)
  else some (s.closeFor n c)
/-- BIND (R54). -/
def execCmdBind (c : Cmd) (s : State) : Out := s.advance c 0x20 fun s => s.bind c
/-- The effect of WEIGHT (R54, R85). -/
def State.weigh (s : State) (c : Cmd) : State :=
  let cls := cmdBits c 8 2
  let w := cmdBits c 16 8
  if cls = 0 ∨ cmdBits c 10 6 ≠ 0 ∨ cmdP0 c / 2 ^ 24 ≠ 0 ∨ cmdP1 c ≠ 0 then s.complete c 2 0
  else
    (s.onIface (cmdBits c 0 8) fun i =>
      { i with weights := if cls = 1 then (w, i.weights.2) else if cls = 2 then (i.weights.1, w, i.weights.2.2)
                          else (i.weights.1, i.weights.2.1, w) }).complete c 0 0
/-- WEIGHT (R85). -/
def execCmdWeight (c : Cmd) (s : State) : Out := s.advance c 0x21 fun s => some (s.weigh c)
/-- The effect of REVOKE (R54, R67, R69). It waits while the interface closes, as BIND does. DEDUCED: log 58. DESIGN CHOICE: log 58. -/
def State.revoke (s : State) (c : Cmd) : Option State :=
  let n := cmdBits c 0 8
  if n = 0 ∨ cmdP0 c / 2 ^ 8 ≠ 0 ∨ cmdP1 c ≠ 0 then some (s.complete c 2 0)
  else if (s.iface n).closing.isSome then none
  else some (s.closeFor n c)
/-- REVOKE (R54). -/
def execCmdRevoke (c : Cmd) (s : State) : Out := s.advance c 0x22 fun s => s.revoke c

/-! ## Translations -/

/-- Whether a flight reads or writes global memory. -/
def Flight.usesMemory (f : Flight) : Bool :=
  match f.effect, f.job.entry.ins with
  | .global .., _ | .reduce .., _ | .signal .., _ | .batt .., _ | .index _, _ | .codebook .., _ => true
  | .tile _, .lGet _ | .tile _, .lGetb _ | .tile _, .lGath _ => true
  | _, _ => false
/-- Whether a place lies in global memory or another package. -/
def Place.usesMemory : Place → Bool
  | .global .. => true
  | .peer .. => true
  | _ => false
/-- The requests under way that use a translation of an on-chip ASID that a test picks (R133): each keeps the one that it was translated under. -/
def State.requestsOf (s : State) (p : Nat → Bool) : List Request :=
  (s.cores.flatMap fun e =>
    ((e.2.accesses.filter fun a => a.place.usesMemory && a.asid.any p).map fun a => Request.access e.1 a.id)
      ++ (e.2.flights.filter fun f => f.usesMemory && f.asid.any p).map fun f => Request.flight e.1 f.id (f.job.t + f.upc))
  ++ (s.outgoing.filter fun o => o.asid.any p).map fun o => Request.message o.id
/-- A command waits for requests, or completes at once if none is left. -/
def State.await (s : State) (c : Cmd) (rs : List Request) : State :=
  let left := rs.filter s.under
  if left.isEmpty then s.complete c 0 0 else s.onPending c fun p => { p with waits := left }
/-- The requests that use a translation of on-chip ASIDs (R133). -/
def State.requestsUnder (s : State) (asids : List Nat) : List Request := s.requestsOf asids.contains
/-- The invalidation of on-chip ASIDs for a command (R133), which waits for the requests that used them. -/
def State.invalidateFor (s : State) (c : Cmd) (asids : List Nat) (used : List Request) : State :=
  (s.invalidate fun e => asids.contains e.asid).await c used
/-- Set a local ASID of a world. -/
def World.setLocal (w : World) (one : Bool) (a : Option Nat) : World := if one then { w with asid1 := a } else { w with asid0 := a }
/-- A local ASID is bound or unbound, and an on-chip ASID that no local one names any more is free (R54, R382). -/
def State.mapAsid (s : State) (w : Nat) (one : Bool) (a : Option Nat) (table : Nat) : State :=
  let old := s.onChip w one
  let s1 := s.setWorld w ((s.world w).setLocal one a)
  let kept (x : Nat) : Bool := s1.onChip w false == some x || s1.onChip w true == some x
  let asids := match old with | some x => if kept x then s1.asids else remove s1.asids x | none => s1.asids
  { s1 with asids := match a with | some x => insert asids x { world := w, table := table } | none => asids }
/-- The effect of ASID.MAP (R54, R62, R129, R133, R382). DEDUCED: log 59. -/
def State.asidMap (s : State) (c : Cmd) : State :=
  let w := cmdBits c 0 8
  let one := cmdBits c 8 1 == 1
  let x := cmdBits c 16 9
  let unmap := cmdBits c 25 1 == 1
  let old := (s.onChip w one).toList
  let used (l : List Nat) : List Request := s.requestsUnder l
  if cmdBits c 9 7 ≠ 0 ∨ cmdP0 c / 2 ^ 26 ≠ 0 ∨ (if unmap then cmdP1 c ≠ 0 else cmdP1 c % 65536 ≠ 0 ∨ 2 ^ 48 ≤ cmdP1 c) then
    s.complete c 2 0
  else if unmap then (s.mapAsid w one none 0).invalidateFor c old (used old)
  else match find s.asids x with
    | some b =>
      if b.world ≠ w then s.complete c 4 0 else (s.mapAsid w one (some x) (cmdP1 c)).invalidateFor c (x :: old) (used (x :: old))
    | none => (s.mapAsid w one (some x) (cmdP1 c)).invalidateFor c (x :: old) (used (x :: old))
/-- ASID_MAP (R54). -/
def execCmdAsidMap (c : Cmd) (s : State) : Out := s.advance c 0x23 fun s => some (s.asidMap c)
/-- The effect of INVALIDATE (R54, R133). -/
def State.invalidateCmd (s : State) (c : Cmd) : State :=
  if cmdBits c 9 7 ≠ 0 ∨ cmdP0 c / 2 ^ 25 ≠ 0 ∨ cmdP1 c ≠ 0 then s.complete c 2 0
  else
    let asids := if cmdBits c 8 1 = 1 then [cmdBits c 16 9] else s.asidsOf (cmdBits c 0 8)
    s.invalidateFor c asids (s.requestsUnder asids)
/-- INVALIDATE (R133). -/
def execCmdInvalidate (c : Cmd) (s : State) : Out := s.advance c 0x24 fun s => some (s.invalidateCmd c)

/-! ## The rest of the management commands -/

/-- The effect of ROLLBACK (R54, R73). -/
def State.rollbackCmd (s : State) (c : Cmd) : State :=
  if cmdP0 c ≠ 0 ∨ cmdP1 c ≠ 0 then s.complete c 2 0
  else State.complete { s with rollback := max s.rollback (securityVersion s.firmware) } c 0 0
/-- ROLLBACK (R73). -/
def execCmdRollback (c : Cmd) (s : State) : Out := s.advance c 0x25 fun s => some (s.rollbackCmd c)
/-- The effect of DURABLE.ID (R54, R55, R155). A poisoned identity draws DENIED. DEDUCED: log 59. DESIGN CHOICE: log 25. -/
def State.durableId (s : State) (c : Cmd) : State :=
  let w := cmdBits c 0 8
  let retire := cmdBits c 8 1 == 1
  if cmdP0 c / 2 ^ 9 ≠ 0 ∨ (if retire then cmdP1 c ≠ 0 else !physOk c (cmdP1 c)) then s.complete c 2 0
  else if (s.iface w).isOpen then s.complete c 4 0
  else if retire then match (s.world w).identity with
    | none => s.complete c 2 0
    | some i =>
      let s1 := s.setWorld w { s.world w with identity := none }
      State.complete { s1 with identities := insert s1.identities i ((s1.durableGen i + 1) % 2 ^ 24) } c 0 0
  else if !s.rangeOk 0 (cmdP1 c) 16 .read ∨ s.poisonedFor 0 (cmdP1 c) 16 then s.complete c 8 0
  else (s.setWorld w { s.world w with identity := some (leNat (s.readFor 0 (cmdP1 c) 16)) }).complete c 0 0
/-- DURABLE_ID (R155). -/
def execCmdDurableId (c : Cmd) (s : State) : Out := s.advance c 0x26 fun s => some (s.durableId c)
/-- On-chip ASIDs with a cached translation to a granule (R135). -/
def State.asidsAt (s : State) (pa : Nat) : List Nat :=
  (((s.clusterTlb.flatMap (·.2)) ++ s.cores.flatMap fun e => e.2.tlb).filter fun t =>
    decide (t.pa < pa + 4096) && decide (pa < t.pa + t.size)).map (·.asid) |>.eraseDups
/-- The effect of POISON.CLEAR (R54, R135). -/
def State.poisonClear (s : State) (c : Cmd) : State :=
  let pa := cmdP0 c
  if pa % 4096 ≠ 0 ∨ 2 ^ 48 ≤ pa ∨ s.medium pa = .none ∨ s.medium pa = .peer ∨ cmdP1 c ≠ 0 then s.complete c 2 0
  else
    let s1 := { s with poison := s.poison.filter fun g => g != pa / 4096 }
    (s1.invalidate fun t => decide (t.pa < pa + 4096) && decide (pa < t.pa + t.size)).await c
      (s.requestsUnder (s.asidsAt pa))
/-- POISON_CLEAR (R135). -/
def execCmdPoisonClear (c : Cmd) (s : State) : Out := s.advance c 0x27 fun s => some (s.poisonClear c)
/-- The effect of MODE (R54, R102). -/
def State.setMode (s : State) (c : Cmd) : State :=
  if cmdP0 c / 4 ≠ 0 ∨ cmdP1 c ≠ 0 then s.complete c 2 0 else State.complete { s with mode := cmdP0 c } c 0 0
/-- MODE (R102). -/
def execCmdMode (c : Cmd) (s : State) : Out := s.advance c 0x28 fun s => some (s.setMode c)
/-- A peer-table entry from its 32 bytes (R134); none where a zero field or a range is wrong. -/
def peerOf (bs : List Byte) : Option PeerEntry :=
  let f := field bs
  if f 0 1 < 2 ∧ f 2 2 < 16384 ∧ f 6 2 = 0 ∧ f 16 8 % 65536 = 0 ∧ f 16 8 < 2 ^ 52 ∧ f 24 8 = 0 then
    some { valid := f 0 1 == 1, world := f 1 1, pkg := f 2 2, sa := f 4 2, fabric := BitVec.ofNat 64 (f 8 8), base := f 16 8 }
  else none
/-- The requests under way through a peer-table entry (R134). -/
def State.through (s : State) (k : Nat) : List Request :=
  (s.cores.flatMap fun e =>
    ((e.2.accesses.filter fun a => match a.place with | .peer _ x _ => x == k | _ => false).map fun a => Request.access e.1 a.id)
      ++ (e.2.flights.filter fun f => match f.effect with
          | .global _ pa _ _ | .signal _ pa _ _ _ => pa / 2 ^ 36 == 15 * 256 + k
          | .reduce _ _ _ adds => adds.any fun a => a.1 / 2 ^ 36 == 15 * 256 + k
          | _ => false).map fun f => Request.flight e.1 f.id (f.job.t + f.upc))
  ++ (s.outgoing.filter fun o => o.entry == k).map fun o => Request.message o.id
/-- The effect of PEER.SET (R54, R55, R134). A poisoned entry draws DENIED. DESIGN CHOICE: log 25. -/
def State.peerSet (s : State) (c : Cmd) : State :=
  if cmdP0 c / 2 ^ 8 ≠ 0 ∨ !physOk c (cmdP1 c) then s.complete c 2 0
  else if !s.rangeOk 0 (cmdP1 c) 32 .read ∨ s.poisonedFor 0 (cmdP1 c) 32 then s.complete c 8 0
  else match peerOf (s.readFor 0 (cmdP1 c) 32) with
    | none => s.complete c 2 0
    | some e => State.await { s with peers := insert s.peers (cmdP0 c) e } c (s.through (cmdP0 c))
/-- PEER_SET (R134). -/
def execCmdPeerSet (c : Cmd) (s : State) : Out := s.advance c 0x29 fun s => some (s.peerSet c)

/-- The effect of a command by its opcode. -/
def commandBody (c : Cmd) (s : State) : Option State :=
  let op := cmdOp c
  if op = 0x01 then some (s.open_ c) else if op = 0x02 then some (s.close c) else if op = 0x03 then some (s.ropeAlloc c)
  else if op = 0x04 then s.ropeFree c else if op = 0x05 then some (s.load_ c) else if op = 0x06 then some (s.launch c)
  else if op = 0x07 then s.evictStart c else if op = 0x08 then s.resume c
  else if op = 0x09 then some (s.complete c (if cmdP1 c = 0 then 0 else 2) 0)
  else if op = 0x0A then some (s.eventSet c) else if op = 0x0B then some (s.query c) else if op = 0x0C then some (s.resync c)
  else if op = 0x0D then some (s.attest c) else if op = 0x0E then some (s.manifest c) else if op = 0x20 then s.bind c
  else if op = 0x21 then some (s.weigh c) else if op = 0x22 then s.revoke c else if op = 0x23 then some (s.asidMap c)
  else if op = 0x24 then some (s.invalidateCmd c) else if op = 0x25 then some (s.rollbackCmd c) else if op = 0x26 then some (s.durableId c)
  else if op = 0x27 then some (s.poisonClear c) else if op = 0x28 then some (s.setMode c) else if op = 0x29 then some (s.peerSet c)
  else none
/-- RESERVED_COMMAND_START (R45, R84). -/
def execEvReservedCommandStart (c : Cmd) (s : State) : Out := s.startReserved c (commandBody c)

end Sys2Proof.Machine
end

