-- ==== Sys2Proof/Machine/Peer.lean ====
section
/-! DEFINITION. Other packages (R134, R148, R150 to R153, R337): requests and signals that come in, and the answers to what went out. -/
namespace Sys2Proof.Machine

/-! ## Requests -/

/-- A write or atomic of another package has performed here (R150): each package numbers its own messages. -/
def State.markApplied (s : State) (pkg id : Nat) : State := { s with applied := s.applied ++ [(pkg, id)] }
/-- An atomic in a world's memory (R148): the state after it and the old value; none where a check fails. -/
def State.remoteAmo (s : State) (w va : Nat) (op : AmoOp) (wide : Bool) (opB opD : Word) : Option (State × Nat) :=
  let n := if wide then 8 else 4
  match s.mapFor w va n .readWrite with
  | .error _ => none
  | .ok m =>
    if s.poisoned m.pa n then none
    else
      let old := leNat (s.readBytes (s.keyFor w m.durable) m.pa n)
      match amoNew op n old (opB.toNat % 2 ^ (8 * n)) (opD.toNat % 2 ^ (8 * n)) with
      | some v => some (s.store_ w m.durable (hostOrigin va m.pa) (cellsAt m.pa (leBytes n v)), old)
      | none => some (s, old)
/-- The bytes of a masked write, merged with what stands there (R137). -/
def State.mergeFor (s : State) (w va : Nat) (data : List Byte) (mask : Byte) : List Byte :=
  if mask = 0xFF then data else (s.readFor w va data.length).zipWith (fun old b => mergeByte old b mask) data
/-- An admitted request is applied (R134): `none` where a check of the target fails. -/
def State.applyRequest (s : State) (q : PeerRequest) (w va : Nat) : Option State :=
  match q.kind with
  | .read n =>
    if s.rangeOk w va n .read && !s.poisonedFor w va n then some (s.reply (.data q.sender q.id (s.readFor w va n))) else none
  | .write data mask =>
    if s.rangeOk w va data.length .write then
      some (((s.writeFor w va (s.mergeFor w va data mask)).markApplied q.sender q.id).reply (.applied q.sender q.id))
    else none
  | .amo op wide b d =>
    (s.remoteAmo w va op wide b d).map fun x =>
      (x.1.markApplied q.sender q.id).reply (.data q.sender q.id (leBytes 8 (amoResult op (if wide then 8 else 4) x.2).toNat))
/-- The units of HBM that an admitted request moves (R13). -/
def State.requestUnits (s : State) (k : PeerKind) (w va : Nat) : List Nat :=
  match k with
  | .read n => s.unitsFor w va n .read
  | .write data _ => s.unitsFor w va data.length .write
  | .amo _ wide .. => s.unitsFor w va (if wide then 8 else 4) .readWrite

/-! ## Signals -/

/-- Room of the record store (R152). -/
def recordRoom : Nat := 1048576
/-- The record of a source. -/
def State.record (s : State) (src : SignalSource) : Option (BitVec 16 × Nat) := (s.signalRecords.find? fun r => r.1 == src).map (·.2)
/-- Set the record of a source. -/
def State.setRecord (s : State) (src : SignalSource) (r : BitVec 16 × Nat) : State :=
  { s with signalRecords := (s.signalRecords.filter fun x => x.1 != src) ++ [(src, r)] }
/-- What a record says of a signal (R152). -/
inductive Turn where
  | apply | wait | drop | full
deriving DecidableEq, Repr
/-- The table of R152. DEDUCED: log 30. -/
def State.turn (s : State) (g : Signal) : Turn :=
  match s.record g.src with
  | some (a, last) =>
    if a = g.alloc then (if g.count = last + 1 then .apply else if last + 1 < g.count then .wait else .drop)
    else if g.count = 1 then .apply else .wait
  | none => if recordRoom ≤ s.signalRecords.length then .full else if g.count = 1 then .apply else .wait
/-- Whether every write that a signal releases has performed (R150, R153). One that this package refused never has, and holds the signal back for ever:
the spec does not say. DEDUCED: log 30. DESIGN CHOICE: log 30. -/
def State.released (s : State) (g : Signal) : Bool := g.after.all fun id => s.applied.contains (g.src.pkg, id)
/-- A signal is applied (R134, R150 to R152): its record moves on, and the addition performs, or is refused by the target's checks. DEDUCED: log 30. -/
def State.applySignal (s : State) (g : Signal) : State :=
  let s1 := s.setRecord g.src (g.alloc, g.count)
  match s.admits g.src.pkg g.sa g.entry g.offset with
  | none => s1.reply (.refused g.src.pkg g.id)
  | some (w, va) => match s1.remoteAmo w va .add true g.value 0 with
    | some (t, _) => (t.markApplied g.src.pkg g.id).reply (.applied g.src.pkg g.id)
    | none => s1.reply (.refused g.src.pkg g.id)
/-- The units of HBM that a signal moves (R13). -/
def State.signalUnits (s : State) (g : Signal) : List Nat :=
  match s.admits g.src.pkg g.sa g.entry g.offset with
  | some (w, va) => s.unitsFor w va 8 .readWrite
  | none => []
/-- Whether a waiting signal is dealt with now: it is stale, or it is its turn, what it releases has performed, and its unit can move (R13, R150, R152). -/
def State.signalDue (s : State) (g : Signal) : Bool :=
  s.turn g == .drop || (s.turn g == .apply && s.released g && (s.moveSome (fun _ => .best) (s.signalUnits g)).2.isEmpty)
/-- Whether two signals are copies of one (R153). -/
def sameSignal (a b : Signal) : Bool := a.src.pkg == b.src.pkg && a.id == b.id
/-- Waiting signals whose turn has come are applied, one after the other (R152). -/
def State.settle (s : State) : Nat → State
  | 0 => s
  | fuel + 1 =>
    match s.waitingSignals.find? fun x => s.signalDue x.signal with
    | none => s
    | some x =>
      let s1 := { s with waitingSignals := s.waitingSignals.filter fun y => !sameSignal y.signal x.signal }
      (if s.turn x.signal = .apply then (s1.moveSome (fun _ => .best) (s1.signalUnits x.signal)).1.applySignal x.signal
       else s1.reply (.applied x.signal.src.pkg x.signal.id)).settle fuel
/-- Settle everything that waits. -/
def State.settleAll (s : State) : State := s.settle (s.waitingSignals.length + 1)
/-- SIGNAL_RECEIVE (R134, R150 to R153): a copy older than 1 s is discarded; a signal that its table entry does not admit is refused; one
whose turn it is, and whose released writes have performed, is applied once its unit can move (R13); one that must wait waits; a stale copy is dropped; with
the record store full there is no answer. DEDUCED: log 30. -/
def execEvSignalReceive (g : Signal) (s : State) : Out :=
  if g.expired then .next s
  else if (s.admits g.src.pkg g.sa g.entry g.offset).isNone then .next (s.reply (.refused g.src.pkg g.id))
  else match s.turn g with
    | .full => .next s
    | .drop => .next (s.reply (.applied g.src.pkg g.id))
    | .apply | .wait =>
      if s.waitingSignals.any fun x => sameSignal x.signal g then .next s.settleAll
      else .next (State.settleAll { s with waitingSignals := s.waitingSignals ++ [{ signal := g, since := s.gtc }] })
/-- Whether a waiting signal lacks the first one of its allocation (R152): that one has neither been applied nor waits itself. -/
def State.firstMissing (s : State) (g : Signal) : Bool :=
  (s.waitingSignals.all fun x => !(x.signal.src == g.src && x.signal.alloc == g.alloc && x.signal.count == 1)) && match s.record g.src with
  | some (a, _) => a != g.alloc
  | none => true
/-- SIGNAL_WAIT_TIMEOUT (R152): signals of a source that have waited 2 s for count 1 of their allocation are dropped. -/
def execEvSignalWaitTimeout (src : SignalSource) (s : State) : Out :=
  .next { s with waitingSignals := s.waitingSignals.filter fun x =>
    !(x.signal.src == src && decide (1 < x.signal.count) && s.firstMissing x.signal && decide (x.since.toNat + twoSeconds ≤ s.gtc.toNat)) }
/-- RELEASE_NOTICE_RECEIVE (R152): the record of a freed rope is discarded. -/
def execEvReleaseNoticeReceive (src : SignalSource) (s : State) : Out :=
  .next { s with signalRecords := s.signalRecords.filter fun x => x.1 != src }
/-- What this package answered to a request. -/
def Reply.answers (r : Reply) (pkg id : Nat) : Bool :=
  match r with
  | .data p i _ => p == pkg && i == id
  | .applied p i => p == pkg && i == id
  | _ => false
/-- The answer to a further copy of a write or an atomic that has performed: the same again (R140, R153). DEDUCED: log 72. -/
def State.sameAnswer (s : State) (pkg id : Nat) : Reply := (s.replies.find? fun r => r.answers pkg id).getD (.applied pkg id)
/-- PEER_REQUEST_RECEIVE (R134): admitted and applied, once its units have moved (R13), or refused; signals that waited for it follow (R150). A copy of
one that has performed performs no second time (R140, R153). -/
def execEvPeerRequestReceive (q : PeerRequest) (s : State) : Out :=
  if s.applied.contains (q.sender, q.id) then .next ((s.forget (.evPeerRequestReceive q)).reply (s.sameAnswer q.sender q.id))
  else
    let refuse (s : State) : State := (s.forget (.evPeerRequestReceive q)).reply (.refused q.sender q.id)
    match s.admits q.sender q.sa q.entry q.offset with
    | none => .next (refuse s)
    | some (w, va) =>
      if (s.applyRequest q w va).isNone then .next (refuse s)
      else .next (s.haulRequest (.evPeerRequestReceive q) (s.requestUnits q.kind w va) fun s => match s.applyRequest q w va with
        | some t => t.settleAll
        | none => refuse s)

/-! ## Answers -/

/-- PATH_FAILURE_RESEND (R153): an unacknowledged message is sent again, as it was. DEDUCED: log 72. -/
def execEvPathFailureResend (id : Nat) (s : State) : Out :=
  .next { s with outgoing := s.outgoing.map fun o => if o.id == id then { o with resent := o.resent + 1 } else o }
/-- A refused write, atomic or signal counts at the interface that sent it, saturating (R56, R134). -/
def State.refusal (s : State) (o : Outgoing) : State :=
  match o.rope with
  | some k => s.onIface k.world fun i => { i with refusals := min 0xFFFF (i.refusals + 1) }
  | none => s
/-- Another answer to an engine's read is still owed. -/
def State.owes (s : State) (core flight : Nat) : Bool :=
  s.outgoing.any fun x => x.core == core && (match x.flight with | some g => g.1 == flight | none => false)
/-- A refused read of an engine (R134): fault 0x09 at the reading step; when its entry resumes, the read is made again. DEDUCED: log 29. -/
def State.refuseFlight (s : State) (o : Outgoing) (x : Flight) : State :=
  let s1 := { s with serial := s.serial + 1, outgoing := s.outgoing ++ [{ o with id := s.serial }] }
  s1.suspendAt .write o.core x.job x.upc .none 0x09 0 (BitVec.ofNat 64 o.va) (s1.rtick o.core)
/-- The data that an engine's read asked for (R134, R337). -/
def State.fillFlight (s : State) (o : Outgoing) (f : Nat × Nat × Nat) (data : List Byte) : State :=
  s.onCore o.core fun c => { c with flights := c.flights.map fun x =>
    if x.id == f.1 then { x with effect := fillEffect x.effect f.2.1 f.2.2 data, late := x.late && s.owes o.core f.1 } else x }
/-- The answer to an engine's read (R134, R337). DEDUCED: log 29. -/
def State.answerFlight (s : State) (o : Outgoing) (f : Nat × Nat × Nat) (refused : Bool) (data : List Byte) : State :=
  match (if refused then (s.core o.core).flights.find? fun x => x.id == f.1 else none) with
  | some x => s.refuseFlight o x
  | none => if refused then s else s.fillFlight o f data
/-- Whether a message belongs to an entry that stands suspended: it is answered once the entry has resumed. -/
def State.parkedAsk (s : State) (o : Outgoing) : Bool :=
  match o.flight with
  | some f => (s.core o.core).flights.any fun x => x.id == f.1 && (s.core o.core).parked x
  | none => false
/-- The answer to a control core's access (R134, R140, R265): the waiting instruction retires with its value; a refused read is fault
0x09 at it; a refused atomic's value is not given. DEDUCED: log 29. -/
def State.answerAccess (s : State) (o : Outgoing) (a : Access) (refused : Bool) (data : List Byte) : State :=
  let id := o.core
  let s1 := s.dropAccess id a.id
  let value := BitVec.ofNat 64 (leNat data)
  let failed : State := (s1.onCore id fun c => { c with wfe := none }).trap id
    { code := 9, sub := 0, value := BitVec.ofNat 64 o.va, source := 0, slot := 0, upc := 0, tick := s.rtick id, nested := false, tpc := none } (s.core id).pc
  match a.kind with
  | .store _ => s1
  | .load d n sx => if refused then failed else s1.onCore id fun c => (c.setReg d (loadValue n sx data)).retire
  | .amo _ d _ _ _ =>
    let v := if refused then BitVec.ofNat 64 (Config.freeNat s.free) else value
    (s1.onCore id fun c => (c.setReg d v).retire).unreplayable id
  | .inbox va n =>
    if refused then failed
    else s1.onCore id fun c => { c with inbox := insert c.inbox va (data.take n ++ List.replicate (n - data.length) 0) }
  | .poll n =>
    if refused then failed
    else s1.onCore id fun c => { c with wfe := c.wfe.map fun w =>
      { w with reading := false, value := some (BitVec.ofNat 64 (leNat (data.take n))), back := s.gtc } }
/-- ACKNOWLEDGEMENT_RECEIVE (R134, R152, R337): a message of this package has been answered, and counts as performed. DEDUCED: log 29. -/
def execEvAcknowledgementReceive (id : Nat) (refused : Bool) (data : List Byte) (s : State) : Out :=
  match s.outgoing.find? fun o => o.id == id with
  | none => .next s
  | some o =>
    if s.parkedAsk o then .next s else
    let s1 := { s with outgoing := s.outgoing.filter fun x => x.id != id }
    let isRead : Bool := match o.kind with | .read _ => true | _ => false
    let s2 := if refused && !isRead then s1.refusal o else s1
    let s3 := match o.signal, o.rope with
      | some _, some k => s2.onRope k fun r => { r with quiet := s.gtc }
      | _, _ => s2
    match o.flight, (s3.core o.core).accesses.find? fun a => a.sent == some id with
    | some f, _ => .next (s3.answerFlight o f refused data)
    | none, some a => .next (s3.answerAccess o a refused data)
    | none, none => .next s3

end Sys2Proof.Machine
end

