-- ==== Sys2Proof/Machine/Power.lean ====
section
/-! DEFINITION. Power, reset and boot (R20, R21, R26, R31 to R33, R70 to R72, R154, R157, R164), clock steps (R20), and the links and
completions of the durable devices (R158, R161). -/
namespace Sys2Proof.Machine

/-! ## What survives -/

/-- Whether an address lies in a persistent range. -/
def inPersistent (hs : List HdmRange) (pa : Nat) : Bool := hs.any fun h => h.persistent && decide (h.base ≤ pa) && decide (pa < h.base + h.size)
/-- What power loss and reset leave (R31, R73, R155, R164): fuses, durable generations, and persistent capacity with the writes on their
way to it; everything on chip and HBM is lost. -/
def State.survive (s : State) : State :=
  { State.reset with
    powered := false, started := false, pwrgd := false, alert := s.alert, boots := s.boots + 1, i3c := s.i3c, free := s.free, serial := s.serial, agenda := s.agenda,
    fuses := s.fuses, rollback := s.rollback, identities := s.identities, hdm := s.hdm, resetCause := s.resetCause,
    mem := s.mem.filter (fun e => inPersistent s.hdm e.1), keys := s.keys.filter (fun e => inPersistent s.hdm (64 * e.1)),
    durable := s.durable, durableBase := s.durableBase, ifaces := [] }
/-- One durable unit after recovery (R157, R164): its base, and as many of its later writes, in order, as the device kept. DESIGN CHOICE: log 63. -/
def State.recover (s : State) (u n : Nat) : State :=
  match s.recoverUnit u n with
  | none => s
  | some w => { s with keys := insert s.keys u w.key,
                       mem := w.bytes.foldl (fun m c => insert m (64 * u + c.1) c.2) (dropUnit s.mem u) }
/-- Every durable unit with writes that no completed barrier covers recovers (R157). DESIGN CHOICE: log 63. -/
def State.recoverAll (s : State) (kept : List (Nat × Nat)) : State :=
  let s1 := s.durableBase.foldl (fun s b => s.recover b.1 ((find kept b.1).getD 0)) s
  { s1 with durable := [], durableBase := [] }
/-- The persistent capacity that a device has in some ranges (R154). -/
def capacityOf (hs : List HdmRange) (port device : Nat) : Nat :=
  ((hs.filter fun h => h.persistent && h.port == port && h.device == device).map (·.size)).sum
/-- Whether a range is one of the device of another (R154): persistent, on the same port behind the same switch port, and of the same size. -/
def sameDevice (a b : HdmRange) : Bool :=
  a.persistent && b.persistent && a.port == b.port && a.device == b.device && a.size == b.size
/-- Whether two ranges share an address. -/
def rangesOverlap (a b : HdmRange) : Bool := decide (a.base < b.base + b.size) && decide (b.base < a.base + a.size)
/-- Whether a port can take a range more (R15): 4 ports, 4 devices and 8 decoders a port, 16 TiB in all. -/
def portFits (h : HdmRange) (placed : List HdmRange) : Bool :=
  let mine := placed.filter fun x => x.port == h.port
  decide (h.port < 4) && decide (mine.length < 8) && decide (((h.device :: mine.map (·.device)).eraseDups).length ≤ 4)
    && decide ((placed.map (·.size)).sum + h.size ≤ 2 ^ 44)
/-- A reset enumerates the devices (R15, R16, R33, R154). Only Type 3 devices are mapped, within the limits of the ports, and persistent capacity only
where the device reports persistence on write completion. A persistent range comes
back to where it stood; any other goes where firmware puts it, never over a range that is placed already or is kept for its device. -/
def placeRanges (kept : List HdmRange) : List HdmRange → List HdmRange → List HdmRange
  | placed, [] => placed
  | placed, h :: rest =>
    let old := kept.find? fun k => sameDevice k h && !placed.any fun p => sameDevice p k && p.base == k.base
    let x := match old with | some k => { h with base := k.base } | none => h
    let clash := placed.any (rangesOverlap x) || (old.isNone && kept.any (rangesOverlap x))
    placeRanges kept (if h.cxlType = 3 ∧ (!h.persistent || h.reports) ∧ portFits x placed ∧ !clash then placed ++ [x] else placed) rest
/-- Whether a reset reports another capacity of a device than it had in some ranges (R154): it has been resized, and all of it is mapped anew. -/
def deviceResized (k : HdmRange) (before now : List HdmRange) : Bool :=
  let there := capacityOf (now.filter (·.trained)) k.port k.device
  there != 0 && there != capacityOf before k.port k.device
/-- The persistent ranges of earlier resets, whose contents outlast one at which their device is absent or fails (R31, R154). -/
def State.keptRanges (s : State) (now : List HdmRange) : List HdmRange := s.hdm.filter fun k => k.persistent && !deviceResized k s.hdm now
/-- The ranges that a reset maps, and those that stay kept for a device that it did not map (R31, R154); those of moved or resized devices
read as unwritten. DEDUCED: log 3. -/
def State.keepRanges (s : State) (now : List HdmRange) : State :=
  let kept := s.keptRanges now
  let placed := placeRanges kept [] now
  let away := (kept.filter fun k => !placed.any fun p => sameDevice p k && p.base == k.base).map fun k => { k with trained := false }
  { s with mem := s.mem.filter (fun e => inPersistent kept e.1), keys := s.keys.filter (fun e => inPersistent kept (64 * e.1)),
           hdm := placed ++ away, disabled := ((now.filter fun h => h.cxlType != 3).map fun h => (h.port, h.device)).eraseDups }

/-! ## The reset sequence -/

/-- The checks of reset step 2 on a firmware image (R70 to R72). DESIGN CHOICE: log 9. -/
def State.firmwareOk (s : State) (f : Firmware) : Bool :=
  let h := field f.header
  let digest := sha384 (f.header ++ f.body)
  f.header.length == 64 && h 0 4 == 0x46574751 && h 4 2 == 1 && (f.header.drop 12).all (· == 0) && decide (h 7 1 ≤ 64)
    && h 8 4 == f.body.length && f.body.length % 64 == 0 && decide (s.rollback ≤ h 7 1)
    && (match s.fuses[h 6 1]? with
        | some k => !k.revoked && sha384 f.rsaKey == k.rsaHash && sha384 f.slhKey == k.slhHash
        | none => false)
    && f.rsaSig.length == 384 && Config.rsaValid f.rsaKey f.rsaSig digest && f.slhSig.length == 16224 && Config.slhValid f.slhKey f.slhSig digest
/-- A crossing-table entry from its measurement (R26, R28, R29). -/
def crossingOf (index : Nat) (found : List CrossingFound) : Crossing :=
  let arch := if index < 96 then 6 else 24
  match found.find? fun x => x.index == index with
  | none => { state := 0, measured := arch, pad := 0, arch := arch }
  | some x =>
    if arch < x.measured then { state := 2, measured := x.measured, pad := 0, arch := arch }
    else { state := if x.unstable then 1 else 0, measured := x.measured, pad := arch - x.measured, arch := arch }
/-- A core that failed self-test is fenced, and its record is logged (R32, R230, R238). -/
def State.fenceCore (s : State) (c : Nat) : State := (s.onCore c fun x => { x with fenced := true }).logError 7 0 c 0 0 0
/-- The whole reset sequence of a part with power (R26, R31 to R33, R55, R72): with firmware that fails its checks, nothing follows step 2. An event that still
awaits the board controller keeps ALERT_N low; the spec does not say whether a reset takes it back. DESIGN CHOICE: log 3, log 13, log 15. -/
def State.reboot (s : State) (r : ResetInputs) : State :=
  let t := { s.survive with powered := true, pwrgd := true }
  if !t.firmwareOk r.fw then { t with alert := true, closedPorts := List.range 12 }
  else
    let table := (List.range 112).map fun i => crossingOf i r.crossings
    let t1 := (t.recoverAll r.recovered).keepRanges r.hdm
    let t2 : State := { t1 with
      started := true, alert := t1.alert || table.any fun x => x.state == 2, firmware := r.fw, crossings := table, formats := r.formats,
      present := (List.range 16).filter (fun k => !r.failedStacks.contains k), closedPorts := r.closedPorts, allocNext := r.allocSeed,
      degraded := !r.failedStacks.isEmpty || !r.closedPorts.isEmpty || r.hdm.any (fun h => !h.trained), gtc := 0,
      ifaces := [(0, { Iface.fresh with bound := some (Config.firmwareBinding (r.fw.header ++ r.fw.body)) })] }
    r.failedCores.foldl State.fenceCore t2
/-- POWER_ON (R31, R32). The reset cause 2, a thermal trip, stands until it is read. DESIGN CHOICE: log 14. -/
def execEvPowerOn (r : ResetInputs) (s : State) : Out :=
  if s.powered then .next s else .next (State.reboot { s with resetCause := if s.resetCause = 2 then 2 else 0 } r)
/-- RESET_N (R21, R31, R32). DESIGN CHOICE: log 14. -/
def execEvResetN (r : ResetInputs) (s : State) : Out :=
  if s.powered then .next (State.reboot { s with resetCause := 1 } r) else .next s
/-- THERMAL_TRIP (R20, R21, R31, R164): the module removes power, and the thermal event awaits the board controller. DESIGN CHOICE: log 14. -/
def execEvThermalTrip (s : State) : Out := .next (State.survive { s with resetCause := 2, alert := true })
/-- POWER_LOSS (R21, R31, R164). -/
def execEvPowerLoss (s : State) : Out := .next (State.survive { s with resetCause := 0 })

/-! ## Clock steps and the board controller -/

/-- CLOCK_STEP_DOWN (R20, R24): every die of the step group moves to the lowest step that any needs; the board controller is told. DEDUCED: log 15. -/
def execEvClockStepDown (die : Nat) (s : State) : Out :=
  let group := s.stepGroup die
  let low := (group.map s.stepOf).foldl max (min 2 (s.stepOf die + 1))
  .next { s with steps := s.steps.mapIdx (fun d x => if group.contains d then low else x),
                 stepGtc := s.stepGtc.mapIdx (fun d x => if group.contains d then s.gtc else x), alert := true }
/-- CLOCK_STEP_UP (R20): once every die of the group has been clear for 1 s, the group steps back up together. DEDUCED: log 15. -/
def execEvClockStepUp (die : Nat) (s : State) : Out :=
  let group := s.stepGroup die
  if group.all fun d => decide ((s.stepGtc.getD d 0).toNat + oneSecond ≤ s.gtc.toNat) then
    .next { s with steps := s.steps.mapIdx fun d x => if group.contains d then x - 1 else x }
  else .next s
/-- What the board controller reads (R21, R230); the measurements are what the sensors say. DEDUCED: log 15. -/
def State.i3cReport (s : State) : I3cReport :=
  { temperature := Config.freeNat s.free, power := Config.freeNat (s.free + 1), resetCause := s.resetCause, log := s.errors.map (·.bytes) }
/-- I3C_ACCESS (R21, R230): the board controller reads temperature, power, reset cause and the error log, and ALERT_N returns high; a part whose
firmware failed keeps it low (R33). DEDUCED: log 15. -/
def execEvI3cAccess (s : State) : Out := .next { s with alert := s.powered && !s.started, i3c := s.i3c ++ [s.i3cReport] }

/-! ## Durable devices -/

/-- The CXL port behind an address. -/
def State.portOf (s : State) (pa : Nat) : Option Nat := (s.hdmAt pa).map (·.port)
/-- Whether the link of a port is down. -/
def State.linkDown (s : State) (port : Nat) : Bool := s.downLinks.any fun x => x.1 == port
/-- CXL_LINK_DOWN (R161): the interval of 100 ms begins. -/
def execEvCxlLinkDown (port : Nat) (s : State) : Out :=
  if s.linkDown port then .next s else .next { s with downLinks := s.downLinks ++ [(port, s.gtc)] }
/-- Nominal ticks of 100 ms. -/
def linkPatience : Nat := 190000000
/-- PERSIST_LINK_TIMEOUT (R161): writes that wait behind a link that has been down for 100 ms cannot be accepted. -/
def execEvPersistLinkTimeout (port : Nat) (s : State) : Out :=
  if s.downLinks.any fun x => x.1 == port && decide (x.2.toNat + linkPatience ≤ s.gtc.toNat) then
    .next { s with durable := s.durable.map fun d => if !d.accepted && s.portOf (64 * d.unit) == some port then { d with failed := true } else d }
  else .next s
/-- DURABLE_WRITE_ACCEPT (R158): the device's completion arrives; none does over a link that is down. DESIGN CHOICE: log 63. -/
def execEvDurableWriteAccept (id : Nat) (s : State) : Out :=
  .next { s with durable := s.durable.map fun d =>
    if d.id == id && !(match s.portOf (64 * d.unit) with | some p => s.linkDown p | none => false) then { d with accepted := true, failed := false }
    else d }

end Sys2Proof.Machine
end

