-- ==== Sys2Proof/Machine/Agents.lean ====
section
/-! DEFINITION. Who acts next (R30, R84, R108, R140): one turn of a control core, of the dispatcher and of every other agent, over the
meanings of the instructions. -/
namespace Sys2Proof.Machine

/-! ## A control core -/

/-- Whether a control core goes on at its next instruction boundary (R101, R213, R227), and not while its rope stops at a yield point (R104). -/
def State.runs (s : State) (core : Nat) : Bool :=
  let c := s.core core
  c.run != 0 && !c.halted && !c.stopped && c.dbgEvent.isNone
    && (match s.ropeOf core with
        | some r => (match r.freezing with | .frozen | .thawing _ => false | _ => !(r.evict.isSome && s.atYield r))
        | none => false)
/-- Whether a pending engine fault is taken at this boundary (R203, R207). DEDUCED: log 22. -/
def Core.mustTrap (c : Core) : Bool := if c.handler then c.pending.any (·.nested) else !c.pending.isEmpty
/-- Whether the address breakpoint hits (R226). -/
def Core.breaks (c : Core) : Bool := c.dbgc.getLsbD 0 && !c.dbgc.getLsbD 1 && c.pc == c.dbga &&& 0xFFF8
/-- The address breakpoint (R206, R226, R227): fault 0x03 before the instruction, or, in a sealed rope, a stop until the thaw. -/
def State.breakHere (s : State) : State :=
  let c := s.here
  if s.sealed s.cur.core then s.setHere { c with dbgEvent := some (true, BitVec.ofNat 13 (c.pc.toNat / 8)) }
  else if !c.accesses.isEmpty then s
  else (s.setHere { c with brkHit := true }).fault 0x03 0 c.pc c.pc
/-- Whether a `y.halt` has been routed, so that no further instruction of the launch runs (R364): a handler that a later trap enters does run
(R203). DEDUCED: log 38. -/
def Core.over (c : Core) : Bool := c.queues.any (·.halting) && (!c.handler || c.haltIn)
/-- The word at the pc runs (R108, R109, R241): units 0 and 1 act at once, engine words are routed, all others are illegal. DESIGN CHOICE: log 69. -/
def runWord (ex : Exec) (w : Word) (s : State) : Out :=
  let unit := w.toNat / 2 ^ 60
  if unit < 2 then match decode w with
    | .ok i => ex i s
    | .error _ => ex (.evIllegalInstruction w) s
  else if unit < 7 then ex (.evRouting w) s
  else ex (.evIllegalInstruction w) s
/-- One turn of a control core (R108, R203, R364). DESIGN CHOICE: log 69. -/
def coreTurn (ex : Exec) (core : Nat) (s0 : State) : Out :=
  let s := { s0 with cur := { s0.cur with core := core, rope := ((s0.core core).rope).getD s0.cur.rope } }
  if !s.runs core then .next s
  else if (s.core core).mustTrap then ex .evTrapEntry s
  else if (s.core core).over then .next s
  else if (s.core core).breaks then .next s.breakHere
  else runWord ex s.fetch s

/-! ## The dispatcher -/

/-- Commands that go on without being picked: started ones whose effect may now come, those whose requests are over, and those whose wait
entries cannot be read (R45, R46, R83, R133). -/
def State.ripe (s : State) (p : Pending) : Bool :=
  if p.effect then !p.waits.isEmpty && !p.waits.any s.under
  else if p.started then !s.heldBack p.cmd
  else cmdClass p.cmd != 0 && (s.iface p.cmd.iface).closing.isNone && s.unreadable p.cmd
/-- Run a command's instruction. -/
def runCommand (ex : Exec) (c : Cmd) (s : State) : State :=
  match cmdInstr c with
  | some i => ex.run i s
  | none => s
/-- One turn of the dispatcher (R84): due Reserved commands first, then what is ripe, then one command of the highest class that has any. -/
def dispatchTurn (ex : Exec) (s : State) : Out :=
  match s.reservedDue with
  | c :: _ => ex (.evReservedCommandStart c) s
  | [] =>
    let s1 := ((s.ifaces.flatMap fun e => e.2.commands).filter s.ripe).foldl (fun s p => runCommand ex p.cmd s) s
    match s1.pick with
    | some (c, _, _) => .next (runCommand ex c s1)
    | none => .next s1

/-! ## The others -/

/-- Firmware writes a wheel slot's kind (R13): never slot 63, and never one that is reserved or converted (R14, R83). -/
def State.setWheel (s : State) (pc slot : Nat) (kind : Option SlotKind) : State :=
  let k := pc * 64 + slot
  let held : Bool := (match find s.wheels k with | some (.strict _) => true | _ => false) || s.scanSlots.any fun e => e.2.contains k
  if 63 ≤ slot ∨ held then s
  else { s with wheels := match kind with | some x => insert s.wheels k x | none => remove s.wheels k }
/-- The instants within some ticks at which a slot of a Reserved command begins, or at whose end it must have started (R45), ascending. -/
def State.slotInstants (s : State) (n : Nat) : List Nat :=
  let starts := s.ifaces.flatMap fun e => (e.2.commands.filter fun p => !p.started && cmdClass p.cmd == 0).map fun p => cmdStart p.cmd
  (((starts.flatMap fun t => [t, t + 7]).filter fun t => decide (s.gtc.toNat < t) && decide (t ≤ s.gtc.toNat + n)).mergeSort).eraseDups
/-- Time stands at an instant of a slot: the commands whose slot begins are judged, and those whose slot ends start (R45). -/
def State.atInstant (ex : Exec) (s : State) (t : Nat) : State :=
  let s1 := State.beginSlots { s with gtc := BitVec.ofNat 64 t }
  (s1.reservedDue.filter fun c => decide (cmdStart c + 7 ≤ t)).foldl (fun s c => ex.run (.evReservedCommandStart c) s) s1
/-- Nominal ticks pass (R30): what the slot in force has moved is forgotten when the next one begins (R13). -/
def State.passTime (ex : Exec) (s : State) (n : Nat) : State :=
  let now := s.gtc.toNat + n
  let s1 := (s.slotInstants n).foldl (fun s t => s.atInstant ex t) s
  { s1 with gtc := BitVec.ofNat 64 now, moved := if s.gtc.toNat / 8 = now / 8 then s1.moved else [] }
/-- One turn of an agent. DESIGN CHOICE: log 2. -/
def turn (ex : Exec) (a : Actor) (s : State) : Out :=
  match a with
  | .time n => .next (s.passTime ex n)
  | .core id => coreTurn ex id s
  | .rope key => .next (s.ropeTick ex key false)
  | .ahead key => .next (s.ropeTick ex key true)
  | .dispatch => dispatchTurn ex s
  | .event i => ex i s
  | .coreEvent id i => ex i { s with cur := { s.cur with core := id, rope := ((s.core id).rope).getD s.cur.rope } }
  | .ropeEvent key i => ex i { s with cur := { s.cur with rope := key } }
  | .delay core flight =>
    .next (s.onFlight core flight fun f => if s.mayDelay core f then { f with late := true } else f)
  | .serve core flight => .next (s.serveEarly core flight)
  | .absence key pkg sent => .next (s.absence key pkg sent)
  | .sample core flight => .next (s.sample core flight)
  | .wheel pc slot kind => .next (s.setWheel pc slot kind)
  | .linkUp port => .next { s with downLinks := s.downLinks.filter fun x => x.1 != port }
  | .durableFail id => .next { s with durable := s.durable.map fun d => if d.id == id && !d.accepted then { d with failed := true } else d }
/-- What may happen to a part without power, or whose firmware was refused (R31, R33). DESIGN CHOICE: log 16. -/
def Actor.outside : Actor → Bool
  | .time _ => true
  | .event (.evPowerOn _) => true
  | .event (.evResetN _) => true
  | .event .evThermalTrip => true
  | .event .evPowerLoss => true
  | .event .evI3cAccess => true
  | _ => false
/-- The agents of the part itself that could act, for a step whose agenda names none (R140: in what order is not given). DESIGN CHOICE: log 1. -/
def State.agents (s : State) : List Actor :=
  .time 1 :: .dispatch
    :: (s.cores.filter fun e => e.2.run != 0).map (fun e => Actor.core e.1)
    ++ (s.cores.flatMap fun e => e.2.accesses.map fun a => Actor.event (.evControlCoreAccessPerform e.1 a.id))
    ++ (s.cores.flatMap fun e => (e.2.flights.filter (·.late)).map fun f => Actor.event (.evLateDataArrival e.1 f.id))
    ++ (s.cores.flatMap fun e => (e.2.flights.filter fun f => !f.reads.2.isEmpty).map fun f => Actor.sample e.1 f.id)
    ++ (s.cores.flatMap fun e => (e.2.flights.filter fun f => !(s.hbmUnits f).all f.served.contains).map fun f => Actor.serve e.1 f.id)
    ++ s.ropes.map (fun r => Actor.rope r.key)
    ++ s.ropes.map (fun r => Actor.ahead r.key)
    ++ (s.ropes.flatMap fun r => (List.range r.height).map fun k => Actor.event (.evRowLoad r.key k))
    ++ (s.ropes.filter fun r => r.evict.isSome).map (fun r => Actor.ropeEvent r.key .evEvictGraceExpiry)
    ++ (s.ropes.filter fun r => r.barrier4.isSome).map (fun r => Actor.ropeEvent r.key .evBarrierTimeout)
    ++ s.ropes.map (fun r => Actor.event (.evRopeFreeQuietExpiry r.key))
    ++ (s.ifaces.flatMap fun e => [Actor.event (.evResponseWrite e.1), .event (.evSlotRecheck e.1), .event (.evKillFence e.1)])
    ++ (s.ifaces.flatMap fun e => e.2.commands.map fun p => Actor.event (.evEventWaitTimeout p.cmd))
    ++ s.durable.map (fun d => Actor.event (.evDurableWriteAccept d.id))
    ++ s.downLinks.map (fun x => Actor.event (.evPersistLinkTimeout x.1))
    ++ (s.requests.map fun e => Actor.event e.1)
    ++ (s.waitingSignals.map fun x => Actor.event (.evSignalReceive x.signal))
    ++ (s.waitingSignals.map fun x => Actor.event (.evSignalWaitTimeout x.signal.src))
/-- The agent that acts, and the state with it taken off the agenda. DESIGN CHOICE: log 1, log 16. -/
def State.nextActor (s : State) : Option (Actor × State) :=
  match s.agenda with
  | a :: r => some (a, { s with agenda := r })
  | [] =>
    if s.powered ∧ s.started then
      let l := s.agents
      (l[Config.nextAgent s.free l.length % l.length]?).map fun a => (a, s)
    else none
/-- How far one step moves the counter of the free values. DESIGN CHOICE: log 7. -/
def freePerStep : Nat := 65536
/-- One step of the part: one turn of one agent. DESIGN CHOICE: log 1, log 7, log 16. -/
def oneStep (ex : Exec) (s : State) : Out :=
  match s.nextActor with
  | none => .fault .noAgent
  | some (a, t) =>
    let u := { t with free := t.free + freePerStep }
    if (s.powered ∧ s.started) ∨ a.outside then turn ex a u else .next u

/-! ## A word to run -/

/-- The launch that a placed word stands in. DESIGN CHOICE: log 3. -/
def placedLaunch : Launch :=
  { id := 1, cmd := { iface := 1, pos := 0, slot := 0, consumed := 0 }, handle := 0, event := 0, arg := 0, rows := [0], started := 0, firstBase := 0,
    aligned := false, firstCode := 0, firstSub := 0, firstCore := 0xFFFF, faults := 0, failed := false, adopted := true,
    holds := 0, stalls := 0 }
/-- The rope that a placed word runs on: world 1, rope 0, core 0. DESIGN CHOICE: log 3. -/
def placedRope : Rope :=
  { ({ width := 1, height := 1, strict := false, span := false, asid := false, slots := 0, classes := 0 } : Ask).rope
      { world := 1, num := 0 } 0 0 [] 0 with running := some placedLaunch }
/-- Core 0 runs a word at its pc: it belongs to a running rope, nothing stops it, and it acts next. A rope that already runs there stays. DESIGN CHOICE: log 3. -/
def State.placeWord (s : State) (w : Nat) : State :=
  let c := s.core 0
  let pc := c.pc &&& 0xFFF8
  let ready : Core := { c with
    rope := some (c.rope.getD placedRope.key), run := if c.run = 0 then 1 else c.run, halted := false, stopped := false, dbgEvent := none,
    pending := [], accesses := [], dbgc := 0, pc := pc, im := writeAllZ c.im (cellsAt pc.toNat (leBytes 8 w)) }
  let t := s.setCore 0 ready
  let rs := if (s.rope? (c.rope.getD placedRope.key)).isSome then
      s.ropes.map fun r => if r.key == c.rope.getD placedRope.key then { r with freezing := .no, running := some (r.running.getD placedLaunch) } else r
    else s.ropes ++ [{ placedRope with key := c.rope.getD placedRope.key }]
  { t with powered := true, started := true, ropes := rs, agenda := .core 0 :: s.agenda }

end Sys2Proof.Machine
end

