-- ==== Sys2Proof/Machine/Scalar.lean ====
section
/-! DEFINITION. Register arithmetic and logic, bit fields and immediates of unit C (R264 to R268), and spaces (R275). -/
namespace Sys2Proof.Machine

/-- `c.add` (R266). -/
def execCAdd (d a b : Reg) (s : State) : Out :=
  s.alu d [a, b] ((s.here.reg a) + (s.here.reg b))

/-- `c.sub` (R266). -/
def execCSub (d a b : Reg) (s : State) : Out :=
  s.alu d [a, b] ((s.here.reg a) - (s.here.reg b))

/-- `c.and` (R266). -/
def execCAnd (d a b : Reg) (s : State) : Out :=
  s.alu d [a, b] ((s.here.reg a) &&& (s.here.reg b))

/-- `c.or` (R266). -/
def execCOr (d a b : Reg) (s : State) : Out :=
  s.alu d [a, b] ((s.here.reg a) ||| (s.here.reg b))

/-- `c.xor` (R266). -/
def execCXor (d a b : Reg) (s : State) : Out :=
  s.alu d [a, b] ((s.here.reg a) ^^^ (s.here.reg b))

/-- `c.andn` (R266). -/
def execCAndn (d a b : Reg) (s : State) : Out :=
  s.alu d [a, b] ((s.here.reg a) &&& ~~~(s.here.reg b))

/-- `c.shl` (R266). -/
def execCShl (d a b : Reg) (s : State) : Out :=
  s.alu d [a, b] ((s.here.reg a) <<< ((s.here.reg b).toNat % 64))

/-- `c.shr` (R266). -/
def execCShr (d a b : Reg) (s : State) : Out :=
  s.alu d [a, b] ((s.here.reg a) >>> ((s.here.reg b).toNat % 64))

/-- `c.sar` (R266). -/
def execCSar (d a b : Reg) (s : State) : Out :=
  s.alu d [a, b] ((s.here.reg a).sshiftRight ((s.here.reg b).toNat % 64))

/-- `c.fshl` (R266). -/
def execCFshl (d a b x : Reg) (s : State) : Out :=
  s.alu d [a, b, x] (funnelLeft (s.here.reg a) (s.here.reg b) (s.here.reg x))

/-- `c.fshr` (R266). -/
def execCFshr (d a b x : Reg) (s : State) : Out :=
  s.alu d [a, b, x] (funnelRight (s.here.reg a) (s.here.reg b) (s.here.reg x))

/-- `c.mul` (R266). -/
def execCMul (d a b : Reg) (s : State) : Out :=
  s.alu d [a, b] ((s.here.reg a) * (s.here.reg b))

/-- `c.mulh` (R266). -/
def execCMulh (d a b : Reg) (s : State) : Out :=
  s.alu d [a, b] (BitVec.ofInt 64 ((s.here.reg a).toInt * (s.here.reg b).toInt / 2 ^ 64))

/-- `c.mulhn` (R266). -/
def execCMulhn (d a b : Reg) (s : State) : Out :=
  s.alu d [a, b] (BitVec.ofNat 64 ((s.here.reg a).toNat * (s.here.reg b).toNat / 2 ^ 64))

/-- `c.divn` (R266). -/
def execCDivn (d a b : Reg) (s : State) : Out :=
  s.alu d [a, b] (if (s.here.reg b) = 0 then 0xFFFFFFFFFFFFFFFF else (s.here.reg a) / (s.here.reg b))

/-- `c.remn` (R266). -/
def execCRemn (d a b : Reg) (s : State) : Out :=
  s.alu d [a, b] (if (s.here.reg b) = 0 then (s.here.reg a) else (s.here.reg a) % (s.here.reg b))

/-- `c.min` (R266). -/
def execCMin (d a b : Reg) (s : State) : Out :=
  s.alu d [a, b] (if (s.here.reg a).sle (s.here.reg b) then (s.here.reg a) else (s.here.reg b))

/-- `c.max` (R266). -/
def execCMax (d a b : Reg) (s : State) : Out :=
  s.alu d [a, b] (if (s.here.reg b).sle (s.here.reg a) then (s.here.reg a) else (s.here.reg b))

/-- `c.minn` (R266). -/
def execCMinn (d a b : Reg) (s : State) : Out :=
  s.alu d [a, b] (if (s.here.reg a).ule (s.here.reg b) then (s.here.reg a) else (s.here.reg b))

/-- `c.maxn` (R266). -/
def execCMaxn (d a b : Reg) (s : State) : Out :=
  s.alu d [a, b] (if (s.here.reg b).ule (s.here.reg a) then (s.here.reg a) else (s.here.reg b))

/-- `c.seq` (R266). -/
def execCSeq (d a b : Reg) (s : State) : Out :=
  s.alu d [a, b] (boolW ((s.here.reg a) == (s.here.reg b)))

/-- `c.sne` (R266). -/
def execCSne (d a b : Reg) (s : State) : Out :=
  s.alu d [a, b] (boolW ((s.here.reg a) != (s.here.reg b)))

/-- `c.slt` (R266). -/
def execCSlt (d a b : Reg) (s : State) : Out :=
  s.alu d [a, b] (boolW ((s.here.reg a).slt (s.here.reg b)))

/-- `c.sle` (R266). -/
def execCSle (d a b : Reg) (s : State) : Out :=
  s.alu d [a, b] (boolW ((s.here.reg a).sle (s.here.reg b)))

/-- `c.sltn` (R266). -/
def execCSltn (d a b : Reg) (s : State) : Out :=
  s.alu d [a, b] (boolW ((s.here.reg a).ult (s.here.reg b)))

/-- `c.slen` (R266). -/
def execCSlen (d a b : Reg) (s : State) : Out :=
  s.alu d [a, b] (boolW ((s.here.reg a).ule (s.here.reg b)))

/-- `c.sel` (R266). -/
def execCSel (d a b x : Reg) (s : State) : Out :=
  s.alu d [a, b, x] (if s.here.reg x ≠ 0 then s.here.reg a else s.here.reg b)

/-- `c.clz` (R266). -/
def execCClz (d a : Reg) (s : State) : Out :=
  s.alu d [a] (BitVec.ofNat 64 (clzOf (s.here.reg a)))

/-- `c.ctz` (R266). -/
def execCCtz (d a : Reg) (s : State) : Out :=
  s.alu d [a] (BitVec.ofNat 64 (ctzOf (s.here.reg a)))

/-- `c.popc` (R266). -/
def execCPopc (d a : Reg) (s : State) : Out :=
  s.alu d [a] (BitVec.ofNat 64 (popOf (s.here.reg a)))

/-- `c.bext` (R267). -/
def execCBext (d a : Reg) (pos len1 : BitVec 6) (sx : Bool) (s : State) : Out :=
  s.alu d [a] (extractField (s.here.reg a) pos.toNat (len1.toNat + 1) sx)

/-- `c.bins` (R267): reads its own destination. -/
def execCBins (d a : Reg) (pos len1 : BitVec 6) (s : State) : Out :=
  s.alu d [d, a] (insertField (s.here.reg d) (s.here.reg a) pos.toNat (len1.toNat + 1))

/-- `c.addi` (R268). -/
def execCAddi (d a : Reg) (imm : BitVec 32) (s : State) : Out :=
  s.alu d [a] ((s.here.reg a) + (immI imm))

/-- `c.andi` (R268). -/
def execCAndi (d a : Reg) (imm : BitVec 32) (s : State) : Out :=
  s.alu d [a] ((s.here.reg a) &&& (immI imm))

/-- `c.ori` (R268). -/
def execCOri (d a : Reg) (imm : BitVec 32) (s : State) : Out :=
  s.alu d [a] ((s.here.reg a) ||| (immI imm))

/-- `c.xori` (R268). -/
def execCXori (d a : Reg) (imm : BitVec 32) (s : State) : Out :=
  s.alu d [a] ((s.here.reg a) ^^^ (immI imm))

/-- `c.muli` (R268). -/
def execCMuli (d a : Reg) (imm : BitVec 32) (s : State) : Out :=
  s.alu d [a] ((s.here.reg a) * (immI imm))

/-- `c.seqi` (R268). -/
def execCSeqi (d a : Reg) (imm : BitVec 32) (s : State) : Out :=
  s.alu d [a] (boolW ((s.here.reg a) == (immI imm)))

/-- `c.slti` (R268). -/
def execCSlti (d a : Reg) (imm : BitVec 32) (s : State) : Out :=
  s.alu d [a] (boolW ((s.here.reg a).slt (immI imm)))

/-- `c.sltni` (R268). -/
def execCSltni (d a : Reg) (imm : BitVec 32) (s : State) : Out :=
  s.alu d [a] (boolW ((s.here.reg a).ult (immI imm)))

/-- `c.mini` (R268). -/
def execCMini (d a : Reg) (imm : BitVec 32) (s : State) : Out :=
  s.alu d [a] (if (s.here.reg a).sle (immI imm) then (s.here.reg a) else (immI imm))

/-- `c.maxi` (R268). -/
def execCMaxi (d a : Reg) (imm : BitVec 32) (s : State) : Out :=
  s.alu d [a] (if (immI imm).sle (s.here.reg a) then (s.here.reg a) else (immI imm))

/-- `c.shli` (R268). -/
def execCShli (d a : Reg) (sh : BitVec 6) (s : State) : Out :=
  s.alu d [a] ((s.here.reg a) <<< sh.toNat)

/-- `c.shri` (R268). -/
def execCShri (d a : Reg) (sh : BitVec 6) (s : State) : Out :=
  s.alu d [a] ((s.here.reg a) >>> sh.toNat)

/-- `c.sari` (R268). -/
def execCSari (d a : Reg) (sh : BitVec 6) (s : State) : Out :=
  s.alu d [a] ((s.here.reg a).sshiftRight sh.toNat)

/-- `c.li` (R268). -/
def execCLi (d : Reg) (imm : BitVec 32) (s : State) : Out :=
  s.alu d [] (immI imm)

/-- `c.lih` (R268): the high half; reads its own destination. -/
def execCLih (d : Reg) (imm : BitVec 32) (s : State) : Out :=
  s.alu d [d] (imm ++ (s.here.reg d).truncate 32)

/-- `c.spt` (R275): the space code; never faults. -/
def execCSpt (d a : Reg) (s : State) : Out := s.alu d [a] (BitVec.ofNat 64 (spaceCode (s.here.reg a)))

/-- `c.spc` (R275): the offset in an expected space, else 0x0A, or 0x0B for another core's pointer. -/
def execCSpc (d a : Reg) (space : BitVec 2) (s : State) : Out :=
  s.waitFor [d, a] (
    let p := s.here.reg a
    match decodePtr p with
    | none => s.faultHere 0x0A p
    | some (sp, own, off) =>
      if sp ≠ space.toNat then s.faultHere 0x0A p
      else if own.isSome ∧ own ≠ some s.cur.core then s.faultHere 0x0B p
      else s.setHere ((s.here.setReg d (BitVec.ofNat 64 off)).retire))

/-- `c.spg` (R275): a pointer to an offset, stamped with this core. -/
def execCSpg (d a : Reg) (space : BitVec 2) (s : State) : Out :=
  s.waitFor [d, a] (
    let p := s.here.reg a
    if spaceSize space.toNat ≤ p.toNat then s.faultHere 0x0A p
    else s.setHere ((s.here.setReg d (makePtr space.toNat s.cur.core p.toNat)).retire))

end Sys2Proof.Machine
end

