-- ==== Sys2Proof/Machine/Vector.lean ====
section
/-! DEFINITION. Vector engine instructions (R286 to R314): each reads at its issue tick and writes at the tick of R291. -/
namespace Sys2Proof.Machine

/-! ## Lanes -/

/-- A result of an element type in its lane (R287): sign-extended for i4, i8, i16 and i32, zero-extended otherwise. -/
def laneOf (t : BitVec 4) (n : Nat) : Lane :=
  if isSigned t then BitVec.ofInt 32 (sextNat (widthOf t) (n % 2 ^ widthOf t)) else BitVec.ofNat 32 (n % 2 ^ widthOf t)
/-- A lane read as an integer of a type (R287). -/
def laneInt (t : BitVec 4) (x : Lane) : Int :=
  let n := x.toNat % 2 ^ widthOf t
  if isSigned t then sextNat (widthOf t) n else n
/-- What one lane receives: value, flags, substitutions. -/
abbrev LaneResult := Lane × BitVec 6 × Nat
/-- A lane result without flags. -/
def plain (x : Lane) : LaneResult := (x, 0, 0)
/-- An exact integer wrapped into a type; outside its range, saturation is flagged (R295). -/
def wrapInt (t : BitVec 4) (i : Int) : LaneResult :=
  (laneOf t (intBits (widthOf t) i), if i < intLo t ∨ intHi t < i then fSat else 0, 0)
/-- An exact integer clamped into a type (R295, R302). -/
def clampInt (t : BitVec 4) (i : Int) : LaneResult :=
  (laneOf t (intBits (widthOf t) (max (intLo t) (min (intHi t) i))), if i < intLo t ∨ intHi t < i then fSat else 0, 0)
/-- A rounded float result (R289). -/
def floatLane (t : BitVec 4) (rtz : Bool) (ins : List Val) (r : Val × BitVec 6) : LaneResult :=
  let x := finish t rtz ins r
  (laneOf t x.1, x.2, 0)
/-- The canonical NaN of a type, with the NaN-input flag. -/
def nanLane (t : BitVec 4) : LaneResult := (laneOf t (toFormat t false false .nan).1, fNan, 0)

/-- The status that lanes leave (R294). -/
def laneStatus (rs : List (Nat × LaneResult)) : Status :=
  rs.foldl (fun st r => st.merge (Status.one r.1 r.2.2.1 r.2.2.2)) .none
/-- Issue of a V instruction that writes lanes of a physical register: it touches what it reads now, and writes later (R290, R291). -/
def State.vWrite (s : State) (reads : List Nat) (phys lat : Nat) (rs : List (Nat × LaneResult)) : State :=
  let t := s.cur.job.t
  let s1 := s.onCore s.cur.core fun c => c.touch reads
  let s2 := s1.fly s.cur.core s.cur.job (t + lat) (.vrf (rs.map fun r => (phys * 64 + r.1, r.2.1)))
  let st := laneStatus rs
  if st = .none then s2 else s2.fly s.cur.core s.cur.job (t + lat) (.vflags st)
/-- The active lanes of a mask, ascending. -/
def activeLanes (mask : Word) : List Nat := (List.range 64).filter fun j => mask.getLsbD j
/-- A lane-wise V-R instruction: f of lanes A, B and D (R288, R295). -/
def State.vLanes (s : State) (o : VR) (lat : Nat) (readB readD : Bool) (f : Lane → Lane → Lane → LaneResult) : Out :=
  let c := s.here
  let p (v : BitVec 8) := physReg c.vrb v.toNat
  let a := c.lanes o.a
  let b := c.lanes o.b
  let d := c.lanes o.d
  let rs := (activeLanes (c.activeMask o.g o.n)).map fun j => (j, f (a.getD j 0) (b.getD j 0) (d.getD j 0))
  .next (s.vWrite ([p o.a] ++ (if readB then [p o.b] else []) ++ (if readD then [p o.d] else [])) (p o.d) lat rs)
/-- A V-R instruction whose lane j receives f j of the whole source registers. -/
def State.vGather (s : State) (o : VR) (lat : Nat) (readB : Bool) (f : Nat → List Lane → List Lane → LaneResult) : Out :=
  let c := s.here
  let p (v : BitVec 8) := physReg c.vrb v.toNat
  let a := c.lanes o.a
  let b := c.lanes o.b
  let rs := (activeLanes (c.activeMask o.g o.n)).map fun j => (j, f j a b)
  .next (s.vWrite ([p o.a] ++ (if readB then [p o.b] else [])) (p o.d) lat rs)

/-! ## Arithmetic (R295, R296) -/

/-- m[0]: round toward zero. -/
def rtzOf (o : VR) : Bool := o.m.getLsbD 0
/-- The element of a lane as a value. -/
def laneVal (t : BitVec 4) (x : Lane) : Val := decodeElem t x.toNat
/-- Arithmetic of both families: an exact integer function and an exact float function. -/
def arith (o : VR) (fi : Int → Int → Int) (ff : Val → Val → Val × BitVec 6) (a b : Lane) : LaneResult :=
  if isInt o.t then wrapInt o.t (fi (laneInt o.t a) (laneInt o.t b))
  else floatLane o.t (rtzOf o) [laneVal o.t a, laneVal o.t b] (ff (laneVal o.t a) (laneVal o.t b))
/-- The ticks to a write of INT or FLT (R291). -/
def latOf (o : VR) (int flt : Nat) : Nat := if isInt o.t then int else flt
/-- Lesser or greater of two lanes (R295): −0 < +0; a NaN gives the canonical NaN. -/
def pick (t : BitVec 4) (greater : Bool) (a b : Lane) : LaneResult :=
  if isInt t then
    let less := decide (laneInt t a ≤ laneInt t b)
    plain (laneOf t ((if less != greater then a else b).toNat))
  else
    let x := laneVal t a
    let y := laneVal t b
    if x.isNan || y.isNan then nanLane t
    else
      let aNeg := a.getLsbD (widthOf t - 1)
      let less := x.lt y || (!y.lt x && aNeg)
      plain (laneOf t ((if less != greater then a else b).toNat))
/-- Sign operations of FLT: exact on the encoding (R295). -/
def signOp (t : BitVec 4) (clear : Bool) (a : Lane) : LaneResult :=
  if (laneVal t a).isNan then nanLane t
  else
    let w := widthOf t
    let n := a.toNat % 2 ^ w
    let sign := 2 ^ (w - 1)
    plain (laneOf t (if clear then n % sign else if n < sign then n + sign else n - sign))

/-- `v.add` (R295). -/
def execVAdd (o : VR) (s : State) : Out := s.vLanes o (latOf o 1 3) true false fun a b _ => arith o (· + ·) Val.add a b
/-- `v.sub` (R295). -/
def execVSub (o : VR) (s : State) : Out :=
  s.vLanes o (latOf o 1 3) true false fun a b _ => arith o (· - ·) (fun x y => x.add y.neg) a b
/-- `v.mul` (R295): the low half of the product. -/
def execVMul (o : VR) (s : State) : Out := s.vLanes o (latOf o 3 4) true false fun a b _ => arith o (· * ·) Val.mul a b
/-- `v.mulh` (R295): the high half; never flags. -/
def execVMulh (o : VR) (s : State) : Out :=
  s.vLanes o 3 true false fun a b _ =>
    plain (laneOf o.t (intBits (widthOf o.t) (laneInt o.t a * laneInt o.t b / (2 ^ widthOf o.t : Nat))))
/-- `v.fma` (R295, R296): one rounding. -/
def execVFma (o : VR) (s : State) : Out :=
  s.vLanes o 4 true true fun a b d =>
    let p := (laneVal o.t a).mul (laneVal o.t b)
    let r := p.1.add (laneVal o.t d)
    floatLane o.t (rtzOf o) [laneVal o.t a, laneVal o.t b, laneVal o.t d] (r.1, p.2 ||| r.2)
/-- `v.mad` (R295, R296). -/
def execVMad (o : VR) (s : State) : Out :=
  s.vLanes o 3 true true fun a b d => wrapInt o.t (laneInt o.t a * laneInt o.t b + laneInt o.t d)
/-- `v.min` (R295). -/
def execVMin (o : VR) (s : State) : Out := s.vLanes o (latOf o 1 3) true false fun a b _ => pick o.t false a b
/-- `v.max` (R295). -/
def execVMax (o : VR) (s : State) : Out := s.vLanes o (latOf o 1 3) true false fun a b _ => pick o.t true a b
/-- `v.abs` (R295). -/
def execVAbs (o : VR) (s : State) : Out :=
  s.vLanes o 1 false false fun a _ _ => if isInt o.t then wrapInt o.t (laneInt o.t a).natAbs else signOp o.t true a
/-- `v.neg` (R295). -/
def execVNeg (o : VR) (s : State) : Out :=
  s.vLanes o 1 false false fun a _ _ => if isInt o.t then wrapInt o.t (-laneInt o.t a) else signOp o.t false a
/-- `v.adds` (R295). -/
def execVAdds (o : VR) (s : State) : Out :=
  s.vLanes o 1 true false fun a b _ => clampInt o.t (laneInt o.t a + laneInt o.t b)
/-- `v.subs` (R295). -/
def execVSubs (o : VR) (s : State) : Out :=
  s.vLanes o 1 true false fun a b _ => clampInt o.t (laneInt o.t a - laneInt o.t b)

/-! ## Logic, shifts and bits (R297, R298) -/

/-- `v.and` (R297). -/
def execVAnd (o : VR) (s : State) : Out := s.vLanes o 1 true false fun a b _ => plain (a &&& b)
/-- `v.or` (R297). -/
def execVOr (o : VR) (s : State) : Out := s.vLanes o 1 true false fun a b _ => plain (a ||| b)
/-- `v.xor` (R297). -/
def execVXor (o : VR) (s : State) : Out := s.vLanes o 1 true false fun a b _ => plain (a ^^^ b)
/-- `v.andn` (R297). -/
def execVAndn (o : VR) (s : State) : Out := s.vLanes o 1 true false fun a b _ => plain (a &&& ~~~b)
/-- `v.not` (R297). -/
def execVNot (o : VR) (s : State) : Out := s.vLanes o 1 false false fun a _ _ => plain (~~~a)
/-- `v.shl` (R297): bits [31:5] of the amount are ignored. -/
def execVShl (o : VR) (s : State) : Out := s.vLanes o 1 true false fun a b _ => plain (a <<< (b.toNat % 32))
/-- `v.shr` (R297). -/
def execVShr (o : VR) (s : State) : Out := s.vLanes o 1 true false fun a b _ => plain (a >>> (b.toNat % 32))
/-- `v.sar` (R297). -/
def execVSar (o : VR) (s : State) : Out := s.vLanes o 1 true false fun a b _ => plain (a.sshiftRight (b.toNat % 32))
/-- `v.fshl` (R297): m is the amount. -/
def execVFshl (o : VR) (s : State) : Out :=
  s.vLanes o 1 true false fun a b _ => plain (BitVec.ofNat 32 ((a.toNat * 2 ^ 32 + b.toNat) * 2 ^ o.m.toNat / 2 ^ 32))
/-- `v.fshr` (R297). -/
def execVFshr (o : VR) (s : State) : Out :=
  s.vLanes o 1 true false fun a b _ => plain (BitVec.ofNat 32 ((a.toNat * 2 ^ 32 + b.toNat) / 2 ^ o.m.toNat))
/-- `v.clz` (R298). -/
def execVClz (o : VR) (s : State) : Out := s.vLanes o 1 false false fun a _ _ => plain (BitVec.ofNat 32 (clzOf a))
/-- `v.popc` (R298). -/
def execVPopc (o : VR) (s : State) : Out := s.vLanes o 1 false false fun a _ _ => plain (BitVec.ofNat 32 (popOf a))
/-- `v.bext` (R298): b holds sx and pos, m holds len − 1. -/
def execVBext (o : VR) (s : State) : Out :=
  s.vLanes o 1 false false fun a _ _ =>
    let len := o.m.toNat + 1
    let f := a.toNat / 2 ^ (o.b.toNat % 32) % 2 ^ len
    plain (if o.b.getLsbD 5 then BitVec.ofInt 32 (sextNat len f) else BitVec.ofNat 32 f)

/-! ## Comparisons, selection (R299, R300) -/

/-- A compare: the relation on integers and on values that are not NaN; `onNan` is the answer for a NaN operand. -/
def State.vCompare (s : State) (o : VR) (ri : Int → Int → Bool) (rf : Val → Val → Bool) (onNan : Bool) : Out :=
  let c := s.here
  let a := c.lanes o.a
  let b := c.lanes o.b
  let act := activeLanes (c.activeMask o.g o.n)
  let res (j : Nat) : Bool × BitVec 6 :=
    let x := a.getD j 0
    let y := b.getD j 0
    if isInt o.t then (ri (laneInt o.t x) (laneInt o.t y), 0)
    else
      let u := laneVal o.t x
      let v := laneVal o.t y
      if u.isNan || v.isNan then (onNan, fNan) else (rf u v, 0)
  let bits := BitVec.ofNat 64 ((act.filter fun j => (res j).1).map (2 ^ ·)).sum
  let st := act.foldl (fun st j => st.merge (Status.one j (res j).2 0)) .none
  let t := s.cur.job.t
  let s1 := s.onCore s.cur.core fun c => c.touch [physReg c.vrb o.a.toNat, physReg c.vrb o.b.toNat]
  let s2 := s1.fly s.cur.core s.cur.job (t + 1) (.pred o.d.toNat (c.activeMask o.g o.n) bits)
  .next (if st = .none then s2 else s2.fly s.cur.core s.cur.job (t + 1) (.vflags st))
/-- `v.ceq` (R299). -/
def execVCeq (o : VR) (s : State) : Out := s.vCompare o (· == ·) (fun x y => !x.lt y && !y.lt x) false
/-- `v.cne` (R299). -/
def execVCne (o : VR) (s : State) : Out := s.vCompare o (· != ·) (fun x y => x.lt y || y.lt x) true
/-- `v.clt` (R299). -/
def execVClt (o : VR) (s : State) : Out := s.vCompare o (fun x y => decide (x < y)) Val.lt false
/-- `v.cle` (R299). -/
def execVCle (o : VR) (s : State) : Out := s.vCompare o (fun x y => decide (x ≤ y)) (fun x y => !y.lt x) false
/-- `v.sel` (R300): m names the selector and inverts it. -/
def execVSel (o : VR) (s : State) : Out :=
  let sel := s.here.predicate (o.m.toNat % 16)
  let w : Word := if o.m.getLsbD 4 then ~~~sel else sel
  s.vGather o 1 true fun j a b => plain (if w.getLsbD j then a.getD j 0 else b.getD j 0)

/-! ## Conversion, requantisation, packing (R301 to R303) -/

/-- `v.cvt` (R301): from the format in b to T; m[0] rounds toward zero, m[1] saturates. -/
def execVCvt (o : VR) (s : State) : Out :=
  let f : BitVec 4 := o.b.truncate 4
  s.vLanes o 3 false false fun a _ _ =>
    let r := toFormat o.t (rtzOf o) (o.m.getLsbD 1) (decodeElem f a.toNat)
    (laneOf o.t r.1, r.2, if substituted f a.toNat then 1 else 0)
/-- The rounding of `v.rshq`: nearest, ties to even, or floor (R302). -/
def shiftRound (floor : Bool) (p : Int) (k : Nat) : Int :=
  let n := p / (2 ^ k : Nat)
  let r := p % (2 ^ k : Nat)
  if floor then n else if 2 * r < 2 ^ k ∨ (2 * r = 2 ^ k ∧ n % 2 = 0) then n else n + 1
/-- `v.rshq` (R302). -/
def execVRshq (o : VR) (s : State) : Out :=
  s.vLanes o 3 true false fun a b _ =>
    clampInt o.t (shiftRound (o.m.getLsbD 0) (sextNat 32 a.toNat * sextNat 16 (b.toNat / 2 ^ 16)) (b.toNat % 64))
/-- One narrow element that is moved: an i4 0b1000 becomes 0 and is counted (R303). -/
def moveElem (t : BitVec 4) (w : Nat) (n : Nat) : Nat × Nat :=
  if substituted t n then (0, 1) else (n % 2 ^ w, 0)
/-- Bits per element that packing moves: l6 moves its byte (R303). -/
def packWidth (t : BitVec 4) : Nat := if t = 12 then 4 else if t = 0 ∨ t = 1 ∨ t = 9 ∨ t = 10 ∨ t = 11 then 8 else 16
/-- `v.pack` (R303): active lanes of the written range take several elements each. -/
def execVPack (o : VR) (s : State) : Out :=
  let c := s.here
  let e := c.lanes o.a ++ c.lanes o.b
  let w := packWidth o.t
  let per := 32 / w
  let count := 128 / per
  let first := o.m.toNat * count
  let rs := (activeLanes (c.activeMask o.g o.n)).filterMap fun l =>
    if first ≤ l ∧ l < first + count then
      let xs := (List.range per).map fun q => moveElem o.t w (e.getD (per * (l - first) + q) 0).toNat
      some (l, (BitVec.ofNat 32 ((xs.mapIdx fun q x => x.1 * 2 ^ (w * q)).sum), (0 : BitVec 6), (xs.map (·.2)).sum))
    else none
  let p (v : BitVec 8) := physReg c.vrb v.toNat
  .next (s.vWrite [p o.a, p o.b] (p o.d) 2 rs)
/-- `v.unpk` (R303): lane j takes one element of a. -/
def execVUnpk (o : VR) (s : State) : Out :=
  let w := packWidth o.t
  let per := 32 / w
  s.vGather o 2 false fun j a _ =>
    let x := moveElem o.t w ((a.getD (64 / per * o.m.toNat + j / per) 0).toNat / 2 ^ (w * (j % per)))
    (if o.t = 11 then BitVec.ofNat 32 x.1 else laneOf o.t x.1, 0, x.2)

/-! ## Reductions (R304) -/

/-- One level of the tree: the lower half first. -/
def treeLevel {α : Type} (op : α → α → α) (l : Nat) (part : List α) : List α :=
  part.mapIdx fun i x => if i % 2 ^ l = 0 then match part[i + 2 ^ (l - 1)]? with | some y => op x y | none => x else x
/-- The k levels of the tree (R304). -/
def treeFold {α : Type} (op : α → α → α) : Nat → Nat → List α → List α
  | 0, _, part => part
  | k + 1, l, part => treeFold op k (l + 1) (treeLevel op l part)
/-- A reduction in groups of 2^k lanes: inputs or identities, the operation, and what the group's part gives its lanes. -/
def State.vReduce {α : Type} (s : State) (o : VR) (lat : Nat) (elem : Option Lane → α) (op : α → α → α) (fin : α → LaneResult) : Out :=
  let c := s.here
  let k := o.m.toNat % 8
  let a := c.lanes o.a
  let mask := c.activeMask o.g o.n
  let part := (List.range 64).map fun j => elem (if mask.getLsbD j then some (a.getD j 0) else none)
  let tree := treeFold op k 1 part
  let rs := (activeLanes mask).filterMap fun j => (tree[j / 2 ^ k * 2 ^ k]?).map fun x => (j, fin x)
  let p (v : BitVec 8) := physReg c.vrb v.toNat
  .next (s.vWrite [p o.a] (p o.d) lat rs)
/-- One addition of an FLT sum (R304): RNE32 of the exact sum, with the flags met so far. -/
def sum32 (x y : Nat × BitVec 6) : Nat × BitVec 6 :=
  let u := decodeElem 8 x.1
  let v := decodeElem 8 y.1
  let r := finish 8 false [u, v] (u.add v)
  (r.1, x.2 ||| y.2 ||| r.2)
/-- `v.rsum` (R304). -/
def execVRsum (o : VR) (s : State) : Out :=
  let k := o.m.toNat % 8
  if isInt o.t then
    s.vReduce o (1 + k) (fun x => match x with | some l => laneInt o.t l | none => 0) (· + ·) (fun i => wrapInt o.t i)
  else
    s.vReduce o (1 + 3 * k)
      (fun x => match x with | some l => (toFormat 8 false false (laneVal o.t l)) | none => ((0 : Nat), (0 : BitVec 6))) sum32
      (fun r =>
        let v := decodeElem 8 r.1
        let x := toFormat o.t false false v
        (laneOf o.t x.1, r.2 ||| (x.2 &&& ~~~fNan), 0))
/-- The maximum or minimum of two contributions: none is the identity (R304). -/
def pickOpt (t : BitVec 4) (greater : Bool) (x y : Option Lane) : Option Lane :=
  match x, y with
  | none, y => y
  | x, none => x
  | some a, some b => some (pick t greater a b).1
/-- What a group's maximum or minimum gives: a NaN is canonical and flagged (R304). -/
def pickFin (t : BitVec 4) (x : Option Lane) : LaneResult :=
  match x with
  | none => plain 0
  | some a => if isFlt t && (laneVal t a).isNan then nanLane t else plain (laneOf t a.toNat)
/-- `v.rmax` (R304). -/
def execVRmax (o : VR) (s : State) : Out := s.vReduce o (1 + o.m.toNat % 8) id (pickOpt o.t true) (pickFin o.t)
/-- `v.rmin` (R304). -/
def execVRmin (o : VR) (s : State) : Out := s.vReduce o (1 + o.m.toNat % 8) id (pickOpt o.t false) (pickFin o.t)

/-! ## Moves between lanes, indirect access, constants (R305 to R308) -/

/-- `v.perm` (R305). -/
def execVPerm (o : VR) (s : State) : Out := s.vGather o 3 true fun j a b => plain (a.getD ((b.getD j 0).toNat % 64) 0)
/-- `v.shfl` (R305): kinds xor, rot, dn, up. -/
def execVShfl (o : VR) (s : State) : Out :=
  let k := o.b.toNat / 64
  let d := o.b.toNat % 64
  s.vGather o 3 false fun j a _ =>
    plain (if k = 0 then a.getD (j ^^^ d) 0 else if k = 1 then a.getD ((j + d) % 64) 0
      else if k = 2 then (if j + d ≤ 63 then a.getD (j + d) 0 else 0) else if j < d then 0 else a.getD (j - d) 0)
/-- `v.bcst` (R305). -/
def execVBcst (o : VR) (s : State) : Out := s.vGather o 3 false fun _ a _ => plain (a.getD (o.b.toNat % 64) 0)
/-- `v.rdx` (R306): each active lane reads the register its index names. -/
def execVRdx (o : VR) (s : State) : Out :=
  let c := s.here
  let a := c.lanes o.a
  let act := activeLanes (c.activeMask o.g o.n)
  let src (j : Nat) := physReg c.vrb ((a.getD j 0).toNat % 256)
  let rs := act.map fun j => (j, plain (c.lane (src j * 64 + j)))
  .next (s.vWrite (physReg c.vrb o.a.toNat :: act.map src) (physReg c.vrb o.d.toNat) 2 rs)
/-- `v.wrx` (R306): each active lane writes the register its index names. -/
def execVWrx (o : VR) (s : State) : Out :=
  let c := s.here
  let a := c.lanes o.a
  let b := c.lanes o.b
  let act := activeLanes (c.activeMask o.g o.n)
  let cells := act.map fun j => (physReg c.vrb ((a.getD j 0).toNat % 256) * 64 + j, b.getD j 0)
  let s1 := s.onCore s.cur.core fun c => c.touch [physReg c.vrb o.a.toNat, physReg c.vrb o.b.toNat]
  .next (s1.fly s.cur.core s.cur.job (s.cur.job.t + 2) (.vrf cells))
/-- `v.mov` (R307). -/
def execVMov (o : VR) (s : State) : Out := s.vLanes o 1 false false fun a _ _ => plain a
/-- `v.li` (R307). -/
def execVLi (o : VI) (s : State) : Out :=
  let c := s.here
  let d := c.lanes o.d
  let hi := o.m.getLsbD 0
  let rs := (activeLanes (c.activeMask o.g o.n)).map fun j =>
    (j, plain (if hi then o.imm ++ (d.getD j 0).truncate 16
      else if o.t = 4 then o.imm.signExtend 32 else if o.t = 5 then o.imm.zeroExtend 32 else o.imm ++ (0 : BitVec 16)))
  let p := physReg c.vrb o.d.toNat
  .next (s.vWrite (if hi then [p] else []) p 1 rs)
/-- `v.lane` (R307). -/
def execVLane (o : VR) (s : State) : Out :=
  let c := s.here
  .next (s.vWrite [] (physReg c.vrb o.d.toNat) 1 ((activeLanes (c.activeMask o.g o.n)).map fun j => (j, plain (BitVec.ofNat 32 j))))
/-- `v.frs` (R307): half of the scalar that routing froze. -/
def execVFrs (o : VR) (s : State) : Out :=
  let c := s.here
  let v : Lane := if o.m.getLsbD 0 then BitVec.ofNat 32 (s.cur.job.entry.va.toNat / 2 ^ 32) else s.cur.job.entry.va.truncate 32
  .next (s.vWrite [] (physReg c.vrb o.d.toNat) 1 ((activeLanes (c.activeMask o.g o.n)).map fun j => (j, plain v)))
/-- Interpolation between two entries (R308). -/
def lutLane (t : BitVec 4) (rtz : Bool) (e0 e1 : Lane) (f : Nat) : LaneResult :=
  if f = 0 then (match t == 4, laneVal 8 e0 with | false, .nan => plain 0x7FC00000 | _, _ => plain e0)
  else if t = 4 then
    let p := sextNat 32 e0.toNat * 2 ^ 26 + (sextNat 32 e1.toNat - sextNat 32 e0.toNat) * (f : Int)
    plain (BitVec.ofInt 32 (if rtz then p.tdiv (2 ^ 26) else shiftRound false p 26))
  else
    let x := laneVal 8 e0
    let y := laneVal 8 e1
    match x, y with
    | .nan, _ => nanLane 8
    | _, .nan => nanLane 8
    | .fin .., .fin .. =>
      let d := (y.add x.neg).1
      let p := match d with | .fin n m e => Val.fin n (m * f) (e - 26) | v => v
      floatLane 8 rtz [x, y] (x.add p)
    | _, _ => if e0 = e1 then plain e0 else (laneOf 8 0x7FC00000, fInvalid, 0)
/-- `v.lut` (R308): entry 64 is lane 0 of the next register. -/
def execVLut (o : VR) (s : State) : Out :=
  let c := s.here
  let a := c.lanes o.a
  let e := c.lanes o.b ++ [c.lane (physReg c.vrb (o.b.toNat + 1) * 64)]
  let rs := (activeLanes (c.activeMask o.g o.n)).map fun j =>
    let x := (a.getD j 0).toNat
    (j, lutLane o.t (rtzOf o) (e.getD (x / 2 ^ 26) 0) (e.getD (x / 2 ^ 26 + 1) 0) (x % 2 ^ 26))
  .next (s.vWrite [physReg c.vrb o.a.toNat, physReg c.vrb o.b.toNat, physReg c.vrb (o.b.toNat + 1)] (physReg c.vrb o.d.toNat) 5 rs)

/-! ## Tile-memory loads and stores (R309 to R311) -/

/-- W bytes of a width field. -/
def vmBytes (o : VM) : Nat := 2 ^ o.w.toNat
/-- The base address of the instance: stepped in a loop (R354). -/
def State.vBase (s : State) (addr : BitVec 20) : Nat := addr.toNat + s.cur.job.tileStep * 256
/-- Issue checks in the order of R293: a stepped base outside the store (R354), alignment, declared sets. An instruction that touches no byte,
as `v.stm` under a zero mask, has no check (R314). -/
def State.vCheck (s : State) (o : VM) (write : Bool) (align n : Nat) (addrs : List Int) (go : State) : Out :=
  if addrs.isEmpty then .next go
  else if 2 ^ 20 ≤ s.vBase o.addr then .next (s.issueFault 0x0A 0 (s.vBase o.addr))
  else match addrs.find? fun a => a % (align : Int) ≠ 0 with
    | some a => .next (s.suspend s.cur.core s.cur.job 0 .none 0x0F 0 (BitVec.ofInt 64 a) s.cur.job.t)
    | none =>
      match addrs.find? fun a => decide (a < 0) || (s.cur.job.outsideSpan write a.toNat n).isSome with
      | some a => .next (s.suspend s.cur.core s.cur.job 0 .none 0x16 0 (BitVec.ofInt 64 a) s.cur.job.t)
      | none => .next go
/-- The bytes that lane addresses of W bytes cover. -/
def spanOf (addrs : List Int) (n : Nat) : List Nat := addrs.flatMap fun a => (List.range n).map (a.toNat + ·)
/-- A load of W bytes from each lane's address (R309). -/
def State.vLoad (s : State) (o : VM) (addrs : List Int) (reads : List Nat) : Out :=
  let n := (vmBytes o)
  let s1 := s.onCore s.cur.core fun c => (c.touch reads).port 1 (spanOf addrs n)
  let cells := addrs.mapIdx fun j a => (physReg s.here.vrb o.r.toNat * 64 + j, BitVec.ofNat 32 (s.here.tileNat a.toNat n))
  s.vCheck o false n n addrs (s1.fly s.cur.core s.cur.job (s.cur.job.t + 2) (.vrf cells))
/-- A store of the low W bytes of chosen lanes to their addresses; of lanes that meet, the highest prevails (R309, R310). -/
def State.vStore (s : State) (o : VM) (align : Nat) (lanes : List (Nat × Int)) (reads : List Nat) : Out :=
  let n := (vmBytes o)
  let d := s.here.lanes o.r
  let cells := lanes.flatMap fun l => cellsAt l.2.toNat (leBytes n (d.getD l.1 0).toNat)
  let s1 := s.onCore s.cur.core fun c => c.touch (physReg c.vrb o.r.toNat :: reads)
  s.vCheck o true align n (lanes.map (·.2)) (s1.fly s.cur.core s.cur.job (s.cur.job.t + 2) (.tile cells))
/-- Addresses A + j × stride. -/
def State.strided (s : State) (o : VM) (stride : Int) : List Int := (List.range 64).map fun (j : Nat) => (s.vBase o.addr : Int) + j * stride
/-- Addresses A + I[j] × W. -/
def State.indexed (s : State) (o : VM) : List Int :=
  (s.here.lanes o.x).map fun i => (s.vBase o.addr : Int) + i.toNat * (vmBytes o)
/-- `v.ld` (R309). -/
def execVLd (o : VM) (s : State) : Out := s.vLoad o (s.strided o (vmBytes o)) []
/-- `v.lds` (R309): the stride was frozen at routing. -/
def execVLds (o : VM) (s : State) : Out := s.vLoad o (s.strided o s.cur.job.entry.va.toInt) []
/-- `v.ldx` (R309). -/
def execVLdx (o : VM) (s : State) : Out := s.vLoad o (s.indexed o) [physReg s.here.vrb o.x.toNat]
/-- `v.st` (R309). -/
def execVSt (o : VM) (s : State) : Out := s.vStore o (vmBytes o) ((s.strided o (vmBytes o)).mapIdx fun j a => (j, a)) []
/-- `v.sts` (R309). -/
def execVSts (o : VM) (s : State) : Out := s.vStore o (vmBytes o) ((s.strided o s.cur.job.entry.va.toInt).mapIdx fun j a => (j, a)) []
/-- `v.stx` (R309). -/
def execVStx (o : VM) (s : State) : Out :=
  s.vStore o (vmBytes o) ((s.indexed o).mapIdx fun j a => (j, a)) [physReg s.here.vrb o.x.toNat]
/-- `v.stm` (R310): the lanes of a predicate, at any alignment. -/
def execVStm (o : VM) (s : State) : Out :=
  let m := s.here.predicate o.x.toNat
  s.vStore o 1 (((s.strided o (vmBytes o)).mapIdx fun j a => (j, a)).filter fun l => m.getLsbD l.1) []
/-- An 8-byte store to tile memory (R311). -/
def State.vStore8 (s : State) (o : VM) (v : Word) (s1 : State) : Out :=
  s.vCheck o true 8 8 [s.vBase o.addr]
    (s1.fly s.cur.core s.cur.job (s.cur.job.t + 2) (.tile (cellsAt (s.vBase o.addr) (leBytes 8 v.toNat))))
/-- `v.pst` (R311). -/
def execVPst (o : VM) (s : State) : Out := s.vStore8 o (s.here.predicate o.r.toNat) s
/-- `v.pld` (R311): a load into `p0` is discarded. -/
def execVPld (o : VM) (s : State) : Out :=
  let a := s.vBase o.addr
  let s1 := s.onCore s.cur.core fun c => c.port 1 ((List.range 8).map (a + ·))
  s.vCheck o false 8 8 [a]
    (s1.fly s.cur.core s.cur.job (s.cur.job.t + 2) (.pred o.r.toNat (~~~(0 : Word)) (BitVec.ofNat 64 (s.here.tileNat a 8))))
/-- `v.stw` (R311): the sticky status is read and cleared at the issue tick. -/
def execVStw (o : VM) (s : State) : Out :=
  s.vStore8 o s.here.vstatus.word (s.onCore s.cur.core fun c => { c with vstatus := .none })

/-! ## Predicate operations (R312) -/

/-- A predicate operation: reads now, writes at t+1; `p0` discards. -/
def State.vPred (s : State) (o : VR) (v : Word) : Out :=
  .next (s.fly s.cur.core s.cur.job (s.cur.job.t + 1) (.pred o.d.toNat (~~~(0 : Word)) v))
/-- `v.pand` (R312). -/
def execVPand (o : VR) (s : State) : Out := s.vPred o (s.here.predicate o.a.toNat &&& s.here.predicate o.b.toNat)
/-- `v.por` (R312). -/
def execVPor (o : VR) (s : State) : Out := s.vPred o (s.here.predicate o.a.toNat ||| s.here.predicate o.b.toNat)
/-- `v.pxor` (R312). -/
def execVPxor (o : VR) (s : State) : Out := s.vPred o (s.here.predicate o.a.toNat ^^^ s.here.predicate o.b.toNat)
/-- `v.pnot` (R312). -/
def execVPnot (o : VR) (s : State) : Out := s.vPred o (~~~(s.here.predicate o.a.toNat))

end Sys2Proof.Machine
end

