-- ==== Sys2Proof/Machine/Dispatch.lean ====
section
/-! DEFINITION. The dispatch of every instruction of the opcode table to its meaning. -/
namespace Sys2Proof.Machine

/-- One instruction or event of the table acts on the state. -/
def exec (i : Instr) (s : State) : Host.Outcome State Fault Refusal :=
  match i with
  | .evPowerOn r => Sys2Proof.Machine.execEvPowerOn r s
  | .evResetN r => Sys2Proof.Machine.execEvResetN r s
  | .evClockStepDown die => Sys2Proof.Machine.execEvClockStepDown die s
  | .evClockStepUp die => Sys2Proof.Machine.execEvClockStepUp die s
  | .evClockStretch ridge => Sys2Proof.Machine.execEvClockStretch ridge s
  | .evRemoteOperation o => Sys2Proof.Machine.execEvRemoteOperation o s
  | .evCwpWrite d => Sys2Proof.Machine.execEvCwpWrite d s
  | .evSrpWrite d => Sys2Proof.Machine.execEvSrpWrite d s
  | .evDoorbellOtherWrite d => Sys2Proof.Machine.execEvDoorbellOtherWrite d s
  | .evSlotRecheck iface => Sys2Proof.Machine.execEvSlotRecheck iface s
  | .evResponseWrite iface => Sys2Proof.Machine.execEvResponseWrite iface s
  | .cmdOpen c => Sys2Proof.Machine.execCmdOpen c s
  | .cmdClose c => Sys2Proof.Machine.execCmdClose c s
  | .cmdRopeAlloc c => Sys2Proof.Machine.execCmdRopeAlloc c s
  | .cmdRopeFree c => Sys2Proof.Machine.execCmdRopeFree c s
  | .cmdLoad c => Sys2Proof.Machine.execCmdLoad c s
  | .cmdLaunch c => Sys2Proof.Machine.execCmdLaunch c s
  | .cmdEvict c => Sys2Proof.Machine.execCmdEvict c s
  | .cmdResume c => Sys2Proof.Machine.execCmdResume c s
  | .cmdEventWait c => Sys2Proof.Machine.execCmdEventWait c s
  | .cmdEventSet c => Sys2Proof.Machine.execCmdEventSet c s
  | .cmdQuery c => Sys2Proof.Machine.execCmdQuery c s
  | .cmdResync c => Sys2Proof.Machine.execCmdResync c s
  | .cmdAttest c => Sys2Proof.Machine.execCmdAttest c s
  | .cmdManifestCmp c => Sys2Proof.Machine.execCmdManifestCmp c s
  | .cmdBind c => Sys2Proof.Machine.execCmdBind c s
  | .cmdWeight c => Sys2Proof.Machine.execCmdWeight c s
  | .cmdRevoke c => Sys2Proof.Machine.execCmdRevoke c s
  | .cmdAsidMap c => Sys2Proof.Machine.execCmdAsidMap c s
  | .cmdInvalidate c => Sys2Proof.Machine.execCmdInvalidate c s
  | .cmdRollback c => Sys2Proof.Machine.execCmdRollback c s
  | .cmdDurableId c => Sys2Proof.Machine.execCmdDurableId c s
  | .cmdPoisonClear c => Sys2Proof.Machine.execCmdPoisonClear c s
  | .cmdMode c => Sys2Proof.Machine.execCmdMode c s
  | .cmdPeerSet c => Sys2Proof.Machine.execCmdPeerSet c s
  | .evEventWaitTimeout c => Sys2Proof.Machine.execEvEventWaitTimeout c s
  | .evKillFence world => Sys2Proof.Machine.execEvKillFence world s
  | .evRowLoad rope row => Sys2Proof.Machine.execEvRowLoad rope row s
  | .evBarrierCompletion rope level => Sys2Proof.Machine.execEvBarrierCompletion rope level s
  | .evRouting w => Sys2Proof.Machine.execEvRouting w s
  | .evLateDataArrival core id => Sys2Proof.Machine.execEvLateDataArrival core id s
  | .evPhaseReplay e => Sys2Proof.Machine.execEvPhaseReplay e s
  | .evDurableWriteAccept id => Sys2Proof.Machine.execEvDurableWriteAccept id s
  | .evPersistLinkTimeout port => Sys2Proof.Machine.execEvPersistLinkTimeout port s
  | .evPeerRequestReceive q => Sys2Proof.Machine.execEvPeerRequestReceive q s
  | .evSignalReceive g => Sys2Proof.Machine.execEvSignalReceive g s
  | .evSignalWaitTimeout src => Sys2Proof.Machine.execEvSignalWaitTimeout src s
  | .evReleaseNoticeReceive src => Sys2Proof.Machine.execEvReleaseNoticeReceive src s
  | .evPathFailureResend id => Sys2Proof.Machine.execEvPathFailureResend id s
  | .cAdd d a b => Sys2Proof.Machine.execCAdd d a b s
  | .cSub d a b => Sys2Proof.Machine.execCSub d a b s
  | .cAnd d a b => Sys2Proof.Machine.execCAnd d a b s
  | .cOr d a b => Sys2Proof.Machine.execCOr d a b s
  | .cXor d a b => Sys2Proof.Machine.execCXor d a b s
  | .cAndn d a b => Sys2Proof.Machine.execCAndn d a b s
  | .cShl d a b => Sys2Proof.Machine.execCShl d a b s
  | .cShr d a b => Sys2Proof.Machine.execCShr d a b s
  | .cSar d a b => Sys2Proof.Machine.execCSar d a b s
  | .cFshl d a b x => Sys2Proof.Machine.execCFshl d a b x s
  | .cFshr d a b x => Sys2Proof.Machine.execCFshr d a b x s
  | .cMul d a b => Sys2Proof.Machine.execCMul d a b s
  | .cMulh d a b => Sys2Proof.Machine.execCMulh d a b s
  | .cMulhn d a b => Sys2Proof.Machine.execCMulhn d a b s
  | .cDivn d a b => Sys2Proof.Machine.execCDivn d a b s
  | .cRemn d a b => Sys2Proof.Machine.execCRemn d a b s
  | .cMin d a b => Sys2Proof.Machine.execCMin d a b s
  | .cMax d a b => Sys2Proof.Machine.execCMax d a b s
  | .cMinn d a b => Sys2Proof.Machine.execCMinn d a b s
  | .cMaxn d a b => Sys2Proof.Machine.execCMaxn d a b s
  | .cSeq d a b => Sys2Proof.Machine.execCSeq d a b s
  | .cSne d a b => Sys2Proof.Machine.execCSne d a b s
  | .cSlt d a b => Sys2Proof.Machine.execCSlt d a b s
  | .cSle d a b => Sys2Proof.Machine.execCSle d a b s
  | .cSltn d a b => Sys2Proof.Machine.execCSltn d a b s
  | .cSlen d a b => Sys2Proof.Machine.execCSlen d a b s
  | .cSel d a b x => Sys2Proof.Machine.execCSel d a b x s
  | .cClz d a => Sys2Proof.Machine.execCClz d a s
  | .cCtz d a => Sys2Proof.Machine.execCCtz d a s
  | .cPopc d a => Sys2Proof.Machine.execCPopc d a s
  | .cBext d a pos len1 sx => Sys2Proof.Machine.execCBext d a pos len1 sx s
  | .cBins d a pos len1 => Sys2Proof.Machine.execCBins d a pos len1 s
  | .cAddi d a imm => Sys2Proof.Machine.execCAddi d a imm s
  | .cAndi d a imm => Sys2Proof.Machine.execCAndi d a imm s
  | .cOri d a imm => Sys2Proof.Machine.execCOri d a imm s
  | .cXori d a imm => Sys2Proof.Machine.execCXori d a imm s
  | .cShli d a sh => Sys2Proof.Machine.execCShli d a sh s
  | .cShri d a sh => Sys2Proof.Machine.execCShri d a sh s
  | .cSari d a sh => Sys2Proof.Machine.execCSari d a sh s
  | .cMuli d a imm => Sys2Proof.Machine.execCMuli d a imm s
  | .cLi d imm => Sys2Proof.Machine.execCLi d imm s
  | .cLih d imm => Sys2Proof.Machine.execCLih d imm s
  | .cSeqi d a imm => Sys2Proof.Machine.execCSeqi d a imm s
  | .cSlti d a imm => Sys2Proof.Machine.execCSlti d a imm s
  | .cSltni d a imm => Sys2Proof.Machine.execCSltni d a imm s
  | .cMini d a imm => Sys2Proof.Machine.execCMini d a imm s
  | .cMaxi d a imm => Sys2Proof.Machine.execCMaxi d a imm s
  | .cSplLd d off => Sys2Proof.Machine.execCSplLd d off s
  | .cSplSt a off => Sys2Proof.Machine.execCSplSt a off s
  | .cLdI8 d a cls imm => Sys2Proof.Machine.execCLdI8 d a cls imm s
  | .cLdN8 d a cls imm => Sys2Proof.Machine.execCLdN8 d a cls imm s
  | .cLdI16 d a cls imm => Sys2Proof.Machine.execCLdI16 d a cls imm s
  | .cLdN16 d a cls imm => Sys2Proof.Machine.execCLdN16 d a cls imm s
  | .cLdI32 d a cls imm => Sys2Proof.Machine.execCLdI32 d a cls imm s
  | .cLdN32 d a cls imm => Sys2Proof.Machine.execCLdN32 d a cls imm s
  | .cLd64 d a cls imm => Sys2Proof.Machine.execCLd64 d a cls imm s
  | .cSt8 b a cls imm => Sys2Proof.Machine.execCSt8 b a cls imm s
  | .cSt16 b a cls imm => Sys2Proof.Machine.execCSt16 b a cls imm s
  | .cSt32 b a cls imm => Sys2Proof.Machine.execCSt32 b a cls imm s
  | .cSt64 b a cls imm => Sys2Proof.Machine.execCSt64 b a cls imm s
  | .cAmoAdd d a b wide cls => Sys2Proof.Machine.execCAmoAdd d a b wide cls s
  | .cAmoSwap d a b wide cls => Sys2Proof.Machine.execCAmoSwap d a b wide cls s
  | .cAmoCas d a b wide cls => Sys2Proof.Machine.execCAmoCas d a b wide cls s
  | .cAmoAnd d a b wide cls => Sys2Proof.Machine.execCAmoAnd d a b wide cls s
  | .cAmoOr d a b wide cls => Sys2Proof.Machine.execCAmoOr d a b wide cls s
  | .cAmoXor d a b wide cls => Sys2Proof.Machine.execCAmoXor d a b wide cls s
  | .cAmoMin d a b wide cls => Sys2Proof.Machine.execCAmoMin d a b wide cls s
  | .cAmoMax d a b wide cls => Sys2Proof.Machine.execCAmoMax d a b wide cls s
  | .cAmoMinn d a b wide cls => Sys2Proof.Machine.execCAmoMinn d a b wide cls s
  | .cAmoMaxn d a b wide cls => Sys2Proof.Machine.execCAmoMaxn d a b wide cls s
  | .cFence mask scope => Sys2Proof.Machine.execCFence mask scope s
  | .cPbar mask => Sys2Proof.Machine.execCPbar mask s
  | .cSpt d a => Sys2Proof.Machine.execCSpt d a s
  | .cSpc d a space => Sys2Proof.Machine.execCSpc d a space s
  | .cSpg d a space => Sys2Proof.Machine.execCSpg d a space s
  | .cMfs d num => Sys2Proof.Machine.execCMfs d num s
  | .cMts a num => Sys2Proof.Machine.execCMts a num s
  | .cFmt a => Sys2Proof.Machine.execCFmt a s
  | .kPbr d off => Sys2Proof.Machine.execKPbr d off s
  | .kPbrr d a => Sys2Proof.Machine.execKPbrr d a s
  | .kBr b a cond => Sys2Proof.Machine.execKBr b a cond s
  | .kJmp b => Sys2Proof.Machine.execKJmp b s
  | .kCall b => Sys2Proof.Machine.execKCall b s
  | .kTsb b a sense mask => Sys2Proof.Machine.execKTsb b a sense mask s
  | .kTrap imm => Sys2Proof.Machine.execKTrap imm s
  | .kRett fin squash => Sys2Proof.Machine.execKRett fin squash s
  | .kOvl a b => Sys2Proof.Machine.execKOvl a b s
  | .kWfe d a b narrow cls timeout => Sys2Proof.Machine.execKWfe d a b narrow cls timeout s
  | .kScanOut d a b mask => Sys2Proof.Machine.execKScanOut d a b mask s
  | .kScanIn d a b mask => Sys2Proof.Machine.execKScanIn d a b mask s
  | .kFrz d a b => Sys2Proof.Machine.execKFrz d a b s
  | .kThaw a => Sys2Proof.Machine.execKThaw a s
  | .kOwn a b => Sys2Proof.Machine.execKOwn a b s
  | .lGet o => Sys2Proof.Machine.execLGet o s
  | .lGetw o => Sys2Proof.Machine.execLGetw o s
  | .lGetb o => Sys2Proof.Machine.execLGetb o s
  | .lGath o => Sys2Proof.Machine.execLGath o s
  | .lCget o => Sys2Proof.Machine.execLCget o s
  | .lTcpy o => Sys2Proof.Machine.execLTcpy o s
  | .lPref o => Sys2Proof.Machine.execLPref o s
  | .lCbld o => Sys2Proof.Machine.execLCbld o s
  | .lZero o => Sys2Proof.Machine.execLZero o s
  | .sPut o => Sys2Proof.Machine.execSPut o s
  | .sCput o => Sys2Proof.Machine.execSCput o s
  | .sScat o => Sys2Proof.Machine.execSScat o s
  | .sRed o => Sys2Proof.Machine.execSRed o s
  | .sSig o => Sys2Proof.Machine.execSSig o s
  | .sPbar o => Sys2Proof.Machine.execSPbar o s
  | .mWld o => Sys2Proof.Machine.execMWld o s
  | .mWldr o => Sys2Proof.Machine.execMWldr o s
  | .mWsw o => Sys2Proof.Machine.execMWsw o s
  | .mMac o => Sys2Proof.Machine.execMMac o s
  | .mMacz o => Sys2Proof.Machine.execMMacz o s
  | .mTov o => Sys2Proof.Machine.execMTov o s
  | .mFrv o => Sys2Proof.Machine.execMFrv o s
  | .mClr o => Sys2Proof.Machine.execMClr o s
  | .mOut o => Sys2Proof.Machine.execMOut o s
  | .mKat o => Sys2Proof.Machine.execMKat o s
  | .mTr o => Sys2Proof.Machine.execMTr o s
  | .mAdd o => Sys2Proof.Machine.execMAdd o s
  | .yAlign o => Sys2Proof.Machine.execYAlign o s
  | .yIdle o => Sys2Proof.Machine.execYIdle o s
  | .yTchk o => Sys2Proof.Machine.execYTchk o s
  | .yLoop o => Sys2Proof.Machine.execYLoop o s
  | .yBar o => Sys2Proof.Machine.execYBar o s
  | .yHalt o => Sys2Proof.Machine.execYHalt o s
  | .yYield o => Sys2Proof.Machine.execYYield o s
  | .vAdd o => Sys2Proof.Machine.execVAdd o s
  | .vSub o => Sys2Proof.Machine.execVSub o s
  | .vMul o => Sys2Proof.Machine.execVMul o s
  | .vMulh o => Sys2Proof.Machine.execVMulh o s
  | .vFma o => Sys2Proof.Machine.execVFma o s
  | .vMad o => Sys2Proof.Machine.execVMad o s
  | .vMin o => Sys2Proof.Machine.execVMin o s
  | .vMax o => Sys2Proof.Machine.execVMax o s
  | .vAbs o => Sys2Proof.Machine.execVAbs o s
  | .vNeg o => Sys2Proof.Machine.execVNeg o s
  | .vAdds o => Sys2Proof.Machine.execVAdds o s
  | .vSubs o => Sys2Proof.Machine.execVSubs o s
  | .vAnd o => Sys2Proof.Machine.execVAnd o s
  | .vOr o => Sys2Proof.Machine.execVOr o s
  | .vXor o => Sys2Proof.Machine.execVXor o s
  | .vAndn o => Sys2Proof.Machine.execVAndn o s
  | .vNot o => Sys2Proof.Machine.execVNot o s
  | .vShl o => Sys2Proof.Machine.execVShl o s
  | .vShr o => Sys2Proof.Machine.execVShr o s
  | .vSar o => Sys2Proof.Machine.execVSar o s
  | .vFshl o => Sys2Proof.Machine.execVFshl o s
  | .vFshr o => Sys2Proof.Machine.execVFshr o s
  | .vCeq o => Sys2Proof.Machine.execVCeq o s
  | .vCne o => Sys2Proof.Machine.execVCne o s
  | .vClt o => Sys2Proof.Machine.execVClt o s
  | .vCle o => Sys2Proof.Machine.execVCle o s
  | .vSel o => Sys2Proof.Machine.execVSel o s
  | .vCvt o => Sys2Proof.Machine.execVCvt o s
  | .vRshq o => Sys2Proof.Machine.execVRshq o s
  | .vPack o => Sys2Proof.Machine.execVPack o s
  | .vUnpk o => Sys2Proof.Machine.execVUnpk o s
  | .vClz o => Sys2Proof.Machine.execVClz o s
  | .vPopc o => Sys2Proof.Machine.execVPopc o s
  | .vBext o => Sys2Proof.Machine.execVBext o s
  | .vRsum o => Sys2Proof.Machine.execVRsum o s
  | .vRmax o => Sys2Proof.Machine.execVRmax o s
  | .vRmin o => Sys2Proof.Machine.execVRmin o s
  | .vPerm o => Sys2Proof.Machine.execVPerm o s
  | .vShfl o => Sys2Proof.Machine.execVShfl o s
  | .vBcst o => Sys2Proof.Machine.execVBcst o s
  | .vRdx o => Sys2Proof.Machine.execVRdx o s
  | .vWrx o => Sys2Proof.Machine.execVWrx o s
  | .vMov o => Sys2Proof.Machine.execVMov o s
  | .vLi o => Sys2Proof.Machine.execVLi o s
  | .vLane o => Sys2Proof.Machine.execVLane o s
  | .vFrs o => Sys2Proof.Machine.execVFrs o s
  | .vLut o => Sys2Proof.Machine.execVLut o s
  | .vLd o => Sys2Proof.Machine.execVLd o s
  | .vLds o => Sys2Proof.Machine.execVLds o s
  | .vLdx o => Sys2Proof.Machine.execVLdx o s
  | .vSt o => Sys2Proof.Machine.execVSt o s
  | .vSts o => Sys2Proof.Machine.execVSts o s
  | .vStx o => Sys2Proof.Machine.execVStx o s
  | .vStm o => Sys2Proof.Machine.execVStm o s
  | .vPst o => Sys2Proof.Machine.execVPst o s
  | .vPld o => Sys2Proof.Machine.execVPld o s
  | .vStw o => Sys2Proof.Machine.execVStw o s
  | .vPand o => Sys2Proof.Machine.execVPand o s
  | .vPor o => Sys2Proof.Machine.execVPor o s
  | .vPxor o => Sys2Proof.Machine.execVPxor o s
  | .vPnot o => Sys2Proof.Machine.execVPnot o s
  | .evIllegalInstruction w => Sys2Proof.Machine.execEvIllegalInstruction w s
  | .evReservedCommandStart c => Sys2Proof.Machine.execEvReservedCommandStart c s
  | .evAcknowledgementReceive id refused data => Sys2Proof.Machine.execEvAcknowledgementReceive id refused data s
  | .evRopeFreeQuietExpiry rope => Sys2Proof.Machine.execEvRopeFreeQuietExpiry rope s
  | .evControlCoreAccessPerform core id => Sys2Proof.Machine.execEvControlCoreAccessPerform core id s
  | .evCxlLinkDown port => Sys2Proof.Machine.execEvCxlLinkDown port s
  | .evThermalTrip => Sys2Proof.Machine.execEvThermalTrip s
  | .evPowerLoss => Sys2Proof.Machine.execEvPowerLoss s
  | .evVrfRefresh => Sys2Proof.Machine.execEvVrfRefresh s
  | .evHaltAndTree => Sys2Proof.Machine.execEvHaltAndTree s
  | .evYieldPoint => Sys2Proof.Machine.execEvYieldPoint s
  | .evEvictGraceExpiry => Sys2Proof.Machine.execEvEvictGraceExpiry s
  | .evBarrierTimeout => Sys2Proof.Machine.execEvBarrierTimeout s
  | .evTrapEntry => Sys2Proof.Machine.execEvTrapEntry s
  | .evFreezeTakesEffect => Sys2Proof.Machine.execEvFreezeTakesEffect s
  | .evThawResume => Sys2Proof.Machine.execEvThawResume s
  | .yLoopInitiation => Sys2Proof.Machine.execYLoopInitiation s
  | .kRet => Sys2Proof.Machine.execKRet s
  | .kBrk => Sys2Proof.Machine.execKBrk s
  | .kNop => Sys2Proof.Machine.execKNop s
  | .kWfePoll => Sys2Proof.Machine.execKWfePoll s
  | .evI3cAccess => Sys2Proof.Machine.execEvI3cAccess s

end Sys2Proof.Machine
end

