-- ==== Sys2Proof/Machine/Step.lean ====
section
/-! DEFINITION. One step of the part, and a state whose next step runs a given word. -/
namespace Sys2Proof.Machine

/-- One step: one turn of the agent that acts next. -/
def step (s : State) : Host.Outcome State Fault Refusal := oneStep exec s

/-- The state with an instruction at the place from which the next step fetches: core 0 runs a launch of a one-core rope, its pc at
the word, and acts next (log 3). -/
def State.withFetchWord (s : State) (nbits w : Nat) : State := s.placeWord (w % 2 ^ nbits)

end Sys2Proof.Machine
end

