-- ==== Sys2Proof/Safety.lean ====
section
/-! DEFINITION. The terms that statements use: what a step keeps, what an instruction leaves unchanged, and how one ends. -/
namespace Sys2Proof.Safety

open Sys2Proof.Machine

/-! ## Memory -/

/-- Global memory and the keys of its units are in their canonical form: one value at each place (R63, R140). -/
def MemOk (s : State) : Prop := Memory.wf s.mem ∧ Rising s.keys

/-- Every byte of global memory reads as before, under every key (R66). -/
def SameMem (s t : State) : Prop := ∀ k a, t.readByte k a = s.readByte k a

/-- Every byte of global memory outside a range reads as before, unless its whole unit was taken over from another key (R63, R66). -/
def SameMemBut (s t : State) (key : KeyTag) (pa n : Nat) : Prop :=
  ∀ a, (a < pa ∨ pa + n ≤ a) → (find s.keys (a / 64) = some key ∨ ∀ i < n, (pa + i) / 64 ≠ a / 64) →
    ∀ k, t.readByte k a = s.readByte k a

/-! ## One core -/

/-- Nothing outside the acting core changed. -/
def OnlyHere (s t : State) : Prop := t = s.setHere t.here

/-- No outstanding access is still to write one of these registers (R265). -/
def Written (s : State) (rs : List Reg) : Prop := ∀ r ∈ rs, r = 0 ∨ ∀ a ∈ s.here.accesses, a.kind.dest ≠ some r

/-- The address of the instruction after the one at the pc. -/
def pcAfter (s : State) : Word := (s.here.pc + 8) &&& 0xFFFF

/-- The control registers after an instruction that writes at most register d and the pc (R108, R226, R264): d has the value unless it is
`s0`, the pc is the target, `dbgc.skip` is as R226 says, and everything else of the core and of the part is as before. -/
def Moves (s t : State) (d : Reg) (v pc : Word) : Prop :=
  (∀ r, t.here.reg r = if r = d ∧ r ≠ 0 then v else s.here.reg r)
    ∧ t.here.pc = pc
    ∧ t.here.dbgc = (if s.here.pc = s.here.dbga &&& 0xFFF8 then s.here.dbgc &&& 1 else s.here.dbgc)
    ∧ { t.here with s := s.here.s, pc := s.here.pc, dbgc := s.here.dbgc } = s.here
    ∧ OnlyHere s t ∧ SameMem s t

/-- An instruction completes, writes v to register d, and control goes on behind it. -/
def Gives (i : Instr) (s : State) (d : Reg) (v : Word) : Prop :=
  ∃ t, exec i s = .next t ∧ Moves s t d v (pcAfter s)

/-- An instruction completes and control goes to a target, with no register written. -/
def Goes (i : Instr) (s : State) (pc : Word) : Prop := ∃ t, exec i s = .next t ∧ Moves s t 0 0 pc

/-- An instruction completes: its core is as a function of the old core says, retired behind the instruction, and nothing else of the
part is changed. -/
def Retires (i : Instr) (s : State) (f : Core → Core) : Prop :=
  ∃ t, exec i s = .next t ∧ t.here = { f s.here with pc := pcAfter s, dbgc := s.here.skipped } ∧ OnlyHere s t ∧ SameMem s t

/-- An instruction completes, writes v to branch-target register d, and control goes to a target (R277, R278). -/
def Links (i : Instr) (s : State) (d : BitVec 3) (v pc : Word) : Prop :=
  ∃ t, exec i s = .next t ∧ (∀ r, t.here.breg r = if r = d then v else s.here.breg r)
    ∧ { t.here with b := s.here.b } = { s.here with pc := pc, dbgc := s.here.skipped } ∧ OnlyHere s t ∧ SameMem s t

/-- A control-core access leaves the core (R265): it joins the outstanding ones with the next number, and the instruction retires. A TLB of
the core may take the translation it used (R132). -/
def Leaves (i : Instr) (s : State) (cls : Nat) (place : Place) (kind : AccessKind) : Prop :=
  ∃ t, exec i s = .next t
    ∧ t.here = { s.here with pc := pcAfter s, dbgc := s.here.skipped, tlb := t.here.tlb,
                             accesses := s.here.accesses ++ [{ id := s.serial, cls := cls, place := place, kind := kind,
                                                               gen := s.gen (s.worldOf s.cur.core), sent := none, bad := false,
                                                               pc := s.here.pc, tick := s.rtick s.cur.core,
                                                               asid := match place with
                                                                 | .global .. | .peer .. => s.asidOf s.cur.core
                                                                 | _ => none }] }
    ∧ (∀ c, c ≠ s.cur.core → t.core c = s.core c) ∧ SameMem s t

/-- An access may leave (R265): its registers are written, fewer than 16 accesses are out, and none of them waits for an answer of another
package (R134). -/
def MayLeave (s : State) (rs : List Reg) : Prop :=
  Written s rs ∧ s.here.accesses.length < 16 ∧ ∀ a ∈ s.here.accesses, ¬ (a.place.remote = true ∧ a.kind.returns = true)

/-! ## Traps -/

/-- A core waits for a freeze that it has asked for, which a trap takes back (R205). -/
def asksFreeze (c : Core) : Bool := c.scan.any fun w => match w.stage with | .frz _ => true | _ => false

/-- A fault of the acting core is taken at once and enters the handler (R203): nothing is outstanding, no handler runs, and `tvec` is
enabled; and it changes no other core, since no freeze waits that it takes back. -/
def TakesTraps (s : State) : Prop :=
  s.here.accesses = [] ∧ s.here.handler = false ∧ s.here.tvec.getLsbD 0 = true ∧ asksFreeze s.here = false

/-- The registers and the pc after a fault entered the handler (R203 to R205), with every other part of the core as before, every other
core as before, and memory as before. -/
def Enters (s t : State) (cause value info tpc : Word) : Prop :=
  t.here = { s.here with tcause := cause, tval := value, tinfo := info, tpc := tpc, prev := s.here.level,
                         level := if s.here.level.toNat < 2 then 2 else s.here.level, handler := true,
                         pc := s.here.tvec &&& 0xFFF8, wfe := none, inbox := [], scan := none, moving := none }
    ∧ (∀ c, c ≠ s.cur.core → t.core c = s.core c) ∧ SameMem s t

/-- A fault of the control core: code without subcode, source 0, at the core's rope tick. -/
def Traps (i : Instr) (s : State) (code : Nat) (value tpc : Word) : Prop :=
  ∃ t, exec i s = .next t
    ∧ Enters s t (BitVec.ofNat 64 code) value (BitVec.ofNat 64 (s.rtick s.cur.core % 2 ^ 32 * 2 ^ 32)) tpc

/-! ## Slots of wheels -/

/-- Units of HBM can all move now: the slots in force have room for each of them (R13, R14). -/
def Fits (s : State) (q : Nat → Requester) (units : List Nat) : Prop := (s.moveSome q units).2 = []

/-! ## Engines -/

/-- An instance issues: flights with these ticks and effects join the core's, made by the current instance at micro-PC 0 and in time; the
core's port counts and what `f` says may change with them, and nothing else of the part does. -/
def Issues (i : Instr) (s : State) (es : List (Nat × Effect)) (f : Core → Core) : Prop :=
  ∃ t fs, exec i s = .next t
    ∧ fs.map (fun x => (x.tick, x.effect)) = es ∧ (∀ x ∈ fs, x.job = s.cur.job ∧ x.upc = 0 ∧ x.late = false)
    ∧ t = { s with serial := s.serial + es.length }.setHere
        { f s.here with flights := (f s.here).flights ++ fs, ports := t.here.ports }
    ∧ SameMem s t

/-- The same where the flights carry micro-PCs of their own. -/
def IssuesAt (i : Instr) (s : State) (es : List (Nat × Nat × Effect)) (f : Core → Core) : Prop :=
  ∃ t fs, exec i s = .next t
    ∧ fs.map (fun x => (x.tick, x.upc, x.effect)) = es ∧ (∀ x ∈ fs, x.job = s.cur.job ∧ x.late = false)
    ∧ t = { s with serial := s.serial + es.length }.setHere
        { f s.here with flights := (f s.here).flights ++ fs, ports := t.here.ports }
    ∧ SameMem s t

/-- A later step of an instance: flights with these ticks, micro-PCs and effects join those of its core; the core's port counts and what `f`
says may change with them, and no other core and no byte of memory does. -/
def Flies (s t : State) (core : Nat) (j : Job) (es : List (Nat × Nat × Effect)) (f : Core → Core) : Prop :=
  ∃ fs, fs.map (fun x => (x.tick, x.upc, x.effect)) = es ∧ (∀ x ∈ fs, x.job = j ∧ x.late = false)
    ∧ t.core core = { f (s.core core) with flights := (f (s.core core)).flights ++ fs, ports := (t.core core).ports }
    ∧ (∀ c, c ≠ core → t.core c = s.core c) ∧ SameMem s t

/-! ## The vector engine -/

/-- Lane j of a named vector register (R118). -/
def lane (s : State) (v : BitVec 8) (j : Nat) : Lane := s.here.lane (physReg s.here.vrb v.toNat * 64 + j)

/-- The lanes that a governing predicate makes active (R288). -/
def actives (s : State) (g : BitVec 4) (n : Bool) : List Nat := (List.range 64).filter fun j => (s.here.activeMask g n).getLsbD j

/-- A vector instruction issues: its lanes are written, and the flags they met join the sticky status, the given ticks later (R291, R294). -/
def WritesThese (i : Instr) (s : State) (d : BitVec 8) (lat : Nat) (rs : List (Nat × LaneResult)) : Prop :=
  Issues i s ((s.cur.job.t + lat, .vrf (rs.map fun x => (physReg s.here.vrb d.toNat * 64 + x.1, x.2.1)))
    :: if laneStatus rs = .none then [] else [(s.cur.job.t + lat, .vflags (laneStatus rs))]) id

/-- The same for the active lanes of a governing predicate, each with its own result (R288). -/
def WritesLanes (i : Instr) (s : State) (d : BitVec 8) (g : BitVec 4) (n : Bool) (lat : Nat) (r : Nat → LaneResult) : Prop :=
  WritesThese i s d lat ((actives s g n).map fun j => (j, r j))

/-- Bits of an integer element type 0 to 5 (R171, R287). -/
def bitsOf (t : BitVec 4) : Nat := [8, 8, 16, 16, 32, 32].getD t.toNat 0
/-- A lane as an integer of such a type: the even ones are signed. -/
def intOf (t : BitVec 4) (x : Lane) : Int := if t.toNat % 2 = 0 then (x.toNat : Int).bmod (2 ^ bitsOf t) else (x.toNat : Int) % 2 ^ bitsOf t
/-- An integer wrapped into such a type, in its lane. -/
def laneOfInt (t : BitVec 4) (i : Int) : Lane :=
  BitVec.ofInt 32 (if t.toNat % 2 = 0 then i.bmod (2 ^ bitsOf t) else i % 2 ^ bitsOf t)
/-- The lowest value of such a type. -/
def lowest (t : BitVec 4) : Int := if t.toNat % 2 = 0 then -2 ^ (bitsOf t - 1) else 0
/-- The highest value of such a type. -/
def highest (t : BitVec 4) : Int := if t.toNat % 2 = 0 then 2 ^ (bitsOf t - 1) - 1 else 2 ^ bitsOf t - 1
/-- Saturation is flagged where an exact integer lies outside its type (R295). -/
def satFlag (t : BitVec 4) (i : Int) : BitVec 6 := if i < lowest t ∨ highest t < i then 0b100000 else 0

/-- The value of a group of 2^k lanes under the pairwise tree of R304, lower half first. -/
def pairTree {α : Type} (op : α → α → α) (x : Nat → α) : Nat → Nat → α
  | 0, j => x j
  | k + 1, j => op (pairTree op x k j) (pairTree op x k (j + 2 ^ k))

/-- What a value stands for where it is finite (R168 to R171). -/
def ratOf (neg : Bool) (mag : Nat) (exp : Int) : Rat := (if neg then -1 else 1) * (mag : Rat) * (2 : Rat) ^ exp

/-! ## The load and store engines -/

/-- An L or S instance issues: flights with these ticks, micro-PCs and effects join the core's, made by the current instance; `f` says what else
of the core changes, its port counts and its TLB apart. Where `again` is false the phase stays replayable as it was in every core (R233). -/
def Starts (i : Instr) (s : State) (es : List (Nat × Nat × Effect)) (f : Core → Core) (again : Bool) : Prop :=
  ∃ t fs, exec i s = .next t
    ∧ fs.map (fun x => (x.tick, x.upc, x.effect)) = es ∧ (∀ x ∈ fs, x.job = s.cur.job)
    ∧ t.here = { f s.here with flights := (f s.here).flights ++ fs, ports := t.here.ports, tlb := t.here.tlb,
                               replayable := if again then t.here.replayable else s.here.replayable }
    ∧ (∀ c, c ≠ s.cur.core → { t.core c with replayable := (s.core c).replayable } = s.core c)
    ∧ (again = false → ∀ c, c ≠ s.cur.core → t.core c = s.core c) ∧ SameMem s t

/-- The issue checks of an L or S instance pass over these ranges (R336): address, length, whether written, and the size of the store. -/
def LsPasses (s : State) (spans : List (Nat × Nat × Bool × Nat)) : Prop :=
  let j := s.cur.job
  s.here.freeAt (lsPath j) ≤ j.t
    ∧ (stepsIndex j.entry.ins = true → j.entry.shape ≠ none → j.idx (j.shape.rank - 1) < j.shape.dim (j.shape.rank - 1))
    ∧ (j.entry.shape ≠ none → j.shape.base % j.elemBytes = 0)
    ∧ ∀ x ∈ spans, x.1 + x.2.1 ≤ x.2.2.2 ∧ x.1 % 256 = 0
        ∧ (x.2.2.2 = 2 ^ 20 → ∀ k < x.2.1, ∃ r ∈ (if x.2.2.1 then j.writes else j.reads ++ j.writes), inRange r (x.1 + k) = true)

/-! ## Faults of engines -/

/-- The fault of the current instance at its issue tick, at micro-PC 0 (R205, R207). It is marked nested where a handler runs that the fault
of another tick called (R203). -/
def issueFaultOf (s : State) (code sub : Nat) (value : Word) : PendingFault :=
  { code := code, sub := sub, value := value, source := s.cur.job.q + 1, slot := s.cur.job.entry.slot, upc := 0, tick := s.cur.job.t,
    nested := s.here.handler && !(s.here.tinfo.toNat % 8 != 0 && s.here.tinfo.toNat / 2 ^ 32 == s.cur.job.t % 2 ^ 32), tpc := none }

/-- The current instance, suspended with nothing done: when it resumes it issues again (R209). -/
def suspendedAtIssue (s : State) : Suspended :=
  { again := .step, job := s.cur.job, upc := 0, tick := s.cur.job.t, carry := Status.none }

/-- An instance faults at its issue (R207): the fault waits for the control core, and its queue is suspended there. -/
def Suspends (i : Instr) (s : State) (code sub : Nat) (value : Word) : Prop :=
  ∃ t, exec i s = .next t
    ∧ t.here.pending = s.here.pending ++ [issueFaultOf s code sub value]
    ∧ t.here.queues = alter s.here.queues s.cur.job.q (fun q => { q with susp := some (suspendedAtIssue s) })
    ∧ { t.here with pending := s.here.pending, queues := s.here.queues } = s.here
    ∧ (∀ c, c ≠ s.cur.core → t.core c = s.core c) ∧ SameMem s t

/-! ## Queues -/

/-- The entry that acts stands at the head of its queue (R88). -/
def AtHead (s : State) (q : Queue) (rest : List Entry) : Prop :=
  s.here.queues[s.cur.job.q]? = some q ∧ q.entries = s.cur.job.entry :: rest

/-- An entry's effect on its own queue alone: the queue is now `q`, and nothing else of the part changed. -/
def QueueIs (i : Instr) (s : State) (q : Queue) (f : Core → Core) : Prop :=
  ∃ t, exec i s = .next t ∧ t.here.queues[s.cur.job.q]? = some q ∧ (∀ r, r ≠ s.cur.job.q → t.here.queues[r]? = s.here.queues[r]?)
    ∧ { t.here with queues := s.here.queues } = f s.here ∧ OnlyHere s t ∧ SameMem s t

/-! ## Ropes -/

/-- One rope's record is now r, and nothing else of the part changed. -/
def RopeIs (s t : State) (k : RopeKey) (r : Rope) : Prop :=
  t.rope? k = some r ∧ (∀ k', k' ≠ k → t.rope? k' = s.rope? k') ∧ { t with ropes := s.ropes } = s

/-! ## Errors -/

/-- The attempt at the phase of a restart state has written a register, by number, or was about to (R234). -/
def Attempted (c : Core) (x : Restart) (i : Nat) : Prop := i ∈ c.wrote ∨ ∃ f ∈ c.flights, f.job.phase = x.base ∧ i ∈ f.regs

/-! ## Commands -/

/-- The dispatcher picks a command that may start (R45, R46, R84): it is pending and not started, its timeout has not passed, its waits can
be read, nothing closes its interface, it is the next of its class, and no earlier command on its rope has still to take effect. `u` is the state it takes effect on. -/
def Begins (s : State) (c : Cmd) (op : Nat) (u : State) : Prop :=
  slotOp c.slot = op ∧ (∃ p, s.pending c = some p ∧ p.started = false ∧ p.effect = false)
    ∧ (s.iface c.iface).closing = none ∧ s.overdue c = false ∧ s.unreadable c = false
    ∧ ∃ cls r, s.pick = some (c, cls, r) ∧ ((s.setRotation cls r).markStarted c).heldBack c = false
        ∧ u = ((s.setRotation cls r).markStarted c).onPending c fun p => { p with effect := true }

/-- A command takes effect (R45, R46, R84): the dispatcher picks it, or it has started, waits for nothing on its rope, and goes on. -/
def Acts (s : State) (c : Cmd) (op : Nat) (u : State) : Prop :=
  Begins s c op u ∨ (slotOp c.slot = op ∧ (∃ p, s.pending c = some p ∧ p.started = true ∧ p.effect = false) ∧ s.heldBack c = false
    ∧ u = s.onPending c fun p => { p with effect := true })

/-- Of the units that a command moves, those that it has still to move (R13). -/
def leftOf (s : State) (c : Cmd) (units : List Nat) : List Nat := ((s.pending c).bind fun p => p.moving).getD units

/-- The state in which a command that moves units of HBM goes on, once the slots in force have let all of them move (R13). -/
def Hauled (s : State) (c : Cmd) (q : Nat → Requester) (units : List Nat) : State :=
  (s.moveSome q units).1.onPending c fun p => { p with moving := none }

/-- A command waits with the units that it has still to move (R13), and has done nothing else. -/
def StillMoves (i : Instr) (s u : State) (c : Cmd) : Prop :=
  ∃ t left, exec i s = .next t ∧ left ≠ []
    ∧ t = { u with moved := t.moved }.onPending c fun p => { p with moving := some left, effect := false }

/-- A command answers: it ends with a status and a result in the given state. -/
def Ends (i : Instr) (s : State) (c : Cmd) (t : State) (status result : Nat) : Prop := exec i s = .next (t.complete c status result)

/-! ## Runs -/

/-- A run of the machine stops: the only fault is that no agent can act. -/
def Stops (s : State) : Prop := step s = .fault .noAgent

/-- A step of the machine goes on. -/
def GoesOn (s : State) : Prop := ∃ t, step s = .next t

end Sys2Proof.Safety
end

