-- ==== Sys2Proof/Certificates/Slice0/Obligations.lean ====
section
/-! DEFINITION. The statements for the provers, from the numbered rules of the spec. -/

open Sys2Proof Sys2Proof.Machine Sys2Proof.Safety

/-! ## Unit C: registers -/

/-- R266: what each register instruction of unit C writes, by the arithmetic of R8 and R9. A register written by an outstanding access is
waited for (R265), which the hypotheses leave to its own statement. That the pc wraps after 64 KiB is the model's choice (log 5). -/
def Obligations.RegisterInstructions : Prop :=
  ∀ (s : State) (d a b x : Reg) (A B X : Word), A = s.here.reg a → B = s.here.reg b → X = s.here.reg x →
    Written s [d, a, b, x] →
    Gives (.cAdd d a b) s d (BitVec.ofNat 64 (A.toNat + B.toNat))
    ∧ Gives (.cSub d a b) s d (BitVec.ofInt 64 (A.toNat - B.toNat))
    ∧ Gives (.cAnd d a b) s d (BitVec.ofNat 64 (A.toNat &&& B.toNat))
    ∧ Gives (.cOr d a b) s d (BitVec.ofNat 64 (A.toNat ||| B.toNat))
    ∧ Gives (.cXor d a b) s d (BitVec.ofNat 64 (A.toNat ^^^ B.toNat))
    ∧ Gives (.cAndn d a b) s d (BitVec.ofNat 64 (A.toNat &&& (2 ^ 64 - 1 - B.toNat)))
    ∧ Gives (.cShl d a b) s d (BitVec.ofNat 64 (A.toNat * 2 ^ (B.toNat % 64)))
    ∧ Gives (.cShr d a b) s d (BitVec.ofNat 64 (A.toNat / 2 ^ (B.toNat % 64)))
    ∧ Gives (.cSar d a b) s d (BitVec.ofInt 64 (A.toInt / 2 ^ (B.toNat % 64)))
    ∧ Gives (.cFshl d a b x) s d ((((A ++ B) <<< (X.toNat % 64)) >>> 64).truncate 64)
    ∧ Gives (.cFshr d a b x) s d (((A ++ B) >>> (X.toNat % 64)).truncate 64)
    ∧ Gives (.cMul d a b) s d (BitVec.ofInt 64 (A.toInt * B.toInt))
    ∧ Gives (.cMulh d a b) s d (BitVec.ofInt 64 (A.toInt * B.toInt / 2 ^ 64))
    ∧ Gives (.cMulhn d a b) s d (BitVec.ofNat 64 (A.toNat * B.toNat / 2 ^ 64))
    ∧ Gives (.cDivn d a b) s d (if B.toNat = 0 then BitVec.ofNat 64 (2 ^ 64 - 1) else BitVec.ofNat 64 (A.toNat / B.toNat))
    ∧ Gives (.cRemn d a b) s d (BitVec.ofNat 64 (A.toNat % B.toNat))
    ∧ Gives (.cMin d a b) s d (BitVec.ofInt 64 (min A.toInt B.toInt))
    ∧ Gives (.cMax d a b) s d (BitVec.ofInt 64 (max A.toInt B.toInt))
    ∧ Gives (.cMinn d a b) s d (BitVec.ofNat 64 (min A.toNat B.toNat))
    ∧ Gives (.cMaxn d a b) s d (BitVec.ofNat 64 (max A.toNat B.toNat))
    ∧ Gives (.cSeq d a b) s d (if A.toNat = B.toNat then 1 else 0)
    ∧ Gives (.cSne d a b) s d (if A.toNat = B.toNat then 0 else 1)
    ∧ Gives (.cSlt d a b) s d (if A.toInt < B.toInt then 1 else 0)
    ∧ Gives (.cSle d a b) s d (if A.toInt ≤ B.toInt then 1 else 0)
    ∧ Gives (.cSltn d a b) s d (if A.toNat < B.toNat then 1 else 0)
    ∧ Gives (.cSlen d a b) s d (if A.toNat ≤ B.toNat then 1 else 0)
    ∧ Gives (.cSel d a b x) s d (if X.toNat = 0 then B else A)
    ∧ Gives (.cClz d a) s d (BitVec.ofNat 64 (if A.toNat = 0 then 64 else 63 - A.toNat.log2))
    ∧ (∃ n, n ≤ 64 ∧ 2 ^ n ∣ 2 ^ 64 + A.toNat ∧ (n < 64 → A.toNat / 2 ^ n % 2 = 1) ∧ Gives (.cCtz d a) s d (BitVec.ofNat 64 n))
    ∧ Gives (.cPopc d a) s d (BitVec.ofNat 64 (((List.range 64).map fun k => A.toNat / 2 ^ k % 2).sum))

/-- R267, R268: bit fields and immediates. `c.bins` and `c.lih` read their own destination. That the pc wraps after 64 KiB is the model's choice
(log 5). -/
def Obligations.ImmediateInstructions : Prop :=
  ∀ (s : State) (d a : Reg) (imm : BitVec 32) (sh pos len1 : BitVec 6) (A D I : Word),
    A = s.here.reg a → D = s.here.reg d → I = BitVec.ofInt 64 imm.toInt → Written s [d, a] →
    Gives (.cAddi d a imm) s d (BitVec.ofNat 64 (A.toNat + I.toNat))
    ∧ Gives (.cAndi d a imm) s d (BitVec.ofNat 64 (A.toNat &&& I.toNat))
    ∧ Gives (.cOri d a imm) s d (BitVec.ofNat 64 (A.toNat ||| I.toNat))
    ∧ Gives (.cXori d a imm) s d (BitVec.ofNat 64 (A.toNat ^^^ I.toNat))
    ∧ Gives (.cShli d a sh) s d (BitVec.ofNat 64 (A.toNat * 2 ^ sh.toNat))
    ∧ Gives (.cShri d a sh) s d (BitVec.ofNat 64 (A.toNat / 2 ^ sh.toNat))
    ∧ Gives (.cSari d a sh) s d (BitVec.ofInt 64 (A.toInt / 2 ^ sh.toNat))
    ∧ Gives (.cMuli d a imm) s d (BitVec.ofInt 64 (A.toInt * imm.toInt))
    ∧ Gives (.cLi d imm) s d I
    ∧ Gives (.cLih d imm) s d (BitVec.ofNat 64 (imm.toNat * 2 ^ 32 + D.toNat % 2 ^ 32))
    ∧ Gives (.cSeqi d a imm) s d (if A.toInt = imm.toInt then 1 else 0)
    ∧ Gives (.cSlti d a imm) s d (if A.toInt < imm.toInt then 1 else 0)
    ∧ Gives (.cSltni d a imm) s d (if A.toNat < I.toNat then 1 else 0)
    ∧ Gives (.cMini d a imm) s d (BitVec.ofInt 64 (min A.toInt imm.toInt))
    ∧ Gives (.cMaxi d a imm) s d (BitVec.ofInt 64 (max A.toInt imm.toInt))
    ∧ (pos.toNat + len1.toNat + 1 ≤ 64 →
        Gives (.cBext d a pos len1 false) s d (BitVec.ofNat 64 (A.toNat / 2 ^ pos.toNat % 2 ^ (len1.toNat + 1)))
        ∧ Gives (.cBext d a pos len1 true) s d
            (BitVec.ofInt 64 (BitVec.ofNat (len1.toNat + 1) (A.toNat / 2 ^ pos.toNat)).toInt)
        ∧ ∃ v : Word, Gives (.cBins d a pos len1) s d v
            ∧ ∀ k < 64, v.getLsbD k = if pos.toNat ≤ k ∧ k ≤ pos.toNat + len1.toNat then A.getLsbD (k - pos.toNat) else D.getLsbD k)

/-- R265: an instruction that reads a register which an outstanding access has still to write waits where it stands, and changes nothing. That one
which would only write such a register waits too is the model's choice (log 65). -/
def Obligations.WaitsForRegisters : Prop :=
  ∀ (s : State) (d a b x : Reg) (cls : BitVec 4) (imm : BitVec 32) (wide sx : Bool) (sh pos len1 : BitVec 6) (sp : BitVec 2) (num : BitVec 8)
    (t cond : BitVec 3), let late (r : Reg) : Prop := ¬ Written s [r]
    let two : List Instr := [.cAdd d a b, .cSub d a b, .cAnd d a b, .cOr d a b, .cXor d a b, .cAndn d a b, .cShl d a b, .cShr d a b, .cSar d a b,
      .cFshl d a b x, .cFshr d a b x, .cMul d a b, .cMulh d a b, .cMulhn d a b, .cDivn d a b, .cRemn d a b, .cMin d a b, .cMax d a b, .cMinn d a b,
      .cMaxn d a b, .cSeq d a b, .cSne d a b, .cSlt d a b, .cSle d a b, .cSltn d a b, .cSlen d a b, .cSel d a b x, .cAmoAdd d a b wide cls,
      .cAmoSwap d a b wide cls, .cAmoCas d a b wide cls, .cAmoAnd d a b wide cls, .cAmoOr d a b wide cls, .cAmoXor d a b wide cls,
      .cAmoMin d a b wide cls, .cAmoMax d a b wide cls, .cAmoMinn d a b wide cls, .cAmoMaxn d a b wide cls]
    let one : List Instr := [.cClz d a, .cCtz d a, .cPopc d a, .cBext d a pos len1 sx, .cBins d a pos len1, .cAddi d a imm, .cAndi d a imm,
      .cOri d a imm, .cXori d a imm, .cMuli d a imm, .cShli d a sh, .cShri d a sh, .cSari d a sh, .cSeqi d a imm, .cSlti d a imm, .cSltni d a imm,
      .cMini d a imm, .cMaxi d a imm, .cSpt d a, .cSpc d a sp, .cSpg d a sp, .cLdI8 d a cls imm, .cLdN8 d a cls imm, .cLdI16 d a cls imm,
      .cLdN16 d a cls imm, .cLdI32 d a cls imm, .cLdN32 d a cls imm, .cLd64 d a cls imm]
    let stores : List Instr := [.cSt8 b a cls imm, .cSt16 b a cls imm, .cSt32 b a cls imm, .cSt64 b a cls imm]
    (late a ∨ late b → ∀ i ∈ two ++ stores, exec i s = .next s)
    ∧ (late a → ∀ i ∈ one ++ [.cFmt a, .kBr t a cond, .kPbrr t a, .kTsb t a sx imm], exec i s = .next s)
    ∧ (late a → num ≠ 0x20 → (2 ≤ s.here.level.toNat ∨ writable num.toNat = false) → exec (.cMts a num) s = .next s)
    ∧ (late x → ∀ i ∈ [Instr.cFshl d a b x, .cFshr d a b x, .cSel d a b x], exec i s = .next s)
    ∧ (late d → ∀ i ∈ [Instr.cBins d a pos len1, .cLih d imm, .cAmoCas d a b wide cls], exec i s = .next s)
    ∧ (late d → ∀ i ∈ two ++ one ++ [.cLi d imm, .cMfs d num], exec i s = .next s)

/-- R127, R275: what the space instructions give. `c.spt` never faults; `c.spc` gives the offset of a pointer into an expected space that
this core may use, and faults with 0x0A or 0x0B otherwise; `c.spg` makes the pointer, and faults with 0x0A on an offset that the space
does not have.
R256, R257: `c.mfs` reads the special registers; `c.mts` writes the RW fields and leaves the others, needs level 2 for a register that
has one, and is fault 0x02 on `scom` at every level.
R182, R276: a push joins the format queue at its end; onto 16 held words it is fault 0x14 and pushes nothing. -/
def Obligations.SpecialRegisters : Prop :=
  (∀ (s : State) (d a : Reg) (space : BitVec 2) (p : Word), p = s.here.reg a → Written s [d, a] → s.cur.core < 1024 →
      (∃ v : Word, Gives (.cSpt d a) s d v ∧
        v.toNat = if p.toNat < 2 ^ 52 then 0
          else if p.toNat / 2 ^ 23 = 0xFFE * 2 ^ 29 then 1
          else if p.toNat / 2 ^ 52 = 0xFFD ∧ p.toNat / 2 ^ 20 % 2 ^ 22 = 0 then 2
          else if p.toNat / 2 ^ 52 = 0xFFC ∧ p.toNat / 2 ^ 13 % 2 ^ 29 = 0 then 3 else 7)
      ∧ (∀ off, off < [2 ^ 52, 2 ^ 23, 2 ^ 20, 2 ^ 13].getD space.toNat 0 → p = BitVec.ofNat 64 off →
          ∃ q : Word, Gives (.cSpg d a space) s d q ∧ decodePtr q = some (space.toNat, if 2 ≤ space.toNat then some s.cur.core else none, off))
      ∧ (∀ own off, decodePtr p = some (space.toNat, own, off) → (own = none ∨ own = some s.cur.core) →
          Gives (.cSpc d a space) s d (BitVec.ofNat 64 off))
      ∧ (TakesTraps s →
          (∀ k own off, decodePtr p = some (k, own, off) → k ≠ space.toNat → Traps (.cSpc d a space) s 0x0A p s.here.pc)
          ∧ (∀ c off, decodePtr p = some (space.toNat, some c, off) → c ≠ s.cur.core → Traps (.cSpc d a space) s 0x0B p s.here.pc)
          ∧ (decodePtr p = none → Traps (.cSpc d a space) s 0x0A p s.here.pc)
          ∧ ([2 ^ 52, 2 ^ 23, 2 ^ 20, 2 ^ 13].getD space.toNat 0 ≤ p.toNat → Traps (.cSpg d a space) s 0x0A p s.here.pc)))
  ∧ (∀ (s : State) (d a : Reg), Written s [d, a] →
      Gives (.cMfs d 0x00) s d (BitVec.ofNat 64 s.cur.core)
      ∧ Gives (.cMfs d 0x04) s d (BitVec.ofNat 64 ((if s.here.handler then 256 else 0) + s.here.prev.toNat * 16 + s.here.level.toNat))
      ∧ Gives (.cMfs d 0x08) s d (BitVec.ofNat 64 (s.rtick s.cur.core))
      ∧ Gives (.cMfs d 0x09) s d s.gtc ∧ Gives (.cMfs d 0x0A) s d s.here.holdc ∧ Gives (.cMfs d 0x0B) s d s.here.stallc
      ∧ Gives (.cMfs d 0x13) s d s.here.dom4 ∧ Gives (.cMfs d 0x18) s d s.here.tvec ∧ Gives (.cMfs d 0x19) s d s.here.tcause
      ∧ Gives (.cMfs d 0x1A) s d s.here.tpc ∧ Gives (.cMfs d 0x1B) s d s.here.tval ∧ Gives (.cMfs d 0x1C) s d s.here.tinfo
      ∧ Gives (.cMfs d 0x1D) s d s.here.tsave ∧ Gives (.cMfs d 0x20) s d s.here.scom ∧ Gives (.cMfs d 0x21) s d s.here.shbase
      ∧ Gives (.cMfs d 0x22) s d s.here.shlim ∧ Gives (.cMfs d 0x28) s d (BitVec.ofNat 64 s.here.fmtq.length)
      ∧ Gives (.cMfs d 0x30) s d (BitVec.ofNat 64 s.here.vrb.toNat) ∧ Gives (.cMfs d 0x38) s d s.here.katc
      ∧ Gives (.cMfs d 0x40) s d s.here.dbgc ∧ Gives (.cMfs d 0x41) s d s.here.dbga
      ∧ (2 ≤ s.here.level.toNat →
          Retires (.cMts a 0x18) s (fun c => { c with tvec := BitVec.ofNat 64 (s.here.reg a).toNat &&& 0xFFF9 })
          ∧ Retires (.cMts a 0x1A) s (fun c => { c with tpc := s.here.reg a })
          ∧ Retires (.cMts a 0x1D) s (fun c => { c with tsave := s.here.reg a })
          ∧ Retires (.cMts a 0x21) s (fun c => { c with shbase := BitVec.ofNat 64 ((s.here.reg a).toNat / 64 * 64) })
          ∧ Retires (.cMts a 0x22) s (fun c => { c with shlim := BitVec.ofNat 64 ((s.here.reg a).toNat % 2 ^ 16) })
          ∧ Retires (.cMts a 0x13) s (fun c =>
              { c with dom4 := BitVec.ofNat 64 ((s.here.reg a).toNat / 2 ^ 63 * 2 ^ 63 + (s.here.reg a).toNat % 2 ^ 48) }))
      ∧ (∀ num ∈ ([0x00, 0x04, 0x08, 0x09, 0x0A, 0x0B, 0x10, 0x11, 0x12, 0x28, 0x30, 0x38] : List (BitVec 8)),
          Retires (.cMts a num) s id)
      ∧ (TakesTraps s →
          Traps (.cMts a 0x20) s 0x02 s.fetch s.here.pc
          ∧ (s.here.level.toNat < 2 → ∀ num ∈ ([0x13, 0x18, 0x19, 0x1A, 0x1B, 0x1C, 0x1D, 0x21, 0x22, 0x40, 0x41] : List (BitVec 8)),
              Traps (.cMts a num) s 0x02 s.fetch s.here.pc)))
  ∧ (∀ (s : State) (a : Reg), Written s [a] →
      (s.here.fmtq.length < 16 → Retires (.cFmt a) s (fun c => { c with fmtq := c.fmtq ++ [s.here.reg a] }))
      ∧ (16 ≤ s.here.fmtq.length → TakesTraps s → Traps (.cFmt a) s 0x14 (s.here.reg a) s.here.pc))

/-! ## Unit C: memory -/

/-- R269: `c.spl.ld` gives the eight bytes at a spill offset, the lowest first, and `c.spl.st` stores them, once no outstanding access
touches the word. -/
def Obligations.SpillMemory : Prop :=
  ∀ (s : State) (d : Reg) (off : BitVec 32), Written s [d] →
    (s.here.spillBusy off.toNat = true → exec (.cSplLd d off) s = .next s ∧ exec (.cSplSt d off) s = .next s)
    ∧ (s.here.spillBusy off.toNat = false →
        (∃ v : Word, Gives (.cSplLd d off) s d v ∧ ∀ i < 8, v.toNat / 2 ^ (8 * i) % 256 = (readZ s.here.spill (off.toNat + i)).toNat)
        ∧ ∃ sp, Retires (.cSplSt d off) s (fun c => { c with spill := sp })
            ∧ (∀ i < 8, (readZ sp (off.toNat + i)).toNat = (s.here.reg d).toNat / 2 ^ (8 * i) % 256)
            ∧ ∀ k, (k < off.toNat ∨ off.toNat + 8 ≤ k) → readZ sp k = readZ s.here.spill k)

/-- R270, R273: loads, stores and atomics whose checks pass leave the core, each with its width and its operands: P = A + the immediate for
loads and stores, and A for atomics. Places of this package; those of another one have their own statement. -/
def Obligations.AccessesLeave : Prop :=
  ∀ (s : State) (d a b : Reg) (cls : BitVec 4) (imm : BitVec 32) (P : Word) (pl : Place) (e : Option TlbEntry),
    P = BitVec.ofInt 64 ((s.here.reg a).toInt + imm.toInt) → MayLeave s [d, a, b] → pl.remote = false →
    (∀ f ∈ [(Instr.cLdI8 d a cls imm, 1, true), (.cLdN8 d a cls imm, 1, false), (.cLdI16 d a cls imm, 2, true), (.cLdN16 d a cls imm, 2, false),
        (.cLdI32 d a cls imm, 4, true), (.cLdN32 d a cls imm, 4, false), (.cLd64 d a cls imm, 8, false)],
      s.placeOf P f.2.1 .read false = .ok (pl, e) → Leaves f.1 s cls.toNat pl (.load d f.2.1 f.2.2))
    ∧ (∀ f ∈ [(Instr.cSt8 b a cls imm, 1), (.cSt16 b a cls imm, 2), (.cSt32 b a cls imm, 4), (.cSt64 b a cls imm, 8)],
      s.placeOf P f.2 .write false = .ok (pl, e) →
        Leaves f.1 s cls.toNat pl (.store ((List.range f.2).map fun i => BitVec.ofNat 8 ((s.here.reg b).toNat / 2 ^ (8 * i)))))
    ∧ (∀ wide, ∀ f ∈ [(Instr.cAmoAdd d a b wide cls, AmoOp.add), (.cAmoSwap d a b wide cls, .swap), (.cAmoCas d a b wide cls, .cas),
        (.cAmoAnd d a b wide cls, .and), (.cAmoOr d a b wide cls, .or), (.cAmoXor d a b wide cls, .xor), (.cAmoMin d a b wide cls, .min),
        (.cAmoMax d a b wide cls, .max), (.cAmoMinn d a b wide cls, .minn), (.cAmoMaxn d a b wide cls, .maxn)],
      s.placeOf (s.here.reg a) (if wide then 8 else 4) .readWrite true = .ok (pl, e) →
        Leaves f.1 s cls.toNat pl (.amo f.2 d (if wide then 8 else 4) (s.here.reg b) (s.here.reg d)))

/-- R128, R148, R271, R273: the checks of a dereference come in this order: decode, and for an atomic the window, 0x0A; the owner, 0x0B; the
alignment, 0x0F; then the region of the cluster store and the translation. A faulting access writes nothing. -/
def Obligations.DereferenceChecks : Prop :=
  ∀ (s : State) (d a b : Reg) (cls : BitVec 4) (imm : BitVec 32) (P : Word),
    P = BitVec.ofInt 64 ((s.here.reg a).toInt + imm.toInt) → Written s [d, a, b] → TakesTraps s →
    (∀ f ∈ [(Instr.cLdI8 d a cls imm, 1, Want.read), (.cLdN8 d a cls imm, 1, .read), (.cLdI16 d a cls imm, 2, .read),
        (.cLdN16 d a cls imm, 2, .read), (.cLdI32 d a cls imm, 4, .read), (.cLdN32 d a cls imm, 4, .read), (.cLd64 d a cls imm, 8, .read),
        (.cSt8 b a cls imm, 1, .write), (.cSt16 b a cls imm, 2, .write), (.cSt32 b a cls imm, 4, .write), (.cSt64 b a cls imm, 8, .write)],
      (decodePtr P = none → Traps f.1 s 0x0A P s.here.pc)
      ∧ ∀ k own off, decodePtr P = some (k, own, off) →
          (∀ c, own = some c → c ≠ s.cur.core → Traps f.1 s 0x0B P s.here.pc)
          ∧ ((own = none ∨ own = some s.cur.core) → off % f.2.1 ≠ 0 → Traps f.1 s 0x0F P s.here.pc)
          ∧ (off % f.2.1 = 0 → k = 1 → s.regionOk s.cur.core off = false → Traps f.1 s 0x09 (BitVec.ofNat 64 off) s.here.pc)
          ∧ (off % f.2.1 = 0 → k = 0 → ∀ code ∈ [0x08, 0x09, 0x0E], s.mapCore s.cur.core s.here.level.toNat off f.2.1 f.2.2 = .error code →
              Traps f.1 s code P s.here.pc))
    ∧ (∀ wide, ∀ i ∈ [Instr.cAmoAdd d a b wide cls, .cAmoSwap d a b wide cls, .cAmoCas d a b wide cls, .cAmoAnd d a b wide cls,
        .cAmoOr d a b wide cls, .cAmoXor d a b wide cls, .cAmoMin d a b wide cls, .cAmoMax d a b wide cls, .cAmoMinn d a b wide cls,
        .cAmoMaxn d a b wide cls],
      (decodePtr (s.here.reg a) = none → Traps i s 0x0A (s.here.reg a) s.here.pc)
      ∧ ∀ k own off, decodePtr (s.here.reg a) = some (k, own, off) →
          (2 ≤ k → Traps i s 0x0A (s.here.reg a) s.here.pc)
          ∧ (k < 2 → off % (if wide then 8 else 4) ≠ 0 → Traps i s 0x0F (s.here.reg a) s.here.pc))

/-- R140, R270: at its perform event, once the slot in force of its wheel has room for it (R13; log 77), a load reads its bytes at its place, extends them, writes its register and is no longer outstanding.
Tile and spill memory, the cluster store, and global memory under the tag it left with (R68).
R140: at its perform event, once the slot in force of its wheel has room for it (R13; log 77), a store writes its bytes at its place and nowhere
else, and is no longer outstanding. -/
def Obligations.AccessesPerform : Prop :=
  (∀ (s : State) (core : Nat) (a : Access) (d : Reg) (n : Nat) (sx : Bool) (bytes : Nat → Byte),
      n ∈ [1, 2, 4, 8] → (s.core core).accesses.find? (fun x => x.id == a.id) = some a → (s.core core).mayPerform a = true → s.servable core a = true →
      a.kind = .load d n sx → a.bad = false → a.gen = s.gen (s.worldOf core) →
      ((∃ o, a.place = .tile o ∧ ∀ i, bytes i = readZ (s.core core).tile (o + i))
        ∨ (∃ o, a.place = .spill o ∧ ∀ i, bytes i = readZ (s.core core).spill (o + i))
        ∨ (∃ o, a.place = .cluster o ∧ ∀ i, bytes i = readZ s.store (clusterOf core * 2 ^ 23 + o + i))
        ∨ (∃ va pa du, a.place = .global va pa du ∧ ∀ i, bytes i = s.readByte (s.keyFor (s.worldOf core) du) (pa + i))) →
      ∃ t v, exec (.evControlCoreAccessPerform core a.id) s = .next t
        ∧ (∀ i < n, v.toNat / 2 ^ (8 * i) % 256 = (bytes i).toNat)
        ∧ (∀ k < 64, 8 * n ≤ k → v.getLsbD k = (sx && v.getLsbD (8 * n - 1)))
        ∧ (∀ r, (t.core core).reg r = if r = d ∧ r ≠ 0 then v else (s.core core).reg r)
        ∧ { t.core core with s := (s.core core).s } = { s.core core with accesses := (s.core core).accesses.filter fun x => x.id != a.id }
        ∧ (∀ c, c ≠ core → t.core c = s.core c) ∧ SameMem s t ∧ t.store = s.store)
  ∧ (∀ (s : State) (core : Nat) (a : Access) (bs : List Byte),
      bs.length ∈ [1, 2, 4, 8] → (s.core core).accesses.find? (fun x => x.id == a.id) = some a → (s.core core).mayPerform a = true → s.servable core a = true →
      a.kind = .store bs → a.bad = false → a.gen = s.gen (s.worldOf core) → a.place.remote = false →
      ∃ t, exec (.evControlCoreAccessPerform core a.id) s = .next t
        ∧ { t.core core with tile := (s.core core).tile, spill := (s.core core).spill }
            = { s.core core with accesses := (s.core core).accesses.filter fun x => x.id != a.id }
        ∧ (∀ c, c ≠ core → t.core c = s.core c)
        ∧ (∀ k, readZ (t.core core).tile k = match a.place with
            | .tile o => if o ≤ k ∧ k < o + bs.length then bs.getD (k - o) 0 else readZ (s.core core).tile k
            | _ => readZ (s.core core).tile k)
        ∧ (∀ k, readZ (t.core core).spill k = match a.place with
            | .spill o => if o ≤ k ∧ k < o + bs.length then bs.getD (k - o) 0 else readZ (s.core core).spill k
            | _ => readZ (s.core core).spill k)
        ∧ (∀ k, readZ t.store k = match a.place with
            | .cluster o => if clusterOf core * 2 ^ 23 + o ≤ k ∧ k < clusterOf core * 2 ^ 23 + o + bs.length
                then bs.getD (k - (clusterOf core * 2 ^ 23 + o)) 0 else readZ s.store k
            | _ => readZ s.store k)
        ∧ (match a.place with
            | .global _ pa du =>
              (∀ i < bs.length, t.readByte (s.keyFor (s.worldOf core) du) (pa + i) = bs.getD i 0)
                ∧ SameMemBut s t (s.keyFor (s.worldOf core) du) pa bs.length
            | _ => SameMem s t))

/-- R148, R273: at its perform event, once the slot in force of its wheel has room for it (R13; log 77), an atomic on 32 or 64 bits of global memory
or of the cluster store reads the old value, writes the new one, or nothing where a compare fails, and returns the old value, extended by its sign
for `min` and `max`. Of the other cores it changes only that their rope's phase is not replayable (R233). -/
def Obligations.AtomicPerforms : Prop :=
  ∀ (s : State) (core : Nat) (a : Access) (op : AmoOp) (d : Reg) (n : Nat) (B D : Word) (old b dv : Nat),
    let here := clusterOf core * 2 ^ 23
    let cell (u : State) (i : Nat) : Byte := match a.place with
      | .global _ pa du => u.readByte (s.keyFor (s.worldOf core) du) (pa + i)
      | .cluster o => readZ u.store (here + o + i)
      | _ => 0
    n ∈ [4, 8] → (s.core core).accesses.find? (fun x => x.id == a.id) = some a → (s.core core).mayPerform a = true → s.servable core a = true →
    a.kind = .amo op d n B D → a.bad = false → ((∃ va pa du, a.place = .global va pa du) ∨ ∃ o, a.place = .cluster o) →
    a.gen = s.gen (s.worldOf core) → old = ((List.range n).map fun i => (cell s i).toNat * 2 ^ (8 * i)).sum →
    b = B.toNat % 2 ^ (8 * n) → dv = D.toNat % 2 ^ (8 * n) →
    ∃ t, exec (.evControlCoreAccessPerform core a.id) s = .next t
      ∧ (∀ r, (t.core core).reg r = if r = d ∧ r ≠ 0 then
            (if op = .min ∨ op = .max then BitVec.ofInt 64 (BitVec.ofNat (8 * n) old).toInt else BitVec.ofNat 64 old)
          else (s.core core).reg r)
      ∧ { t.core core with s := (s.core core).s, replayable := (s.core core).replayable }
          = { s.core core with accesses := (s.core core).accesses.filter fun x => x.id != a.id }
      ∧ (∀ c, c ≠ core → { t.core c with replayable := (s.core c).replayable } = s.core c)
      ∧ (∃ new : Nat, (new : Int) = (match op with
            | .add => ((old + b : Nat) : Int) % 2 ^ (8 * n)
            | .swap => b
            | .cas => if old = dv then b else old
            | .and => ((old &&& b : Nat) : Int)
            | .or => ((old ||| b : Nat) : Int)
            | .xor => ((old ^^^ b : Nat) : Int)
            | .min => (min (BitVec.ofNat (8 * n) old).toInt (BitVec.ofNat (8 * n) b).toInt) % 2 ^ (8 * n)
            | .max => (max (BitVec.ofNat (8 * n) old).toInt (BitVec.ofNat (8 * n) b).toInt) % 2 ^ (8 * n)
            | .minn => min old b
            | .maxn => max old b)
          ∧ (∀ i < n, op = .cas ∧ old ≠ dv ∨ (cell t i).toNat = new / 2 ^ (8 * i) % 256))
      ∧ (match a.place with
          | .global _ pa du =>
            t.store = s.store ∧ if op = .cas ∧ old ≠ dv then SameMem s t else SameMemBut s t (s.keyFor (s.worldOf core) du) pa n
          | .cluster o =>
            SameMem s t ∧ ∀ k, (op = .cas ∧ old ≠ dv) ∨ k < here + o ∨ here + o + n ≤ k → readZ t.store k = readZ s.store k
          | _ => True)

/-- R146, R147, R159, R161, R274: a fence or persist barrier waits where it stands, and changes nothing, while something that it covers is left;
once nothing is, it retires, whatever else is out; one of mask 0 covers no access. A failed durable write that it waits for makes it fault 0x31,
with the lowest address. What a `c.pbar` covers of the control core is its stores and atomics (log 63). -/
def Obligations.FencesRetire : Prop :=
  ∀ (s : State) (mask : BitVec 16) (scope : BitVec 3), scope.toNat ≤ 4 → let core := s.cur.core
    let within (n : Option Nat) : Prop := ∃ k, n = some k ∧ k ≤ scope.toNat
    let pends (q : Queue) (e : Entry) : Prop := e ∈ q.entries ∨ ∃ x, q.susp = some x ∧ x.job.entry = e
    let fenceBusy : Prop := (∃ x ∈ s.here.accesses, mask.getLsbD x.cls = true ∧ x.place.scope ≤ scope.toNat)
      ∨ (∃ q ∈ s.here.queues, ∃ e, pends q e ∧ mask.getLsbD (classOf e.ins) = true ∧ within (scopeOf e.ins))
      ∨ (∃ f ∈ s.here.flights, mask.getLsbD (classOf f.job.entry.ins) = true ∧ within f.scope)
      ∨ (3 ≤ scope.toNat ∧ ∃ o ∈ s.outgoing, o.core = core ∧ mask.getLsbD o.cls = true)
      ∨ ∃ l ∈ s.here.bars, l ≤ scope.toNat + 1
    let barrierBusy : Prop :=
      (∃ x ∈ s.here.accesses, mask.getLsbD x.cls = true ∧ x.kind.writes = true ∧ ∃ va pa, x.place = .global va pa true)
      ∨ (∃ q ∈ s.here.queues, ∃ e ∈ q.entries, mask.getLsbD (classOf e.ins) = true ∧ s.mayBeDurable core q e = true)
      ∨ (∃ q ∈ s.here.queues, ∃ x, q.susp = some x ∧ mask.getLsbD (classOf x.job.entry.ins) = true
          ∧ s.stepDurable core x.job x.upc x.carry.first = true)
      ∨ ∃ f ∈ s.here.flights, mask.getLsbD (classOf f.job.entry.ins) = true
          ∧ ((∃ va pa bs, f.effect = .global va pa true bs) ∨ (∃ va pa xs, f.effect = .reduce va pa true xs)
            ∨ (∃ va pa v n, f.effect = .signal va pa true v n)
            ∨ ∃ u c, f.effect = .step u c ∧ s.stepDurable core f.job u c.first = true)
    let out (w : DurableWrite) : Prop := w ∈ s.durable ∧ w.core = some core ∧ mask.getLsbD w.cls = true ∧ w.image = false ∧ w.accepted = false
    let retires (m : BitVec 16) : Prop := ∃ t, exec (.cPbar m) s = .next t ∧ t.here = { s.here with pc := pcAfter s, dbgc := s.here.skipped }
      ∧ (∀ c, c ≠ core → t.core c = s.core c) ∧ SameMem s t
      ∧ ∀ w ∈ t.durable, w ∈ s.durable ∧ ¬ (w.core = some core ∧ m.getLsbD w.cls = true ∧ w.image = false ∧ w.lapsed = false)
    let fails (i : Instr) : Prop := TakesTraps s → ∀ va, (∃ w, out w ∧ w.failed = true ∧ w.va = va) → (∀ w, out w → w.failed = true → va ≤ w.va) →
      Traps i s 0x31 (BitVec.ofNat 64 va) s.here.pc
    (fenceBusy → exec (.cFence mask scope) s = .next s)
    ∧ (¬ fenceBusy → (scope.toNat = 4 → ∀ w, ¬ out w) → Retires (.cFence mask scope) s id)
    ∧ ((∀ l ∈ s.here.bars, scope.toNat + 1 < l) → Retires (.cFence 0 scope) s id)
    ∧ (barrierBusy → exec (.cPbar mask) s = .next s)
    ∧ (¬ barrierBusy → (∀ w, ¬ out w) → retires mask)
    ∧ retires 0
    ∧ ((∃ w, out w) → (∀ w, out w → w.failed = false) →
        exec (.cPbar mask) s = .next s ∧ (scope.toNat = 4 → exec (.cFence mask scope) s = .next s))
    ∧ (¬ barrierBusy → fails (.cPbar mask)) ∧ (¬ fenceBusy → scope.toNat = 4 → fails (.cFence mask scope))

/-! ## Unit K -/

/-- R277, R278: the branch-target registers. `k.pbr` takes pc + 8 × the offset; `k.pbrr` a register, with fault 0x0F where that is no
instruction address; `k.call` saves the address behind it in `b7` and reads its target first. That addresses wrap at 64 KiB is the model's choice
(log 5).
R278, R280, R281: where control goes. Every condition of `k.br`, with A as a signed number; `k.jmp`, `k.ret`, `k.tsb`, `k.nop`. -/
def Obligations.Branches : Prop :=
  (∀ (s : State) (d b : BitVec 3) (a : Reg) (off : BitVec 32), Written s [a] →
      Links (.kPbr d off) s d (BitVec.ofInt 64 ((s.here.pc.toNat + 8 * off.toInt) % 2 ^ 16)) (pcAfter s)
      ∧ ((s.here.reg a).toNat % 8 = 0 → (s.here.reg a).toNat < 2 ^ 16 → Links (.kPbrr d a) s d (s.here.reg a) (pcAfter s))
      ∧ ((s.here.reg a).toNat % 8 ≠ 0 ∨ 2 ^ 16 ≤ (s.here.reg a).toNat → TakesTraps s →
          Traps (.kPbrr d a) s 0x0F (s.here.reg a) s.here.pc)
      ∧ Links (.kCall b) s 7 (pcAfter s) (s.here.breg b))
  ∧ (∀ (s : State) (b : BitVec 3) (a : Reg) (A : Int) (mask : BitVec 32), A = (s.here.reg a).toInt → Written s [a] →
      (∀ f ∈ [(0, decide (A = 0)), (1, decide (A ≠ 0)), (2, decide (A < 0)), (3, decide (0 ≤ A)), (4, decide (0 < A)), (5, decide (A ≤ 0)), (6, true)],
        Goes (.kBr b a f.1) s (if f.2 then s.here.breg b else pcAfter s))
      ∧ Goes (.kJmp b) s (s.here.breg b) ∧ Goes .kRet s (s.here.breg 7) ∧ Goes .kNop s (pcAfter s)
      ∧ (∀ none, Goes (.kTsb b a none mask) s
          (if ((s.here.reg a).toNat % 2 ^ 32 &&& mask.toNat ≠ 0) = (none = false) then s.here.breg b else pcAfter s)))

/-- R203, R205, R207: the control core takes the pending fault of the earliest tick at an instruction boundary; of one tick, the one of the first
engine in the order L, M, V, S. The trap registers name the engine, the queue slot, the micro-PC and the tick, and `tpc` the next instruction, or the
one that made the access for a fault of the control core. -/
def Obligations.TrapEntry : Prop :=
  ∀ (s : State) (f : PendingFault), TakesTraps s → f ∈ s.here.pending → f.code ∉ [0x28, 0x29, 0x2A] → f.code < 256 → f.sub < 256 →
    (∀ g ∈ s.here.pending, g = f ∨ f.tick < g.tick ∨ (f.tick = g.tick ∧ f.source < g.source)) →
    ∃ t v, exec .evTrapEntry s = .next t
      ∧ Enters (s.setHere { s.here with pending := s.here.pending.erase f }) t v f.value
          (BitVec.ofNat 64 (f.tick % 2 ^ 32 * 2 ^ 32 + f.upc % 2 ^ 16 * 2 ^ 16 + f.slot % 64 * 2 ^ 8 + f.source % 8)) (f.tpc.getD s.here.pc)
      ∧ v.toNat % 256 = f.code ∧ v.toNat / 256 = f.sub

/-- R202, R209, R226: `k.rett` returns: the level is the saved one, no handler runs, control is at `tpc`, and after an address breakpoint that
instruction may run once. With SQUASH after an engine fault the suspended entry is dropped. Nothing else of the core, and no memory, changes. With
the bit that asks for it the launch ends faulted instead (R208): with nothing left to deal with, its cores are idle, it leaves its rope, whose end is
noted, and its LAUNCH is answered FAULTED. -/
def Obligations.ReturnFromTrap : Prop :=
  ∀ (s : State) (squash : Bool), 2 ≤ s.here.level.toNat → s.here.handler = true →
    ∃ t, exec (.kRett false squash) s = .next t
      ∧ (s.here.tinfo.toNat % 8 = 0 ∨ squash = false →
          t.here = { s.here with level := s.here.prev, handler := false, pc := s.here.tpc, brkHit := false,
                                 dbgc := if s.here.brkHit then s.here.dbgc ||| 2 else s.here.dbgc })
      ∧ (∀ q, s.here.tinfo.toNat % 8 = q + 1 → squash = true →
          (∀ x ∈ t.here.queues[q]?, x.susp = none) ∧ (∀ r, r ≠ q → t.here.queues[r]? = s.here.queues[r]?)
          ∧ { t.here with queues := s.here.queues, flights := s.here.flights, busy := s.here.busy }
              = { s.here with level := s.here.prev, handler := false, pc := s.here.tpc, brkHit := false,
                              dbgc := if s.here.brkHit then s.here.dbgc ||| 2 else s.here.dbgc }
          ∧ ∀ f, f ∈ t.here.flights ↔ f ∈ s.here.flights ∧ ¬ (f.job.q = q ∧ s.here.parked f = true))
      ∧ (∀ c, c ≠ s.cur.core → t.core c = s.core c) ∧ SameMem s t
      ∧ ∀ r l, s.ropeOf s.cur.core = some r → r.running = some l → r.incoming = none → l.failed = false → l.adopted = false →
          (∀ c ∈ r.cores, (s.core c).accesses = [] ∧ (∀ f ∈ (s.core c).flights, s.leaving c f = false) ∧ (s.core c).run = l.id
            ∧ asksFreeze (s.core c) = false ∧ ∀ o ∈ s.outgoing, o.core = c → o.flight ≠ none) →
          ∃ u, exec (.kRett true squash) s = .next u
            ∧ (∃ r', u.rope? r.key = some r' ∧ r'.running = none ∧ r'.evict = none ∧ r'.lastEnd = (if r.last = l.id then s.gtc else r.lastEnd))
            ∧ (∀ c ∈ r.cores, (u.core c).run = 0 ∧ (u.core c).halted = true ∧ (u.core c).flights = [] ∧ (u.core c).accesses = [])
            ∧ ∃ x ∈ (u.iface l.cmd.iface).replies, x.cmd = l.cmd ∧ x.status = 7

/-- R203, R205, R227, R241, R281: `k.trap` is fault 0x04 with its immediate, `k.brk` fault 0x03 with its address, both naming the next
instruction; a word that is no instruction is fault 0x01 and is named itself. While its rope is sealed, the core stops behind `k.brk` and the
event waits.
R202, R209, R210, R258, R284: a privileged instruction below its level is fault 0x02, whose value is the word; `k.rett` with no handler
running is fault 0x01. -/
def Obligations.TrapInstructions : Prop :=
  (∀ (s : State) (imm : BitVec 32) (w : Word),
      (TakesTraps s → Traps (.kTrap imm) s 0x04 (BitVec.ofNat 64 imm.toNat) (pcAfter s)
        ∧ Traps (.evIllegalInstruction w) s 0x01 w s.here.pc
        ∧ (s.sealed s.cur.core = false → Traps .kBrk s 0x03 s.here.pc (pcAfter s)))
      ∧ (s.sealed s.cur.core = true →
          Retires .kBrk s fun c => { c with dbgEvent := some (false, BitVec.ofNat 13 (c.pc.toNat / 8)) }))
  ∧ (∀ (s : State) (d a b : Reg) (mask : BitVec 10) (fin squash : Bool), TakesTraps s →
      (s.here.level.toNat < 2 →
        ∀ i ∈ [Instr.kRett fin squash, .kFrz d a b, .kThaw a, .kScanOut d a b mask, .kScanIn d a b mask],
          Traps i s 0x02 s.fetch s.here.pc)
      ∧ (s.here.level.toNat < 3 → Traps (.kOwn a b) s 0x02 s.fetch s.here.pc)
      ∧ (2 ≤ s.here.level.toNat → Traps (.kRett fin squash) s 0x01 s.fetch s.here.pc))

/-- R103, R134, R142, R283: `k.ovl` copies its bytes from global memory to the place that its trailer names, and jumps to the entry that the trailer
names, once the named queues have drained, nothing is out before which its reads of class 0 may not perform, what another package holds of the
range has come, and the slots in force have room for its units (R13; log 29, log 64, log 77); until then it waits. A bad trailer is fault 0x01 and copies nothing. -/
def Obligations.Overlay : Prop :=
  ∀ (s : State) (a b : Reg) (trailer src len base entry : Nat), Written s [a, b] →
    trailer = ((List.range 8).map fun i => (readZ s.here.im ((s.here.pc.toNat + 8) % 2 ^ 16 + i)).toNat * 2 ^ (8 * i)).sum →
    src = (s.here.reg a).toNat → len = (s.here.reg b).toNat → base = trailer / 2 ^ 16 % 2 ^ 13 * 8 → entry = trailer / 2 ^ 32 % 2 ^ 13 * 8 →
    (trailerOk trailer len = true → src % 8 = 0 →
      s.pageFault s.cur.core s.here.level.toNat .read (pieces (len / 65536 + 2) src len) = none →
      let gs := granules (len / 4096 + 2) src len
      ((∃ q < 4, trailer / 2 ^ (3 - q) % 2 = 1 ∧ s.here.drained q = false) ∨ (∃ g ∈ gs, s.copyBehind .read g = true) → exec (.kOvl a b) s = .next s)
      ∧ ((∀ q < 4, trailer / 2 ^ (3 - q) % 2 = 1 → s.here.drained q = true) → (∀ g ∈ gs, s.copyBehind .read g = false) →
        (∀ x ∈ s.here.accesses, ∀ va n, x.kind ≠ .inbox va n) →
        (∀ g ∈ gs, ∃ m, s.mapCore s.cur.core s.here.level.toNat g.1 g.2 .read = .ok m
          ∧ (m.1.medium = .peer → g.2 ≤ ((find s.here.inbox g.1).getD []).length)) →
        let room : Prop := Fits s (fun _ => s.requester s.cur.core) (s.here.moving.getD (s.pieceUnits s.here.level.toNat .read gs))
        (¬ room → ∃ t, exec (.kOvl a b) s = .next t ∧ t = { s with moved := t.moved }.setHere { s.here with moving := t.here.moving })
        ∧ (room → ∃ t, exec (.kOvl a b) s = .next t
          ∧ (∀ g ∈ gs, ∀ m, s.mapCore s.cur.core s.here.level.toNat g.1 g.2 .read = .ok m → ∀ i < g.2,
              readZ t.here.im (base + (g.1 - src) + i) =
                if m.1.medium = .peer then ((find s.here.inbox g.1).getD []).getD i 0
                else s.readByte (s.keyFor (s.worldOf s.cur.core) m.1.durable) (m.1.pa + i))
          ∧ (∀ k, (k < base ∨ base + len ≤ k) → readZ t.here.im k = readZ s.here.im k)
          ∧ t.here = { s.here with im := t.here.im, inbox := [], moving := none, pc := BitVec.ofNat 64 entry, dbgc := s.here.skipped }
          ∧ t = { s with moved := t.moved }.setHere t.here ∧ SameMem s t)))
    ∧ (TakesTraps s →
        (trailerOk trailer len = false → Traps (.kOvl a b) s 0x01 (BitVec.ofNat 64 trailer) s.here.pc)
        ∧ (trailerOk trailer len = true → src % 8 ≠ 0 → Traps (.kOvl a b) s 0x0F (s.here.reg a) s.here.pc)
        ∧ (trailerOk trailer len = true → src % 8 = 0 → ∀ code va,
            s.pageFault s.cur.core s.here.level.toNat .read (pieces (len / 65536 + 2) src len) = some (code, va) →
            Traps (.kOvl a b) s code (BitVec.ofNat 64 va) s.here.pc))

/-- R282: `k.wfe` lets a read leave; once its value is back it ends where the value differs from B, or where its timeout had passed when it came
back, and otherwise reads again after 256 nominal ticks. The poll event does the same for the `k.wfe` at the pc (log 66). -/
def Obligations.WaitOnWord : Prop :=
  ∀ (s : State) (d a b : Reg) (narrow : Bool) (cls : BitVec 4) (timeout : BitVec 24) (n : Nat),
    n = (if narrow then 4 else 8) → Written s [d, a, b] →
    (∀ i : Instr, i = .kWfe d a b narrow cls timeout ∨ (i = .kWfePoll ∧ s.here.wfe ≠ none ∧ decode s.fetch = .ok (.kWfe d a b narrow cls timeout)) →
      (∀ pl e, s.placeOf (s.here.reg a) n .read false = .ok (pl, e) → s.here.accesses.length < 16 →
        (s.here.wfe = none ∨ ∃ w, s.here.wfe = some w ∧ w.reading = false ∧
          (w.value = none ∨ ∃ v, w.value = some v ∧ v.toNat = (s.here.reg b).toNat % 2 ^ (8 * n)
            ∧ (timeout.toNat ≠ 0 → w.back.toNat - w.start.toNat < timeout.toNat * 1900) ∧ w.back.toNat + 256 ≤ s.gtc.toNat)) →
        ∃ t start, exec i s = .next t ∧ (∀ w, s.here.wfe = some w → start = w.start) ∧ (s.here.wfe = none → start = s.gtc)
          ∧ t.here = { s.here with
              wfe := some { start := start, reading := true, value := none, back := s.gtc }, tlb := t.here.tlb,
              accesses := s.here.accesses ++ [{ id := s.serial, cls := cls.toNat, place := pl, kind := .poll n,
                                                gen := s.gen (s.worldOf s.cur.core), sent := none, bad := false, pc := s.here.pc,
                                                tick := s.rtick s.cur.core, asid := if e.isSome then s.asidOf s.cur.core else none }] }
          ∧ (∀ c, c ≠ s.cur.core → t.core c = s.core c) ∧ SameMem s t)
      ∧ (∀ w v, s.here.wfe = some w → w.reading = false → w.value = some v →
          (v.toNat ≠ (s.here.reg b).toNat % 2 ^ (8 * n) ∨ (timeout.toNat ≠ 0 ∧ timeout.toNat * 1900 ≤ w.back.toNat - w.start.toNat)) →
          ∃ t, exec i s = .next t ∧ (∀ r, t.here.reg r = if r = d ∧ r ≠ 0 then v else s.here.reg r)
            ∧ { t.here with s := s.here.s } = { s.here with wfe := none, pc := pcAfter s, dbgc := s.here.skipped }
            ∧ OnlyHere s t ∧ SameMem s t)
      ∧ (∀ w, s.here.wfe = some w → (w.reading = true ∨ ∃ v, w.value = some v ∧ v.toNat = (s.here.reg b).toNat % 2 ^ (8 * n)
          ∧ (timeout.toNat ≠ 0 → w.back.toNat - w.start.toNat < timeout.toNat * 1900) ∧ s.gtc.toNat < w.back.toNat + 256) → exec i s = .next s))

/-- R284: `k.own` writes the ownership register of the core that A names, and nothing else of any other core.
R210 to R212, R368: the checks of fault 0x20, in the order 2, 3, 0, 1 of its reasons: a rectangle word that is malformed or is not exactly
one rope where it must be; the core's own rectangle; a core that `scom` does not cover; a rope in the wrong freeze state, which is looked at once no earlier scan instruction names a common core (R218). -/
def Obligations.Ownership : Prop :=
  (∀ (s : State) (a b : Reg), Written s [a, b] → 3 ≤ s.here.level.toNat →
      ∃ t, exec (.kOwn a b) s = .next t
        ∧ (∀ c, c ≠ s.cur.core → t.core c = if c = (s.here.reg a).toNat % 1024 then { s.core c with scom := s.here.reg b } else s.core c)
        ∧ t.here = { s.here with pc := pcAfter s, dbgc := s.here.skipped,
                                 scom := if s.cur.core = (s.here.reg a).toNat % 1024 then s.here.reg b else s.here.scom }
        ∧ SameMem s t)
  ∧ (∀ (s : State) (d a b : Reg) (mask : BitVec 10) (i : Instr) (word : Word) (exact : Bool) (ok : Freezing → Bool),
      TakesTraps s → 2 ≤ s.here.level.toNat → Written s [d, a, b] → s.here.scan = none →
      ((i = .kFrz d a b ∧ word = s.here.reg a ∧ exact = true ∧ ok = mayFreeze)
        ∨ (i = .kThaw a ∧ word = s.here.reg a ∧ exact = true ∧ ok = isFrozen)
        ∨ ((i = .kScanOut d a b mask ∨ i = .kScanIn d a b mask) ∧ word = s.here.reg b ∧ exact = false ∧ ok = isFrozen)) →
      (rectOf word = none → Traps i s 0x20 (BitVec.ofNat 64 (2 * 2 ^ 16)) s.here.pc)
      ∧ ∀ o w h, rectOf word = some (o, w, h) →
          let whole : Prop := ∃ r, s.ropeOf o = some r ∧ r.origin = o ∧ r.width = w ∧ r.height = h
          let covered : Nat → Prop := fun c => ∃ r, s.ropeOf c = some r ∧ r.key.world = s.worldOf s.cur.core ∧ scomCovers s.here.scom r.key.num = true
          let fits : Nat → Prop := fun c => ∃ r, s.ropeOf c = some r ∧ ok r.freezing = true
          (exact = true → ¬ whole → Traps i s 0x20 (BitVec.ofNat 64 (2 * 2 ^ 16)) s.here.pc)
          ∧ ((exact = true → whole) → s.cur.core ∈ rectCores o w h →
              Traps i s 0x20 (BitVec.ofNat 64 (3 * 2 ^ 16 + s.cur.core)) s.here.pc)
          ∧ ((exact = true → whole) → s.cur.core ∉ rectCores o w h → ∀ n c : Nat, (rectCores o w h)[n]? = some c → ¬ covered c →
              (∀ m < n, ∀ x : Nat, (rectCores o w h)[m]? = some x → covered x) → Traps i s 0x20 (BitVec.ofNat 64 c) s.here.pc)
          ∧ ((exact = true → whole) → s.cur.core ∉ rectCores o w h → (∀ c ∈ rectCores o w h, covered c) →
              (s.scanAt word .turn).scanBehind word = false → s.scanBehind word = false → ∀ n c : Nat, (rectCores o w h)[n]? = some c → ¬ fits c → (∀ m < n, ∀ x : Nat, (rectCores o w h)[m]? = some x → fits x) →
              Traps i s 0x20 (BitVec.ofNat 64 (2 ^ 16 + c)) s.here.pc))

/-- R213, R214, R218: the request of `k.frz` seals a rope on which a launch runs until Z = max(F, U + hdly), and freezes any other at once, at its tick; a
rope that another core has sealed is waited for, and so is an earlier scan instruction that names a common core. The instruction ends, with the capture
tick, once the rope is frozen and every access of it has been dealt with; until then it waits (log 41, log 44, log 45). A launch that ends first leaves
the rope idle, and frozen at once.
R214, R217: when a freeze takes effect, the rope is frozen with its tick as the capture tick, and its cores are whole where a launch has it. Where the
writes of its engines that have left are no signals, stand still for no fault, and need no slot of a wheel, none of them is left, and where the
accesses of a core need none and are for no other package, none is left.
R215, R217, R218, R227: `k.thaw` waits for an earlier scan instruction that names a common core. Where the cores are all whole and were captured at one
tick it sets the rope to run again after `hdly` ticks, at the tick captured or, where nothing was scanned in, its own; else it is fault 0x21. When the
rope resumes it stands at that tick, running, and pending debug events have been delivered (log 41, log 45, log 46). -/
def Obligations.FreezeAndThaw : Prop :=
  (∀ (s : State) (d a b : Reg) (cores : List Nat) (r : Rope),
      2 ≤ s.here.level.toNat → Written s [d, a, b] → s.ropeAt cores = some r → s.rope? r.key = some r → let rect := s.here.reg a
      let i : Instr := .kFrz d a b
      let frozenNow : Prop := ∃ t ps, exec i s = .next t ∧ t.rope? r.key = some { r with freezing := .frozen, captured := r.rtick, peers := ps }
      s.owned rect true (fun _ => true) = .ok cores →
      (s.here.scan = none →
        (s.scanBehind rect = true → ∃ t, exec i s = .next t ∧ t.here = { s.here with scan := some { rect := rect, ticket := s.serial, stage := .turn } }
          ∧ (∀ c, c ≠ s.cur.core → t.core c = s.core c) ∧ t.ropes = s.ropes ∧ SameMem s t)
        ∧ (s.scanBehind rect = false → s.owned rect true mayFreeze = .ok cores →
          (r.freezing = .no → r.running ≠ none →
            ∃ t, exec i s = .next t ∧ t.rope? r.key = some { r with freezing := .sealed (max (s.here.reg b).toNat (r.rtick + r.hdly)) }
              ∧ t.here = { s.here with scan := some { rect := rect, ticket := s.serial, stage := .frz r.key } }
              ∧ (∀ c, c ≠ s.cur.core → t.core c = s.core c) ∧ SameMem s t)
          ∧ (r.freezing = .no → r.running = none → frozenNow)
          ∧ (∀ z, r.freezing = .sealed z → exec i s = .next s)))
      ∧ (∀ x k, s.here.scan = some x → x.stage = .frz k → s.scanBehind rect = false →
        let settled : Prop := (∀ c ∈ r.cores, (s.core c).accesses = [] ∧ ∀ f ∈ (s.core c).flights, s.leaving c f = false)
          ∧ ∀ o ∈ s.outgoing, o.core ∉ r.cores
        (r.freezing = .frozen → settled →
          ∃ t, exec i s = .next t ∧ (∀ x, t.here.reg x = if x = d ∧ x ≠ 0 then BitVec.ofNat 64 r.captured else s.here.reg x)
            ∧ { t.here with s := s.here.s } = { s.here with scan := none, inbox := [], pc := pcAfter s, dbgc := s.here.skipped }
            ∧ OnlyHere s t ∧ SameMem s t)
        ∧ (r.freezing = .frozen → (s.settleCores r.cores).stillOut r.cores = true → exec i s = .next (s.settleCores r.cores))
        ∧ (r.freezing = .no → frozenNow)
        ∧ (∀ z, r.freezing = .sealed z → exec i s = .next s)))
  ∧ (∀ (s : State) (r : Rope), s.rope? s.cur.rope = some r →
      ((∀ z, r.freezing ≠ .sealed z) → exec .evFreezeTakesEffect s = .next s)
      ∧ ∀ z, r.freezing = .sealed z →
        ∃ t ps, exec .evFreezeTakesEffect s = .next t
          ∧ t.rope? s.cur.rope = some { r with freezing := .frozen, captured := r.rtick, peers := ps }
          ∧ (∀ c ∈ r.cores, (t.core c).segments = (if r.running = none ∧ r.incoming = none then 0 else 0x3FF) ∧ (t.core c).scanTicks = []
              ∧ (t.core c).wfe = none
              ∧ ((∀ c' ∈ r.cores, ∀ f ∈ (s.core c').flights, f.effect.leavesCore = true → s.stands c' f = false ∧ s.writeUnits f.effect = []
                    ∧ ∀ va pa du v n, f.effect ≠ .signal va pa du v n) →
                  ∀ f ∈ (t.core c).flights, f.effect.leavesCore = false)
              ∧ ((∀ x ∈ (s.core c).accesses, x.place.remote = false ∧ x.sent = none ∧ s.accessUnits x = []) → (t.core c).accesses = []))
          ∧ ∀ o ∈ t.outgoing, ¬ (o.rope = some s.cur.rope ∧ o.flight ≠ none))
  ∧ ((∀ (s : State) (a : Reg) (cores : List Nat) (r : Rope),
      2 ≤ s.here.level.toNat → Written s [a] → s.owned (s.here.reg a) true (fun _ => true) = .ok cores →
      (s.scanBehind (s.here.reg a) = true → s.here.scan = none →
        ∃ t, exec (.kThaw a) s = .next t ∧ t.here = { s.here with scan := some { rect := s.here.reg a, ticket := s.serial, stage := .turn } }
          ∧ (∀ c, c ≠ s.cur.core → t.core c = s.core c) ∧ t.ropes = s.ropes ∧ SameMem s t)
      ∧ (s.scanBehind (s.here.reg a) = false → s.owned (s.here.reg a) true isFrozen = .ok cores → s.ropeAt cores = some r → s.rope? r.key = some r →
        (∀ tick, (∀ c ∈ cores, (s.core c).segments = 0x3FF ∧ ∀ x ∈ (s.core c).scanTicks, x = tick) →
            ((∀ c ∈ cores, (s.core c).scanTicks = []) → tick = r.captured) →
          ∃ t, exec (.kThaw a) s = .next t ∧ t.rope? r.key = some { r with freezing := .thawing r.hdly, captured := tick }
            ∧ t.here = { s.here with scan := none, inbox := [], pc := pcAfter s, dbgc := s.here.skipped }
            ∧ (∀ c, c ≠ s.cur.core → t.core c = s.core c) ∧ SameMem s t)
        ∧ (∀ c ∈ cores, (s.core c).segments ≠ 0x3FF → TakesTraps s → Traps (.kThaw a) s 0x21 0 s.here.pc)
        ∧ (∀ c ∈ cores, ∀ c' ∈ cores, ∀ x ∈ (s.core c).scanTicks, ∀ y ∈ (s.core c').scanTicks, x ≠ y → TakesTraps s →
            Traps (.kThaw a) s 0x21 0 s.here.pc)))
    ∧ ∀ (s : State) (r : Rope), s.rope? s.cur.rope = some r →
      ((∀ n, r.freezing ≠ .thawing n) → exec .evThawResume s = .next s)
      ∧ ∀ n, r.freezing = .thawing n →
        (∀ c ∈ r.cores, (s.core c).dbgEvent ≠ none → (s.core c).accesses = [] ∧ (s.core c).fatal 3 = false ∧ asksFreeze (s.core c) = false) →
        ∃ t, exec .evThawResume s = .next t
          ∧ (∃ r', t.rope? s.cur.rope = some r' ∧ r'.freezing = .no ∧ r'.rtick = r.captured ∧ r'.running.isSome = true)
          ∧ ∀ c ∈ r.cores, (t.core c).replayable = false ∧ (t.core c).scanTicks = [] ∧ (t.core c).dbgEvent = none
            ∧ ((s.core c).dbgEvent = none → (t.core c).pc = (s.core c).pc)
            ∧ ∀ ad v, (s.core c).dbgEvent = some (ad, v) → (t.core c).tcause = 3 ∧ (t.core c).tval = BitVec.ofNat 64 (v.toNat * 8)
                ∧ (t.core c).tpc = (s.core c).pc ∧ (t.core c).pc = (s.core c).tvec &&& 0xFFF8 ∧ (t.core c).handler = true ∧ (t.core c).brkHit = ad)

/-- R161, R162, R216, R218, R219: `k.scan.out` waits for an earlier scan instruction that names a common core, checks every page, and, once nothing of
the core's own is before it (R142) and the slots in force have room for its units (R13; log 77), writes the image of the named cores; it
ends once the image is durable where it has to be, and gives the length; until then it waits.
R219: the header of an image, its length, and its digest, which covers the body.
R217, R220 to R222: a scan-in whose checks all pass, once what another package holds of the image has come (log 29) and the slots in force have room for its
units (R13; log 77), restores the named segments of each named
core, and gives the capture tick. A header that fails is fault 0x21 with the offset of its first failing field, before any bit moves; a digest that
differs is fault 0x22, and leaves the cores cleared. What the coded regions stand for is log 41 and log 43. -/
def Obligations.ScanImages : Prop :=
  (∀ (s : State) (d a b : Reg) (mask : BitVec 10) (va : Nat), 2 ≤ s.here.level.toNat → Written s [d, a, b] → va = (s.here.reg a).toNat →
      let rect := s.here.reg b
      let me (g : ScanStage) : ScanWait := { rect := rect, ticket := s.serial, stage := g }
      (∀ cores, s.here.scan = none → s.owned rect false (fun _ => true) = .ok cores →
        let u := s.scanAt rect .turn
        (u.scanBehind rect = true → ∀ i ∈ [Instr.kScanOut d a b mask, .kScanIn d a b mask],
          ∃ t, exec i s = .next t ∧ t.here = { s.here with scan := some (me .turn) } ∧ (∀ c, c ≠ s.cur.core → t.core c = s.core c) ∧ SameMem s t)
        ∧ (u.scanBehind rect = false → s.owned rect false isFrozen = .ok cores →
          (va % 256 ≠ 0 → TakesTraps s →
            Traps (.kScanOut d a b mask) s 0x0F (s.here.reg a) s.here.pc ∧ Traps (.kScanIn d a b mask) s 0x0F (s.here.reg a) s.here.pc)
          ∧ ∀ o w h img ps, rectOf rect = some (o, w, h) → va % 256 = 0 → img = u.image o w h mask u.serial false (fun c => (u.core c).pc) →
            ps = pieces (img.length / 65536 + 2) va img.length → s.pageFault s.cur.core s.here.level.toNat .write ps = none →
            let room : Prop := Fits u u.scannerHere (s.here.moving.getD (s.pieceUnits s.here.level.toNat .write ps))
            let before : Prop := ∃ p ∈ ps, s.copyBehind .write p = true
            (before ∨ ¬ room → ∃ t, exec (.kScanOut d a b mask) s = .next t
              ∧ t.here = { s.here with scan := some (me .turn), moving := t.here.moving } ∧ (∀ c, c ≠ s.cur.core → t.core c = s.core c) ∧ SameMem s t)
            ∧ (¬ before → room → ∃ t, exec (.kScanOut d a b mask) s = .next t
              ∧ t.here = { s.here with scan := some (me (.out img.length)), moving := none } ∧ (∀ c, c ≠ s.cur.core → t.core c = s.core c)
              ∧ (∀ m e, va % 65536 + img.length ≤ 65536 → s.mapCore s.cur.core s.here.level.toNat va img.length .write = .ok (m, e) → m.medium ≠ .peer →
                  (∀ i < img.length, t.readByte (s.keyFor (s.worldOf s.cur.core) m.durable) (m.pa + i) = img.getD i 0)
                  ∧ SameMemBut s t (s.keyFor (s.worldOf s.cur.core) m.durable) m.pa img.length))))
      ∧ ∀ x len, s.here.scan = some x → x.stage = .out len →
        let out (x : DurableWrite) : Prop := x ∈ s.durable ∧ x.core = some s.cur.core ∧ x.image = true ∧ x.accepted = false ∧ x.lapsed = false
        ((∀ x, ¬ out x) →
          ∃ t, exec (.kScanOut d a b mask) s = .next t ∧ (∀ x, t.here.reg x = if x = d ∧ x ≠ 0 then BitVec.ofNat 64 len else s.here.reg x)
            ∧ { t.here with s := s.here.s } = { s.here with scan := none, inbox := [], pc := pcAfter s, dbgc := s.here.skipped }
            ∧ (∀ c, c ≠ s.cur.core → t.core c = s.core c) ∧ SameMem s t)
        ∧ ((∃ x, out x) → (∀ x, out x → x.failed = false) → exec (.kScanOut d a b mask) s = .next s)
        ∧ (TakesTraps s → ∀ v, (∃ x, out x ∧ x.failed = true ∧ x.va = v) → (∀ x, out x → x.failed = true → v ≤ x.va) →
            Traps (.kScanOut d a b mask) s 0x31 (BitVec.ofNat 64 v) s.here.pc))
  ∧ (∀ (s : State) (o w h : Nat) (mask : BitVec 10) (id : Nat) (yielded : Bool) (pc : Nat → Word) (img : List Byte) (r : Rope),
      o < 1024 → 1 ≤ w → w ≤ 32 → 1 ≤ h → h ≤ 32 → gridX o + w ≤ 32 → gridY o + h ≤ 32 → s.ropeAt (rectCores o w h) = some r →
      r.captured < 2 ^ 64 → r.key.world < 256 → img = s.image o w h mask id yielded pc → img.length < 2 ^ 64 →
      field img 0 4 = 0x4E414353 ∧ field img 4 2 = 1 ∧ field img 6 2 = w * h ∧ field img 8 4 = o + w * 2 ^ 16 + h * 2 ^ 24
        ∧ field img 12 2 = mask.toNat ∧ field img 14 1 / 4 % 2 = (if yielded then 1 else 0) ∧ field img 16 8 = r.captured
        ∧ field img 24 8 = s.gtc.toNat ∧ field img 32 1 = r.key.world ∧ field img 33 3 = (s.gen r.key.world).toNat
        ∧ img.length = imageLen img ∧ img.drop (img.length - 48) = sha384 ((img.drop 256).take (img.length - 304)))
  ∧ (∀ (s : State) (d a b : Reg) (mask : BitVec 10) (o w h va : Nat) (cores : List Nat) (hd img : List Byte),
      2 ≤ s.here.level.toNat → Written s [d, a, b] → va = (s.here.reg a).toNat → s.owned (s.here.reg b) false isFrozen = .ok cores →
      s.owned (s.here.reg b) false (fun _ => true) = .ok cores → rectOf (s.here.reg b) = some (o, w, h) → cores.Nodup → (s.scanAt (s.here.reg b) .turn).scanBehind (s.here.reg b) = false → va % 256 = 0 → hd = s.scanRead va 256 →
      img = s.scanRead va (imageLen hd) → (∀ x ∈ s.here.accesses, ∀ p n, x.kind ≠ .inbox p n) →
      (∀ p ∈ pieces (256 / 65536 + 2) va 256, s.copyBehind .read p = false) → s.lacking s.here.level.toNat (pieces (256 / 65536 + 2) va 256) = none →
      s.pageFault s.cur.core s.here.level.toNat .read (pieces (256 / 65536 + 2) va 256) = none → s.scanPoison va 256 = none →
      s.pageFault s.cur.core s.here.level.toNat .read (pieces (imageLen hd / 65536 + 2) va (imageLen hd)) = none →
      (TakesTraps s → ∀ off, s.headerFails hd mask o w h (s.worldOf s.cur.core) false = some off →
          Traps (.kScanIn d a b mask) s 0x21 (BitVec.ofNat 64 off) s.here.pc)
      ∧ (s.headerFails hd mask o w h (s.worldOf s.cur.core) false = none → s.lacking s.here.level.toNat (pieces (imageLen hd / 65536 + 2) va (imageLen hd)) = none →
        (∀ p ∈ pieces (imageLen hd / 65536 + 2) va (imageLen hd), s.copyBehind .read p = false) →
        Fits s s.scannerHere (s.here.moving.getD (s.pieceUnits s.here.level.toNat .read (pieces (imageLen hd / 65536 + 2) va (imageLen hd)))) →
        shiftFails img mask cores.length (fun off n => s.scanPoison (va + off) n) = none → s.scanPoison va img.length = none →
        (TakesTraps s → img.drop (img.length - 48) ≠ sha384 ((img.drop 256).take (field hd 40 8)) →
          ∃ t, exec (.kScanIn d a b mask) s = .next t ∧ t.here.tcause = 0x22 ∧ t.here.tval = BitVec.ofNat 64 va ∧ ∀ c ∈ cores, (t.core c).segments = 0)
        ∧ (img.drop (img.length - 48) = sha384 ((img.drop 256).take (field hd 40 8)) →
        ∃ t, exec (.kScanIn d a b mask) s = .next t
          ∧ (∀ x, t.here.reg x = if x = d ∧ x ≠ 0 then BitVec.ofNat 64 (field hd 16 8) else s.here.reg x)
          ∧ { t.here with s := s.here.s } = { s.here with scan := none, moving := none, inbox := [], pc := pcAfter s, dbgc := s.here.skipped }
          ∧ (∀ c, c ≠ s.cur.core → c ∉ cores → t.core c = s.core c) ∧ SameMem s t
          ∧ ∀ k c, cores[k]? = some c → let u := t.core c; let seg (g : Nat) : List Byte := imageSeg img k g
              let reg (i : Nat) : Word := BitVec.ofNat 64 (field (seg 0) (0x180 + 8 * i) 8)
              u.segments = (if (s.core c).tag = some (s.worldOf s.cur.core, s.gen (s.worldOf s.cur.core)) then (s.core c).segments else 0) ||| mask
              ∧ field img 16 8 ∈ u.scanTicks
              ∧ (mask.getLsbD 0 = true → (∀ i : Fin 32, u.s[i] = BitVec.ofNat 64 (field (seg 0) (8 * i.val) 8))
                  ∧ (∀ i : Fin 8, u.b[i] = BitVec.ofNat 64 (field (seg 0) (0x100 + 8 * i.val) 8))
                  ∧ u.pc = BitVec.ofNat 64 (field (seg 0) 0x140 8)
                  ∧ u.level.toNat = (reg 0).toNat % 4 ∧ u.prev.toNat = (reg 0).toNat / 16 % 4 ∧ u.handler = (reg 0).getLsbD 8
                  ∧ u.holdc = reg 1 ∧ u.stallc = reg 2 ∧ u.katc = reg 3 ∧ u.tpc = reg 10 ∧ u.tval = reg 11 ∧ u.tsave = reg 13 ∧ u.scom = reg 14
                  ∧ u.tcause.toNat = (reg 9).toNat % 2 ^ 16 ∧ u.shbase.toNat = (reg 15).toNat / 64 * 64 ∧ u.shlim.toNat = (reg 16).toNat % 2 ^ 16)
              ∧ (mask.getLsbD 1 = true → u.tokens = (List.range 6).map (fun i => field (seg 1) (0x1830 + i) 1)
                  ∧ u.fmtq = (List.range (field (seg 1) 0x1836 1)).map (fun i => BitVec.ofNat 64 (field (seg 1) (0x1840 + 8 * i) 8))
                  ∧ u.vrb.toNat = field (seg 1) 0x1837 1 % 64)
              ∧ (mask.getLsbD 2 = true → (∀ x < 4096, readZ (u.plane u.active) x = BitVec.ofNat 16 (field (seg 2) (2 * x) 2)
                    ∧ readZ (u.plane (!u.active)) x = BitVec.ofNat 16 (field (seg 2) (0x2000 + 2 * x) 2))
                  ∧ ∀ x < 128, readZ (u.scaleStore u.active) x = (seg 2).getD (0x6000 + x) 0
                    ∧ readZ (u.scaleStore (!u.active)) x = (seg 2).getD (0x6080 + x) 0)
              ∧ (mask.getLsbD 3 = true → ∀ x < 0x8000, readZ u.mrf x = BitVec.ofNat 32 (field (seg 3) (4 * x) 4))
              ∧ (mask.getLsbD 4 = true → (∀ x < 0x4000, readZ u.vrf x = BitVec.ofNat 32 (field (seg 4) (4 * x) 4))
                  ∧ ∀ i : Fin 16, i.val ≠ 0 → u.preds[i] = BitVec.ofNat 64 (field (seg 4) (0x10000 + 8 * i.val) 8))
              ∧ (mask.getLsbD 5 = true → ∀ x < 0x2000, readZ u.spill x = (seg 5).getD x 0)
              ∧ (mask.getLsbD 6 = true → ∀ x < 0x100000, readZ u.tile x = (seg 6).getD x 0)
              ∧ (mask.getLsbD 7 = true → ∀ x < 0x60000, readZ u.batt x = (seg 7).getD x 0)
              ∧ (mask.getLsbD 8 = true → ∀ x < 0x10000, readZ u.im x = (seg 8).getD x 0)
              ∧ (mask.getLsbD 9 = true → field img 52 4 = 0 → (s.nearLink c false).isSome = true → ∀ row < 64,
                  let n := field (seg 9) (2 * row) 2
                  let xs := u.east.filter fun x => x.tick == field img 16 8 && x.row == row
                  xs ≠ [] ∧ ∀ x ∈ xs, x.code = BitVec.ofNat 16 (if xs.length < 2 then n else n / 2 ^ (8 * x.half) % 2 ^ 8)))))

/-! ## The vector engine -/

/-- R295, R296: the integer family. Each active lane takes the exact result wrapped into the type, and flags saturation where it lies outside;
`v.adds` and `v.subs` clamp; `v.mulh`, `v.min` and `v.max` never flag. -/
def Obligations.VectorIntegers : Prop :=
  ∀ (s : State) (o : VR), o.t.toNat ≤ 5 →
    let wrap : Int → LaneResult := fun i => (laneOfInt o.t i, satFlag o.t i, 0)
    let clamp : Int → LaneResult := fun i => (laneOfInt o.t (max (lowest o.t) (min (highest o.t) i)), satFlag o.t i, 0)
    let just : Int → LaneResult := fun i => (laneOfInt o.t i, 0, 0)
    let rows : List (Instr × Nat × (Int → Int → Int → LaneResult)) :=
      [(.vAdd o, 1, fun a b _ => wrap (a + b)), (.vSub o, 1, fun a b _ => wrap (a - b)), (.vMul o, 3, fun a b _ => wrap (a * b)),
       (.vMulh o, 3, fun a b _ => just (a * b / 2 ^ bitsOf o.t)), (.vMad o, 3, fun a b d => wrap (a * b + d)),
       (.vMin o, 1, fun a b _ => just (min a b)), (.vMax o, 1, fun a b _ => just (max a b)), (.vAbs o, 1, fun a _ _ => wrap (max a (-a))),
       (.vNeg o, 1, fun a _ _ => wrap (-a)), (.vAdds o, 1, fun a b _ => clamp (a + b)), (.vSubs o, 1, fun a b _ => clamp (a - b))]
    ∀ f ∈ rows, WritesLanes f.1 s o.d o.g o.n f.2.1 fun j =>
      f.2.2 (intOf o.t (lane s o.a j)) (intOf o.t (lane s o.b j)) (intOf o.t (lane s o.d j))

/-- R289, R295, R296: the floating family. Sum, difference, product and fused product are exact and rounded once; minimum and maximum order
the codes with −0 below +0; `v.abs` and `v.neg` work on the sign bit. A NaN operand gives the canonical NaN, and is flagged. -/
def Obligations.VectorFloats : Prop :=
  ∀ (s : State) (o : VR), 6 ≤ o.t.toNat → o.t.toNat ≤ 8 →
    let v : BitVec 8 → Nat → Val := fun r j => decodeElem o.t (lane s r j).toNat
    let w : Nat := if o.t = 8 then 32 else 16
    let key : Nat → Int := fun n => if n % 2 ^ w < 2 ^ (w - 1) then ((n % 2 ^ w : Nat) : Int) else 2 ^ (w - 1) - 1 - ((n % 2 ^ w : Nat) : Int)
    let nan : LaneResult := (if o.t = 6 then 0x7FC0 else if o.t = 7 then 0x7E00 else 0x7FC00000, 0b001000, 0)
    let low : Lane → LaneResult := fun x => (BitVec.ofNat 32 (x.toNat % 2 ^ w), 0, 0)
    WritesLanes (.vAdd o) s o.d o.g o.n 3 (fun j => floatLane o.t (o.m.getLsbD 0) [v o.a j, v o.b j] ((v o.a j).add (v o.b j)))
    ∧ WritesLanes (.vSub o) s o.d o.g o.n 3 (fun j => floatLane o.t (o.m.getLsbD 0) [v o.a j, v o.b j] ((v o.a j).add (v o.b j).neg))
    ∧ WritesLanes (.vMul o) s o.d o.g o.n 4 (fun j => floatLane o.t (o.m.getLsbD 0) [v o.a j, v o.b j] ((v o.a j).mul (v o.b j)))
    ∧ WritesLanes (.vFma o) s o.d o.g o.n 4 (fun j => floatLane o.t (o.m.getLsbD 0) [v o.a j, v o.b j, v o.d j]
        ((((v o.a j).mul (v o.b j)).1.add (v o.d j)).1, ((v o.a j).mul (v o.b j)).2 ||| (((v o.a j).mul (v o.b j)).1.add (v o.d j)).2))
    ∧ WritesLanes (.vMin o) s o.d o.g o.n 3 (fun j => if (v o.a j).isNan = true ∨ (v o.b j).isNan = true then nan
        else if key (lane s o.a j).toNat ≤ key (lane s o.b j).toNat then low (lane s o.a j) else low (lane s o.b j))
    ∧ WritesLanes (.vMax o) s o.d o.g o.n 3 (fun j => if (v o.a j).isNan = true ∨ (v o.b j).isNan = true then nan
        else if key (lane s o.b j).toNat ≤ key (lane s o.a j).toNat then low (lane s o.a j) else low (lane s o.b j))
    ∧ WritesLanes (.vAbs o) s o.d o.g o.n 1 (fun j => if (v o.a j).isNan = true then nan
        else (BitVec.ofNat 32 ((lane s o.a j).toNat % 2 ^ (w - 1)), 0, 0))
    ∧ WritesLanes (.vNeg o) s o.d o.g o.n 1 (fun j => if (v o.a j).isNan = true then nan
        else (BitVec.ofNat 32 (((lane s o.a j).toNat + 2 ^ (w - 1)) % 2 ^ w), 0, 0))

/-- R297: logic and shifts on whole 32-bit lanes. They take no type: t is 0 in every word, and so is m, but in `v.fshl` and `v.fshr`, and b in `v.not`. -/
def Obligations.VectorLogic : Prop :=
  ∀ (s : State) (o : VR),
    let bit : Nat → LaneResult := fun n => (BitVec.ofNat 32 n, 0, 0)
    let rows : List (Instr × (Lane → Lane → LaneResult)) :=
      [(.vAnd o, fun a b => bit (a.toNat &&& b.toNat)), (.vOr o, fun a b => bit (a.toNat ||| b.toNat)),
       (.vXor o, fun a b => bit (a.toNat ^^^ b.toNat)), (.vAndn o, fun a b => bit (a.toNat &&& (2 ^ 32 - 1 - b.toNat))),
       (.vNot o, fun a _ => bit (2 ^ 32 - 1 - a.toNat)), (.vShl o, fun a b => bit (a.toNat * 2 ^ (b.toNat % 32))),
       (.vShr o, fun a b => bit (a.toNat / 2 ^ (b.toNat % 32))), (.vSar o, fun a b => (BitVec.ofInt 32 (a.toInt / 2 ^ (b.toNat % 32)), 0, 0)),
       (.vFshl o, fun a b => ((((a ++ b) <<< o.m.toNat) >>> 32).truncate 32, 0, 0)), (.vFshr o, fun a b => (((a ++ b) >>> o.m.toNat).truncate 32, 0, 0))]
    (∀ f ∈ rows, WritesLanes f.1 s o.d o.g o.n 1 fun j => f.2 (lane s o.a j) (lane s o.b j))
    ∧ ∀ f ∈ rows, wellFormed f.1 = true → o.t = 0 ∧ (f.1 ≠ .vFshl o → f.1 ≠ .vFshr o → o.m = 0) ∧ (f.1 = .vNot o → o.b = 0)

/-- R298: leading zeros, ones, and a field of a lane; no word has a field that goes past bit 31.
R299, R312: comparisons write the active bits of a predicate one tick later, with a NaN operand unordered and flagged; the predicate operations
write all 64 bits.
R300 to R303: selection, conversion, requantisation, packing and unpacking.
R304: reductions in groups of 2^k lanes. An integer sum is the sum of the group's active lanes, wrapped; an integer maximum or minimum is that of
its active lanes; the floating ones follow the pairwise tree. Every active lane of a group receives the group's value. -/
def Obligations.VectorConversions : Prop :=
  (∀ (s : State) (o : VR),
      let bit : Nat → LaneResult := fun n => (BitVec.ofNat 32 n, 0, 0)
      let rows : List (Instr × (Lane → Lane → LaneResult)) :=
        [(.vClz o, fun a _ => bit (if a.toNat = 0 then 32 else 31 - a.toNat.log2)),
         (.vPopc o, fun a _ => bit (((List.range 32).map fun k => a.toNat / 2 ^ k % 2).sum)),
         (.vBext o, fun a _ => (if o.b.getLsbD 5 then BitVec.ofInt 32 (BitVec.ofNat (o.m.toNat + 1) (a.toNat / 2 ^ (o.b.toNat % 32))).toInt
            else BitVec.ofNat 32 (a.toNat / 2 ^ (o.b.toNat % 32) % 2 ^ (o.m.toNat + 1)), 0, 0))]
      (∀ f ∈ rows, WritesLanes f.1 s o.d o.g o.n 1 fun j => f.2 (lane s o.a j) (lane s o.b j))
      ∧ (wellFormed (.vBext o) = true → o.b.toNat < 64 ∧ o.b.toNat % 32 + (o.m.toNat + 1) ≤ 32))
  ∧ (∀ (s : State) (o : VR),
      let x : Nat → Val := fun j => decodeElem o.t (lane s o.a j).toNat
      let y : Nat → Val := fun j => decodeElem o.t (lane s o.b j).toNat
      let rows : List (Instr × (Int → Int → Prop) × (Val → Val → Prop) × Prop) :=
        [(.vCeq o, (· = ·), fun u v => u.lt v = false ∧ v.lt u = false, False), (.vCne o, (· ≠ ·), fun u v => u.lt v = true ∨ v.lt u = true, True),
         (.vClt o, (· < ·), fun u v => u.lt v = true, False), (.vCle o, (· ≤ ·), fun u v => v.lt u = false, False)]
      (∀ f ∈ rows, ∃ bits : Word,
        (∀ j ∈ actives s o.g o.n, bits.getLsbD j = true ↔
          if o.t.toNat ≤ 5 then f.2.1 (intOf o.t (lane s o.a j)) (intOf o.t (lane s o.b j))
          else if (x j).isNan = true ∨ (y j).isNan = true then f.2.2.2 else f.2.2.1 (x j) (y j))
        ∧ let st := laneStatus ((actives s o.g o.n).map fun j =>
              (j, 0, if 5 < o.t.toNat ∧ ((x j).isNan = true ∨ (y j).isNan = true) then 0b001000 else 0, 0))
          Issues f.1 s ((s.cur.job.t + 1, .pred o.d.toNat (s.here.activeMask o.g o.n) bits)
            :: if st = .none then [] else [(s.cur.job.t + 1, .vflags st)]) id)
      ∧ (∀ f ∈ [(Instr.vPand o, s.here.predicate o.a.toNat &&& s.here.predicate o.b.toNat),
          (.vPor o, s.here.predicate o.a.toNat ||| s.here.predicate o.b.toNat), (.vPxor o, s.here.predicate o.a.toNat ^^^ s.here.predicate o.b.toNat),
          (.vPnot o, ~~~(s.here.predicate o.a.toNat))],
        Issues f.1 s [(s.cur.job.t + 1, .pred o.d.toNat (BitVec.allOnes 64) f.2)] id))
  ∧ (∀ (s : State) (o : VR),
      WritesLanes (.vSel o) s o.d o.g o.n 1 (fun j =>
        (if (s.here.predicate (o.m.toNat % 16)).getLsbD j = o.m.getLsbD 4 then lane s o.b j else lane s o.a j, 0, 0))
      ∧ WritesLanes (.vCvt o) s o.d o.g o.n 3 (fun j =>
          let f : BitVec 4 := BitVec.ofNat 4 o.b.toNat
          let r := toFormat o.t (o.m.getLsbD 0) (o.m.getLsbD 1) (decodeElem f (lane s o.a j).toNat)
          (laneOf o.t r.1, r.2, if f = 12 ∧ (lane s o.a j).toNat % 16 = 8 then 1 else 0))
      ∧ (o.t.toNat ≤ 5 → ∃ n : Nat → Int,
          (∀ j < 64, let p := (lane s o.a j).toInt * (BitVec.ofNat 16 ((lane s o.b j).toNat / 2 ^ 16)).toInt
            let k := (lane s o.b j).toNat % 64
            if o.m.getLsbD 0 then n j = p / 2 ^ k
            else 2 * (n j * 2 ^ k - p) ≤ 2 ^ k ∧ 2 * (p - n j * 2 ^ k) ≤ 2 ^ k
              ∧ (2 * (n j * 2 ^ k - p) = 2 ^ k ∨ 2 * (p - n j * 2 ^ k) = 2 ^ k → n j % 2 = 0))
          ∧ WritesLanes (.vRshq o) s o.d o.g o.n 3 fun j => (laneOfInt o.t (max (lowest o.t) (min (highest o.t) (n j))), satFlag o.t (n j), 0))
      ∧ (∀ w per, w = (if o.t = 12 then 4 else if o.t ∈ [0, 1, 9, 10, 11] then 8 else 16) → per = 32 / w →
          let zeroed : Nat → Bool := fun n => o.t == 12 && n % 16 == 8
          (∃ v : Nat → Lane,
            (∀ l q, 128 / per * o.m.toNat ≤ l → l < 128 / per * (o.m.toNat + 1) → q < per →
              let n := per * (l - 128 / per * o.m.toNat) + q
              let e := (if n < 64 then lane s o.a n else lane s o.b (n - 64)).toNat
              (v l).toNat / 2 ^ (w * q) % 2 ^ w = if zeroed e then 0 else e % 2 ^ w)
            ∧ WritesThese (.vPack o) s o.d 2
                (((actives s o.g o.n).filter fun l => decide (128 / per * o.m.toNat ≤ l) && decide (l < 128 / per * (o.m.toNat + 1))).map fun l =>
                  (l, v l, 0, ((List.range per).filter fun q =>
                    let n := per * (l - 128 / per * o.m.toNat) + q
                    zeroed (if n < 64 then lane s o.a n else lane s o.b (n - 64)).toNat).length)))
          ∧ (o.m.toNat < per → WritesLanes (.vUnpk o) s o.d o.g o.n 2 fun j =>
              let e := (lane s o.a (64 / per * o.m.toNat + j / per)).toNat / 2 ^ (w * (j % per)) % 2 ^ w
              let x := if zeroed e then 0 else e
              (if o.t = 11 then BitVec.ofNat 32 x else laneOf o.t x, 0, if zeroed e then 1 else 0))))
  ∧ (∀ (s : State) (o : VR) (k : Nat), k = o.m.toNat → 1 ≤ k → k ≤ 6 →
      let act : Nat → Bool := fun j => (s.here.activeMask o.g o.n).getLsbD j
      let base : Nat → Nat := fun j => j / 2 ^ k * 2 ^ k
      (o.t.toNat ≤ 5 →
        WritesLanes (.vRsum o) s o.d o.g o.n (1 + k) (fun j =>
          let total := ((List.range (2 ^ k)).map fun i => if act (base j + i) then intOf o.t (lane s o.a (base j + i)) else 0).sum
          (laneOfInt o.t total, satFlag o.t total, 0))
        ∧ ∃ hi lo : Nat → Int,
          (∀ j < 64, act j = true →
            (∃ i < 2 ^ k, act (base j + i) = true ∧ hi j = intOf o.t (lane s o.a (base j + i)))
            ∧ (∃ i < 2 ^ k, act (base j + i) = true ∧ lo j = intOf o.t (lane s o.a (base j + i)))
            ∧ ∀ i < 2 ^ k, act (base j + i) = true → lo j ≤ intOf o.t (lane s o.a (base j + i)) ∧ intOf o.t (lane s o.a (base j + i)) ≤ hi j)
          ∧ WritesLanes (.vRmax o) s o.d o.g o.n (1 + k) (fun j => (laneOfInt o.t (hi j), 0, 0))
          ∧ WritesLanes (.vRmin o) s o.d o.g o.n (1 + k) (fun j => (laneOfInt o.t (lo j), 0, 0)))
      ∧ (6 ≤ o.t.toNat → o.t.toNat ≤ 8 →
        WritesLanes (.vRsum o) s o.d o.g o.n (1 + 3 * k) (fun j =>
          let r := pairTree sum32 (fun i => if act i then toFormat 8 false false (decodeElem o.t (lane s o.a i).toNat) else (0, 0)) k (base j)
          let x := toFormat o.t false false (decodeElem 8 r.1)
          (laneOf o.t x.1, r.2 ||| (x.2 &&& 0b110111), 0))
        ∧ ∀ f ∈ [(Instr.vRmax o, true), (.vRmin o, false)],
            WritesLanes f.1 s o.d o.g o.n (1 + k) fun j =>
              pickFin o.t (pairTree (pickOpt o.t f.2) (fun i => if act i then some (lane s o.a i) else none) k (base j))))

/-- R305 to R308: moves between lanes, indirect access, constants, and the interpolating table. -/
def Obligations.VectorMoves : Prop :=
  ∀ (s : State) (o : VR) (p : VI),
    let just : Lane → LaneResult := fun x => (x, 0, 0)
    let d := o.b.toNat % 64
    WritesLanes (.vPerm o) s o.d o.g o.n 3 (fun j => just (lane s o.a ((lane s o.b j).toNat % 64)))
    ∧ WritesLanes (.vShfl o) s o.d o.g o.n 3 (fun j => just
        (if o.b.toNat / 64 = 0 then lane s o.a (j ^^^ d) else if o.b.toNat / 64 = 1 then lane s o.a ((j + d) % 64)
          else if o.b.toNat / 64 = 2 then (if j + d < 64 then lane s o.a (j + d) else 0) else if d ≤ j then lane s o.a (j - d) else 0))
    ∧ WritesLanes (.vBcst o) s o.d o.g o.n 3 (fun _ => just (lane s o.a d))
    ∧ WritesLanes (.vMov o) s o.d o.g o.n 1 (fun j => just (lane s o.a j))
    ∧ WritesLanes (.vLane o) s o.d o.g o.n 1 (fun j => just (BitVec.ofNat 32 j))
    ∧ WritesLanes (.vFrs o) s o.d o.g o.n 1 (fun _ => just (BitVec.ofNat 32
        (if o.m.getLsbD 0 then s.cur.job.entry.va.toNat / 2 ^ 32 else s.cur.job.entry.va.toNat % 2 ^ 32)))
    ∧ WritesLanes (.vLi p) s p.d p.g p.n 1 (fun j => just
        (if p.m.getLsbD 0 then BitVec.ofNat 32 (p.imm.toNat * 2 ^ 16 + (lane s p.d j).toNat % 2 ^ 16)
          else if p.t = 4 then BitVec.ofInt 32 p.imm.toInt else if p.t = 5 then BitVec.ofNat 32 p.imm.toNat else BitVec.ofNat 32 (p.imm.toNat * 2 ^ 16)))
    ∧ WritesLanes (.vRdx o) s o.d o.g o.n 2 (fun j => just (lane s (BitVec.ofNat 8 (lane s o.a j).toNat) j))
    ∧ Issues (.vWrx o) s [(s.cur.job.t + 2, .vrf ((actives s o.g o.n).map fun j =>
        (physReg s.here.vrb ((lane s o.a j).toNat % 256) * 64 + j, lane s o.b j)))] id
    ∧ WritesLanes (.vLut o) s o.d o.g o.n 5 (fun j =>
        let x := (lane s o.a j).toNat
        let e : Nat → Lane := fun k => if k < 64 then lane s o.b k else lane s (o.b + 1) 0
        lutLane o.t (o.m.getLsbD 0) (e (x / 2 ^ 26)) (e (x / 2 ^ 26 + 1)) (x % 2 ^ 26))

/-- R293, R309 to R311, R314, R354: loads and stores of the vector engine. Each lane has its address; a stepped base outside the store is fault
0x0A, the first misaligned lane 0x0F, the first lane outside the declared sets 0x16, for the transfers of a predicate or of the sticky status
too; else the lanes, or the bytes, are written two ticks later. Where stores of lanes meet, the highest lane prevails. `v.stm` has no
alignment, and under a zero mask it makes no check and writes nothing. -/
def Obligations.VectorMemory : Prop :=
  ∀ (s : State) (o : VM) (W base : Nat), W = 2 ^ o.w.toNat → W ≤ 4 → base = o.addr.toNat + s.cur.job.tileStep * 256 →
    let unit : Nat → Int := fun j => base + j * W
    let far : Nat → Int := fun j => base + j * s.cur.job.entry.va.toInt
    let indexed : Nat → Int := fun j => base + (lane s o.x j).toNat * W
    let inside : Bool → Nat → Int → Prop := fun write n a =>
      0 ≤ a ∧ ∀ k < n, ∃ r ∈ (if write then s.cur.job.writes else s.cur.job.reads ++ s.cur.job.writes), inRange r (a.toNat + k) = true
    let stores : List (Instr × (Nat → Int) × Nat × Word) :=
      [(.vSt o, unit, W, BitVec.allOnes 64), (.vSts o, far, W, BitVec.allOnes 64), (.vStx o, indexed, W, BitVec.allOnes 64),
       (.vStm o, unit, 1, s.here.predicate o.x.toNat)]
    (base < 2 ^ 20 →
      (∀ f ∈ [(Instr.vLd o, unit), (.vLds o, far), (.vLdx o, indexed)],
        ((∀ j < 64, f.2 j % W = 0 ∧ inside false W (f.2 j)) →
          ∃ v : Nat → Lane, Issues f.1 s [(s.cur.job.t + 2, .vrf ((List.range 64).map fun j => (physReg s.here.vrb o.r.toNat * 64 + j, v j)))] id
            ∧ ∀ j < 64, ∀ i < 4, (v j).toNat / 2 ^ (8 * i) % 256 = if i < W then (readZ s.here.tile ((f.2 j).toNat + i)).toNat else 0)
        ∧ (∀ j < 64, f.2 j % W ≠ 0 → (∀ x < j, f.2 x % W = 0) → Suspends f.1 s 0x0F 0 (BitVec.ofInt 64 (f.2 j)))
        ∧ ∀ j < 64, (∀ x < 64, f.2 x % W = 0) → ¬ inside false W (f.2 j) → (∀ x < j, inside false W (f.2 x)) →
            Suspends f.1 s 0x16 0 (BitVec.ofInt 64 (f.2 j)))
      ∧ (∀ f ∈ stores,
        (∀ j < 64, f.2.2.2.getLsbD j = true → f.2.1 j % f.2.2.1 ≠ 0 → (∀ x < j, f.2.1 x % f.2.2.1 = 0) →
            Suspends f.1 s 0x0F 0 (BitVec.ofInt 64 (f.2.1 j)))
        ∧ ∀ j < 64, f.2.2.2.getLsbD j = true → (∀ x < 64, f.2.1 x % f.2.2.1 = 0) → ¬ inside true W (f.2.1 j) →
            (∀ x < j, f.2.2.2.getLsbD x = true → inside true W (f.2.1 x)) → Suspends f.1 s 0x16 0 (BitVec.ofInt 64 (f.2.1 j)))
      ∧ (base % 8 = 0 → inside true 8 base →
          (∀ f ∈ [(Instr.vPst o, s.here.predicate o.r.toNat, (id : Core → Core)), (.vStw o, s.here.vstatus.word, fun c => { c with vstatus := .none })],
            Issues f.1 s [(s.cur.job.t + 2, .tile ((List.range 8).map fun i => (base + i, BitVec.ofNat 8 (f.2.1.toNat / 2 ^ (8 * i)))))] f.2.2))
      ∧ (base % 8 = 0 → inside false 8 base → ∃ v : Word, Issues (.vPld o) s [(s.cur.job.t + 2, .pred o.r.toNat (BitVec.allOnes 64) v)] id
          ∧ ∀ i < 8, v.toNat / 2 ^ (8 * i) % 256 = (readZ s.here.tile (base + i)).toNat)
      ∧ (base % 8 ≠ 0 → ∀ i ∈ [Instr.vPst o, .vPld o, .vStw o], Suspends i s 0x0F 0 (BitVec.ofNat 64 base))
      ∧ (base % 8 = 0 → ∀ i ∈ [(Instr.vPst o, true), (.vPld o, false), (.vStw o, true)], ¬ inside i.2 8 base →
          Suspends i.1 s 0x16 0 (BitVec.ofNat 64 base)))
    ∧ (∀ f ∈ stores, (base < 2 ^ 20 ∨ ∀ j < 64, f.2.2.2.getLsbD j = false) →
        (∀ j < 64, f.2.2.2.getLsbD j = true → f.2.1 j % f.2.2.1 = 0 ∧ inside true W (f.2.1 j)) →
        ∃ cells, Issues f.1 s [(s.cur.job.t + 2, .tile cells)] id
          ∧ (∀ (m : List (Nat × Byte)) (a : Nat),
              (∀ j < 64, f.2.2.2.getLsbD j = true → a < (f.2.1 j).toNat ∨ (f.2.1 j).toNat + W ≤ a) → readZ (writeAllZ m cells) a = readZ m a)
          ∧ ∀ (m : List (Nat × Byte)), ∀ j < 64, f.2.2.2.getLsbD j = true → ∀ i < W,
              (∀ x < 64, j < x → f.2.2.2.getLsbD x = true → (f.2.1 j).toNat + i < (f.2.1 x).toNat ∨ (f.2.1 x).toNat + W ≤ (f.2.1 j).toNat + i) →
              (readZ (writeAllZ m cells) ((f.2.1 j).toNat + i)).toNat = (lane s o.r j).toNat / 2 ^ (8 * i) % 256)
    ∧ (2 ^ 20 ≤ base →
        (∀ i ∈ [Instr.vLd o, .vLds o, .vLdx o, .vPst o, .vPld o, .vStw o], Suspends i s 0x0A 0 (BitVec.ofNat 64 base))
        ∧ ∀ f ∈ stores, (∃ j < 64, f.2.2.2.getLsbD j = true) → Suspends f.1 s 0x0A 0 (BitVec.ofNat 64 base))

/-! ## The matrix engine -/

/-- R176, R289, R299: sums, products and comparisons of finite values are those of the numbers they stand for; the special values are as R289
says.
R168, R170, R171, R173: conversion to an element format. A finite nonzero number goes to the multiple of the last place that is nearest, the even
one of two, or to the one toward zero; beyond the largest finite value it overflows, to that value where saturation or rounding toward zero
is chosen, else to infinity, or NaN for e4m3; a loss below the normal range is underflow. l6 takes the nearest rung of its ladder, or the one
below; an integer is clamped or reduced where it lies outside its type. Infinities and NaNs go as the table says.
R175, R176, R178, R192, R236: the arithmetic of the array. The block sum of integers is exact, and so is that of l6 with l6, whose products are
rungs of the ladder; that of a floating pair truncates each product 64 bits below the leading position of the largest. -/
def Obligations.ExactArithmetic : Prop :=
  (∀ (a b : Bool) (m n : Nat) (e f : Int),
      (∃ c x y, Val.add (.fin a m e) (.fin b n f) = (.fin c x y, 0) ∧ ratOf c x y = ratOf a m e + ratOf b n f
          ∧ (x = 0 → c = (a && b && m == 0 && n == 0)))
      ∧ (∃ c x y, Val.mul (.fin a m e) (.fin b n f) = (.fin c x y, 0) ∧ ratOf c x y = ratOf a m e * ratOf b n f ∧ c = (a != b))
      ∧ (Val.lt (.fin a m e) (.fin b n f) = true ↔ ratOf a m e < ratOf b n f)
      ∧ Val.add (.inf a) (.inf b) = (if a = b then (.inf a, 0) else (.nan, 0b000001))
      ∧ Val.mul (.inf a) (.fin b n f) = (if n = 0 then (.nan, 0b000001) else (.inf (a != b), 0))
      ∧ Val.mul (.inf a) (.inf b) = (.inf (a != b), 0) ∧ Val.add (.inf a) (.fin b n f) = (.inf a, 0)
      ∧ (∀ v, (Val.add .nan v).1 = .nan ∧ (Val.add v .nan).1 = .nan ∧ (Val.mul .nan v).1 = .nan ∧ (Val.mul v .nan).1 = .nan))
  ∧ (∀ (fmt : BitVec 4) (m bias top w : Nat) (rtz sat neg : Bool) (mag : Nat) (exp : Int),
      let v : Rat := (mag : Rat) * 2 ^ exp
      let signed : Nat → Nat → Nat := fun w code => if neg then code + 2 ^ (w - 1) else code
      let ovf : BitVec 6 := if sat then 0b100010 else 0b000010
      let rounds : Nat → Int → Prop := fun n q =>
        if rtz then (n : Rat) * 2 ^ q ≤ v ∧ v < ((n : Rat) + 1) * 2 ^ q
        else v - (n : Rat) * 2 ^ q ≤ 2 ^ q / 2 ∧ (n : Rat) * 2 ^ q - v ≤ 2 ^ q / 2
          ∧ ((v - (n : Rat) * 2 ^ q = 2 ^ q / 2 ∨ (n : Rat) * 2 ^ q - v = 2 ^ q / 2) → n % 2 = 0)
      let largest : Rat := if fmt = 9 then 448 else (2 - (2 : Rat) ^ (-(m : Int))) * (2 : Rat) ^ (bias : Int)
      let rung : Nat → Rat := fun k => if k = 0 then 0 else ((([1024, 1218, 1448, 1722].getD (k % 4) 0 : Nat) : Rat) * 2 ^ (((k / 4 : Nat) : Int) - 14))
      let fits : Int × Int × Nat := if fmt = 12 then (-7, 7, 4) else (lowest fmt, highest fmt, bitsOf fmt)
      (floatParams fmt = some (m, bias, top, w) →
        (mag ≠ 0 → ∃ (n : Nat) (q : Int), q = max (exp + mag.log2) (1 - bias) - m ∧ rounds n q
          ∧ (if (n : Rat) * 2 ^ q ≤ largest then
              ∃ code x y, toFormat fmt rtz sat (.fin neg mag exp) =
                  (code, if exp + mag.log2 < 1 - bias ∧ (n : Rat) * 2 ^ q ≠ v then 0b000100 else 0)
                ∧ code < 2 ^ w ∧ decodeElem fmt code = .fin neg x y ∧ ratOf neg x y = ratOf neg n q
            else toFormat fmt rtz sat (.fin neg mag exp) =
              (if sat = true ∨ rtz = true then signed w top else if fmt = 9 then 0x7F else signed w (top + 1), ovf)))
        ∧ (∃ x y, decodeElem fmt top = .fin false x y ∧ ratOf false x y = largest)
        ∧ toFormat fmt rtz sat (.inf neg) = (if fmt = 9 then (if sat then signed w top else 0x7F, ovf) else (signed w (top + 1), 0))
        ∧ (∃ code, toFormat fmt rtz sat .nan = (code, 0b001000) ∧ decodeElem fmt code = .nan))
      ∧ (mag ≠ 0 → ∃ k : Nat,
          (if rtz then rung k ≤ v ∧ v < rung (k + 1)
            else 2 * v ≤ rung k + rung (k + 1) ∧ (2 * v = rung k + rung (k + 1) → k % 2 = 0)
              ∧ (k ≠ 0 → rung (k - 1) + rung k ≤ 2 * v ∧ (2 * v = rung (k - 1) + rung k → k % 2 = 0)))
          ∧ toFormat 11 rtz sat (.fin neg mag exp) =
              (if k = 0 then (0, 0b000100) else if k ≤ 31 then (signed 6 k, 0)
                else (if sat = true ∨ rtz = true then signed 6 31 else 0x20, ovf)))
      ∧ toFormat 11 rtz sat (.inf neg) = (if sat then signed 6 31 else 0x20, ovf) ∧ toFormat 11 rtz sat .nan = (0x20, 0b001000)
      ∧ (fmt.toNat ≤ 5 ∨ fmt = 12 →
          (∃ (n : Nat) (i : Int), rounds n 0 ∧ i = (if neg then -(n : Int) else n)
            ∧ toFormat fmt rtz sat (.fin neg mag exp) =
                (((if sat = true ∨ fmt = 12 then max fits.1 (min fits.2.1 i) else i) % 2 ^ fits.2.2).toNat,
                  if i < fits.1 ∨ fits.2.1 < i then 0b100000 else 0))
          ∧ toFormat fmt rtz sat (.inf neg) = (((if neg then fits.1 else fits.2.1) % 2 ^ fits.2.2).toNat, 0b100000)
          ∧ toFormat fmt rtz sat .nan = (0, 0b001001)))
  ∧ ((∀ (fa fb : BitVec 4) (as bs : List Nat), fa.toNat ≤ 1 ∨ fa = 12 → fb.toNat ≤ 1 ∨ fb = 12 → as.length = 32 → bs.length = 32 →
      let int : BitVec 4 → Nat → Int := fun f x => if f = 12 then (if x % 16 = 8 then 0 else (x : Int).bmod 16) else intOf f (BitVec.ofNat 32 x)
      ∃ n e, blocksum fa fb as bs = (.fin n e, 0)
        ∧ (n : Rat) * 2 ^ e = (((List.range 32).map fun k => int fa (as.getD k 0) * int fb (bs.getD k 0)).sum : Int))
    ∧ (∀ (as bs : List Nat), as.length = 32 → bs.length = 32 →
        let p : Nat → Int := fun k => ((as.getD k 0 % 32 + bs.getD k 0 % 32 : Nat) : Int) - 32
        let term : Nat → Rat := fun k => if as.getD k 0 % 32 = 0 ∨ bs.getD k 0 % 32 = 0 then 0
          else (if as.getD k 0 / 32 % 2 = bs.getD k 0 / 32 % 2 then 1 else -1)
            * (([1024, 1218, 1448, 1722].getD (p k % 4).toNat 0 : Nat) : Rat) * 2 ^ (p k / 4 - 10)
        ((∃ k < 32, as.getD k 0 % 64 = 32 ∨ bs.getD k 0 % 64 = 32) → blocksum 11 11 as bs = (.nan, 0b001000))
        ∧ ((∀ k < 32, as.getD k 0 % 64 ≠ 32 ∧ bs.getD k 0 % 64 ≠ 32) →
            ∃ n e, blocksum 11 11 as bs = (.fin n e, 0) ∧ (n : Rat) * 2 ^ e = ((List.range 32).map term).sum))
    ∧ (∀ (fa fb : BitVec 4) (as bs : List Nat), fa ∈ [6, 7, 9, 10, 11] → fb ∈ [6, 7, 9, 10, 11] → fa ≠ 11 ∨ fb ≠ 11 →
        as.length = 32 → bs.length = 32 →
        let p : Nat → Val := fun k => ((decodeElem fa (as.getD k 0)).mul (decodeElem fb (bs.getD k 0))).1
        let r := (blocksum fa fb as bs).1
        let some_ : Val → Prop := fun v => ∃ k < 32, p k = v
        (some_ .nan → r = .nan) ∧ (¬ some_ .nan → some_ (.inf false) → some_ (.inf true) → r = .nan ∧ (blocksum fa fb as bs).2.getLsbD 0 = true)
        ∧ (∀ neg, ¬ some_ .nan → some_ (.inf neg) → ¬ some_ (.inf !neg) → r = .inf neg)
        ∧ ∀ (neg : Nat → Bool) (mag : Nat → Nat) (exp : Nat → Int), (∀ k < 32, p k = .fin (neg k) (mag k) (exp k)) →
            ((∀ k < 32, mag k = 0) → ∃ e, r = .fin 0 e)
            ∧ ∀ E : Int, (∃ k < 32, mag k ≠ 0 ∧ exp k + (mag k).log2 = E) → (∀ k < 32, mag k ≠ 0 → exp k + (mag k).log2 ≤ E) →
                r = .fin ((List.range 32).map fun k => (if neg k then -1 else 1) * ((mag k : Rat) * 2 ^ (exp k - (E - 64))).floor).sum (E - 64))
    ∧ (∀ (c0 : BitVec 32) (n m e f : Int),
        let total := c0.toInt + n + m
        accumulate false c0.toNat (.fin n e) (.fin m f) = ((total % 2 ^ 32).toNat, if total < -2 ^ 31 ∨ 2 ^ 31 ≤ total then 0b100000 else 0))
    ∧ (∀ (c : Core) (freq : List Nat) (stop x pos sym : Nat), sym < freq.length →
        (freq.take sym).sum ≤ x % 4096 → x % 4096 < (freq.take sym).sum + freq.getD sym 0 →
        let y := freq.getD sym 0 * (x / 4096) + x % 4096 - (freq.take sym).sum
        c.laneStep freq stop x pos = if 0x10000 ≤ y then (sym, y, pos, false) else if stop < pos + 2 then (sym, y, pos, true)
          else (sym, y * 65536 + ((readZ c.batt (c.carder.unit * 256 + pos)).toNat + (readZ c.batt (c.carder.unit * 256 + pos + 1)).toNat * 256), pos + 2, false))
    ∧ crc32c [0x31, 0x32, 0x33, 0x34, 0x35, 0x36, 0x37, 0x38, 0x39] = 0xE3069283)

/-- R322 to R324, R330: `m.mac` and `m.macz` put 64 rows on their drive ticks, from tile memory with their A scales or from the west link, and occupy
the drive path for D ticks; `m.kat` occupies it too, and compares at the tick of its last entry.
R317, R322 to R324: what a row does at its drive tick, and a tap at each PE row. The row's 64 elements enter the A streams, and leave eastward under
`ae`; 70 ticks after its drive tick, its first entry is written, with sums taken against the plane that was active at the drive tick. A tap takes the
sender's element for its PE row and tick; of two A rows that share a tick, its own.
R117, R177, R178, R186, R323, R324: entry (i, j) at its write tick W. The new value comes from c0 as the tick before left it, or from zero, or
from the north link; it is written to the bank, or leaves southward; its flags join the bank's sticky status; the next entry follows a tick
later.
R177, R179, R330: the scaling of the two block sums of a column, accumulation in f32 with one rounding a block, the conversion of an entry by
the tensor scale, and the elements of a known-answer tile. -/
def Obligations.Multiplications : Prop :=
  (∀ (s : State) (o : MW) (t a D : Nat) (w : Word) (tick : Nat → Nat), t = s.cur.job.t → w = s.cur.job.entry.fmt →
      a = o.addr.toNat + s.cur.job.tileStep * 256 →
      tick = (fun i => if (fmtA w = 12 ∧ fmtB w = 12) ∨ (fmtA w = 11 ∧ fmtB w = 11) then i / 2 else if fmtA w = 6 ∨ fmtA w = 7 then 2 * i else i) →
      D = tick 64 → s.here.freeAt 3 ≤ t →
      (∀ i ∈ [Instr.mMac o, .mMacz o],
        (o.m.getLsbD 1 = false → a % 256 = 0 → a + 64 * pitch (fmtA w) + (if fmtScalesA w then 128 else 0) ≤ 2 ^ 20 →
          (∀ k < 64 * pitch (fmtA w) + (if fmtScalesA w then 128 else 0),
            ∃ r ∈ s.cur.job.reads ++ s.cur.job.writes, inRange r (a + k) = true) →
          let sc : Nat → Nat := fun k => if fmtScalesA w then (readZ s.here.tile (a + 64 * pitch (fmtA w) + k)).toNat else 127
          IssuesAt i s ((List.range 64).map fun i => (t + tick i, tick i, .macRow i (sc i) (sc (64 + i))))
            fun c => (({ c with busy := alter c.busy 3 fun _ => t + D } : Core).usePlane (t + tick 63 + 130)))
        ∧ (o.m.getLsbD 1 = true →
          IssuesAt i s ((List.range 64).map fun i => (t + tick i + 3, tick i, .tap i 0 [] s.here.active 127 127))
            fun c => (({ c with busy := alter c.busy 3 fun _ => t + D } : Core).usePlane (t + tick 63 + 130))))
      ∧ Issues (.mKat o) s [(t + tick 63 + 133, .kat (BitVec.ofNat 32 (crc32c ((katResults w (o.m.toNat % 64)).flatMap fun x =>
            (List.range 4).map fun i => x / 2 ^ (8 * i) % 256)))
            (BitVec.ofNat 32 (o.bank.toNat * 2 ^ 29 + o.dir.toNat * 2 ^ 27 + o.idx.toNat * 2 ^ 21 + o.addr.toNat * 2 + o.m.toNat / 64)))]
          fun c => { c with busy := alter c.busy 3 fun _ => t + D })
  ∧ (∀ (s : State) (core i : Nat) (j : Job) (o : MW), j.entry.ins = .mMac o ∨ j.entry.ins = .mMacz o → i < 64 →
      let w := j.entry.fmt
      let drive := j.t + rowTick w i
      let fresh := decide (j.entry.ins = .mMacz o)
      let cols : Bool → List Nat → Nat → Nat → List (Sum × Sum × Status) := fun second codes sa0 sa1 => (List.range 64).map fun n =>
        let sb : Nat → Nat := fun k => if fmtScalesB w then (readZ ((s.core core).scaleStore second) k).toNat else 127
        let r := column w codes ((List.range 64).map fun k => (readZ ((s.core core).plane second) (64 * k + n)).toNat) sa0 sa1 (sb n) (sb (64 + n))
        (r.1, r.2.1, Status.one (64 * i + n) r.2.2 0)
      (∀ sa0 sa1 : Nat, ∃ (codes : List Nat) (sub : Status) (t : State),
        codes.length = 64 ∧ (∀ k < 64, codes[k]? = some ((s.core core).element (fmtA w) (o.addr.toNat + j.tileStep * 256 + i * pitch (fmtA w)) k))
        ∧ s.runStep core drive 0 j (.macRow i sa0 sa1) = t
        ∧ Flies s t core j [(drive + 70, rowTick w i, .macCol i 0 o.bank.toNat (cols (s.core core).active codes sa0 sa1) (fmtFloat w) fresh
              (o.m.getLsbD 2) (o.m.getLsbD 3) sub)]
            (fun c => { c with stream := c.stream ++ (List.range 64).map fun k => (drive + 3 + k, k, BitVec.ofNat 16 (codes.getD k 0)),
                               east := (t.core core).east })
        ∧ (o.m.getLsbD 0 = false → (t.core core).east = (s.core core).east)
        ∧ (o.m.getLsbD 0 = true → ∀ n lat, s.neighbour core false = some (n, lat) → ∀ k < 64,
            ({ tick := drive + 3 + k + 63 + lat, nominal := drive + 3 + k + 63 + lat - j.lag, row := k, half := j.half i, code := BitVec.ofNat 16 (codes.getD k 0),
               sa0 := sa0, sa1 := sa1 } : LinkCode) ∈ (t.core core).east))
      ∧ (∀ (tick k : Nat) (codes : List (BitVec 16)) (second : Bool) (sa0 sa1 : Nat) (code : BitVec 16) (x0 x1 : Nat), k < 64 →
          s.tapWest core j tick 0 k (j.half i) = .value (code, x0, x1) 0 →
          let t := s.runStep core tick 0 j (.tap i k codes second sa0 sa1)
          let a0 := if k = 0 then x0 else sa0
          let a1 := if k = 0 then x1 else sa1
          ∃ sub, Flies s t core j
            [if k < 63 then (tick + 1, rowTick w i, .tap i (k + 1) (codes ++ [code]) second a0 a1)
              else (tick + 4, rowTick w i, .macCol i 0 o.bank.toNat
                (cols second ((codes ++ [code]).map (·.toNat)) (if fmtScalesA w then a0 else 127) (if fmtScalesA w then a1 else 127))
                (fmtFloat w) fresh (o.m.getLsbD 2) (o.m.getLsbD 3) sub)]
            (fun c => { c with stream := c.stream ++ [(tick, k, code)], east := (t.core core).east }))
      ∧ (j.half i = if (fmtA w = 12 ∧ fmtB w = 12) ∨ (fmtA w = 11 ∧ fmtB w = 11) then i % 2 else 0)
      ∧ (s.sender core false = none → ∀ tick k h, s.tapWest core j tick 0 k h = .value (0, 127, 127) 0)
      ∧ (∀ n tick k h a, s.sender core false = some n → j.lag = 0 → a ∈ (s.core n).east → a.row = k → a.half = h → a.tick = tick → a.nominal = tick →
          (∀ b ∈ (s.core n).east, b.row = k → b.half = h → b.nominal = tick → b = a) → s.tapWest core j tick 0 k h = .value (a.code, a.sa0, a.sa1) 0))
  ∧ (∀ (s : State) (old : Core) (core tick i n bank : Nat) (sums : List (Sum × Sum × Status)) (float fresh south north : Bool) (sub : Status)
      (f : Flight), i < 64 → n < 64 → f.effect = .macCol i n bank sums float fresh south north sub → f.waited = 0 →
      ∀ c0 : Nat, (fresh = true → c0 = 0) → (fresh = false → north = false → c0 = (old.entry (bank * 4096 + i * 64 + n)).toNat) →
        (fresh = false → north = true → ∃ x, s.tapNorth core f.job (tick - 1) 0 n (f.job.half i) = .value x 0 ∧ c0 = x.toNat) →
        (fresh = true → north = true → ∃ x, s.tapNorth core f.job (tick - 1) 0 n (f.job.half i) = .value x 0) →
        let x := sums.getD n (.fin 0 0, .fin 0 0, .none)
        let r := accumulate float c0 x.1 x.2.1
        let t := s.perform core tick old f
        let key := bank * 4096 + i * 64 + n
        (∀ k, readZ (t.core core).mrf k = if k = key ∧ south = false then BitVec.ofNat 32 r.1 else readZ (s.core core).mrf k)
        ∧ (t.core core).mstatus = alter (s.core core).mstatus bank (fun st =>
            st.merge ((Status.one (64 * i + n) (r.2 ||| x.2.2.flags) 0).merge (if n = 0 then sub else .none)))
        ∧ (∃ g : List Flight, (t.core core).flights = (s.core core).flights ++ g
            ∧ g.map (fun y => (y.tick, y.job, y.effect)) =
              if n < 63 then [(tick + 1, f.job, .macCol i (n + 1) bank sums float fresh south north sub)] else [])
        ∧ (south = false → (t.core core).south = (s.core core).south)
        ∧ (south = true → ∀ m lat, s.neighbour core true = some (m, lat) →
            ({ tick := tick + lat, nominal := tick + lat - f.job.lag, col := n, half := f.job.half i, value := BitVec.ofNat 32 r.1 } : LinkSum) ∈ (t.core core).south)
        ∧ (∀ c, c ≠ core → t.core c = s.core c) ∧ SameMem s t
        ∧ (s.sender core true = none → s.tapNorth core f.job (tick - 1) 0 n (f.job.half i) = .value 0 0)
        ∧ (∀ m a, s.sender core true = some m → f.job.lag = 0 → a ∈ (s.core m).south → a.col = n → a.half = f.job.half i → a.tick = tick - 1 →
            a.nominal = tick - 1 → (∀ b ∈ (s.core m).south, b.col = n → b.half = f.job.half i → b.nominal = tick - 1 → b = a) →
            s.tapNorth core f.job (tick - 1) 0 n (f.job.half i) = .value a.value 0))
  ∧ ((∀ (w : Word) (as bs : List Nat) (a0 a1 b0 b1 : Nat),
      let S0 := blocksum (fmtA w) (fmtB w) (as.take 32) (bs.take 32)
      let S1 := blocksum (fmtA w) (fmtB w) (as.drop 32) (bs.drop 32)
      let scaled : Sum → Nat → Nat → Sum := fun x a b => if a = 255 ∨ b = 255 then .nan else match x with
        | .fin n e => .fin n (e + ((a : Int) - 127) + ((b : Int) - 127))
        | y => y
      if fmtFloat w then column w as bs a0 a1 b0 b1 = (scaled S0.1 a0 b0, scaled S1.1 a1 b1,
          S0.2 ||| S1.2 ||| if a0 = 255 ∨ b0 = 255 ∨ a1 = 255 ∨ b1 = 255 then 0b001000 else 0)
      else column w as bs a0 a1 b0 b1 = (S0.1, S1.1, S0.2 ||| S1.2))
    ∧ (∀ (c0 : Nat) (x y : Sum),
        let val : Sum → Val := fun v => match v with
          | .nan => .nan
          | .inf n => .inf n
          | .fin i e => .fin (decide (i < 0)) i.natAbs e
        let s1 := (decodeElem 8 c0).add (val x)
        let c1 := toFormat 8 false false s1.1
        let s2 := (decodeElem 8 c1.1).add (val y)
        let c2 := toFormat 8 false false s2.1
        accumulate true c0 x y = (c2.1, s1.2 ||| (c1.2 &&& 0b110111) ||| (if (decodeElem 8 c0).isNan then 0b001000 else 0) ||| (s2.2 ||| (c2.2 &&& 0b110111))))
    ∧ (∀ (w : Word) (x : Lane),
        let v : Val := if fmtFloat w then decodeElem 8 x.toNat else .fin (decide (x.toInt < 0)) x.toInt.natAbs 0
        let k : Val := decodeElem 8 (w.toNat / 2 ^ 32)
        let r := toFormat (fmtOut w) (w.getLsbD 18) (w.getLsbD 17) (v.mul k).1
        outEntry w x = (r.1, (v.mul k).2 ||| (r.2 &&& 0b110111) ||| if v.isNan ∨ k.isNan then 0b001000 else 0))
    ∧ (∀ (f : BitVec 4) (n : Nat), f ∈ [0, 1, 6, 7, 9, 10, 11, 12] →
        let w : Nat := if f = 12 then 4 else if f = 11 then 6 else if f = 6 ∨ f = 7 then 16 else 8
        katCode f n = if (decodeElem f n).isNan = true ∨ decodeElem f n = .inf false ∨ decodeElem f n = .inf true ∨ (f = 12 ∧ n % 16 = 8) then 0
          else n % 2 ^ w)
    ∧ ∀ (w : Word) (p i n : Nat), i < 64 → n < 64 →
        let r := column w ((List.range 64).map fun k => katCode (fmtA w) (37 * i + 11 * k + 5 * p))
          ((List.range 64).map fun k => katCode (fmtB w) (13 * k + 29 * n + 3 * p + 1)) 127 127 127 127
        (katResults w p)[64 * i + n]? = some (accumulate (fmtFloat w) 0 r.1 r.2.1).1)

/-- R316 to R321: `m.wld` starts the carder on a batt unit and occupies the load path for 264 ticks; `m.wldr` loads a row a tick and occupies it
for 65; `m.wsw` exchanges the planes. A busy path, or rows that still use the shadow plane, is fault 0x10 with subcode 2. A carder that met an
error writes nothing (R361).
R116, R317, R325 to R329: moves between the matrix register file and vector registers, clearing, sums of banks, transposition and output, each
on a free path. `m.out` reads and clears its bank's sticky status at its issue. A busy path is fault 0x10 with subcode 2.
R185, R320, R327 to R329: the later steps. Row u of `m.wldr` goes to the shadow plane two ticks after it is read, and the scales last; row u of
`m.out` is converted and written four ticks later, with the status word behind the last; `m.tr` writes what it read of a column as a row; `m.add`
over a bank goes row by row. -/
def Obligations.MatrixStores : Prop :=
  (∀ (s : State) (o : MW) (t unit : Nat) (w : Word), t = s.cur.job.t → w = s.cur.job.entry.fmt →
      unit = o.bank.toNat * 256 + o.dir.toNat * 64 + o.idx.toNat + s.cur.job.tileStep →
      let reads : Nat → Nat → Prop := fun a n => a + n ≤ 2 ^ 20 ∧ ∀ k < n, ∃ r ∈ s.cur.job.reads ++ s.cur.job.writes, inRange r (a + k) = true
      (s.here.shadowUsed ≤ t → s.here.freeAt 2 ≤ t → unit < 1536 →
        let at_ := o.addr.toNat + if fmtScalesB w then s.cur.job.tileStep * 256 else 0
        (fmtScalesB w = true → at_ % 128 = 0 ∧ reads at_ 128) →
        Issues (.mWld o) s
          (if s.here.carder.dead then []
            else [(t + 4, .scales ((List.range 128).map fun k => if fmtScalesB w then readZ s.here.tile (at_ + k) else 0x7F)), (t + 3, .step 0 .none)])
          fun c => { c with busy := alter c.busy 2 fun _ => t + 264,
                            carder := { c.carder with busy := true, slot := w.toNat / 2 ^ 24 % 4, seg := 0, step := 0, pos := 0, unit := unit,
                                                      total := ((List.range 4).map fun i => (readZ c.batt (unit * 256 + 8 + i)).toNat * 2 ^ (8 * i)).sum,
                                                      issued := t, lanes := List.replicate 16 0 } })
      ∧ (s.here.shadowUsed ≤ t → s.here.freeAt 2 ≤ t →
          let at_ := o.addr.toNat + s.cur.job.tileStep * 256
          at_ % 256 = 0 → reads at_ (64 * pitch (fmtB w) + if fmtScalesB w then 128 else 0) →
          Issues (.mWldr o) s [(t, .step 0 .none)] fun c => { c with busy := alter c.busy 2 fun _ => t + 65 })
      ∧ (s.here.freeAt 3 ≤ t → s.here.planeLoading t = false →
          ∃ u, exec (.mWsw o) s = .next u ∧ u.here = { s.here with active := !s.here.active } ∧ OnlyHere s u ∧ SameMem s u)
      ∧ (t < s.here.shadowUsed ∨ t < s.here.freeAt 2 → Suspends (.mWld o) s 0x10 2 (BitVec.ofNat 64 t) ∧ Suspends (.mWldr o) s 0x10 2 (BitVec.ofNat 64 t))
      ∧ (t < s.here.freeAt 3 ∨ s.here.planeLoading t = true → Suspends (.mWsw o) s 0x10 2 (BitVec.ofNat 64 t))
      ∧ (s.here.shadowUsed ≤ t → s.here.freeAt 2 ≤ t → 1536 ≤ unit → Suspends (.mWld o) s 0x0A 0 (BitVec.ofNat 64 unit)))
  ∧ (∀ (s : State) (o : MW) (t v : Nat), t = s.cur.job.t → v = physReg s.here.vrb (o.addr.toNat / 4096) →
      let line : Nat → Nat := fun j => if o.dir = 0 then o.idx.toNat * 64 + j else if o.dir = 1 then j * 64 + o.idx.toNat else j * 64 + (j + o.idx.toNat) % 64
      let key : Nat → Nat := fun j => o.bank.toNat * 4096 + line j
      let busy : Nat → Core → Core := fun n c => { c with busy := alter c.busy 5 fun _ => t + n }
      (s.here.freeAt 5 ≤ t →
        Issues (.mTov o) s [(t + 2, .vrf ((List.range 64).map fun j => (v * 64 + j, s.here.entry (key j))))] (busy 1)
        ∧ Issues (.mFrv o) s [(t + 2, .mrf ((List.range 64).map fun j => (key j, s.here.lane (v * 64 + j))) o.bank.toNat .none)] (busy 1)
        ∧ Issues (.mClr o) s ((t + 1, .mrf ((if o.dir = 3 then (List.range 4096).map (o.bank.toNat * 4096 + ·) else (List.range 64).map key).map
              fun k => (k, 0)) o.bank.toNat .none) :: if o.m.getLsbD 0 then [(t + 1, .mrfClear o.bank.toNat)] else []) (busy 1)
        ∧ Issues (.mTr o) s [(t, .step 0 .none)] (busy 64)
        ∧ (o.dir = 3 → Issues (.mAdd o) s [(t, .step 0 .none)] (busy 64))
        ∧ (o.dir ≠ 3 →
            let sum : Nat → Nat × BitVec 6 := fun j => addEntry (o.m.getLsbD 6) (s.here.entry (o.m.toNat % 8 * 4096 + line j))
              (s.here.entry (o.m.toNat / 8 % 8 * 4096 + line j))
            Issues (.mAdd o) s [(t + 3, .mrf ((List.range 64).map fun j => (key j, BitVec.ofNat 32 (sum j).1)) o.bank.toNat
              (laneStatus ((List.range 64).map fun j => (line j, 0, (sum j).2, 0))))] (busy 1)))
      ∧ (let a := o.addr.toNat + s.cur.job.tileStep * 256
         let n := 64 * pitch (fmtOut s.cur.job.entry.fmt) + 8
         s.here.freeAt 4 ≤ t → a % 256 = 0 → a + n ≤ 2 ^ 20 → (∀ k < n, ∃ r ∈ s.cur.job.writes, inRange r (a + k) = true) →
          Issues (.mOut o) s [(t, .step 0 (s.here.mstatus.getD o.bank.toNat .none))]
            fun c => { c with busy := alter c.busy 4 fun _ => t + 65, mstatus := alter c.mstatus o.bank.toNat fun _ => .none })
      ∧ (t < s.here.freeAt 5 → ∀ i ∈ [Instr.mTov o, .mFrv o, .mClr o, .mTr o, .mAdd o], Suspends i s 0x10 2 (BitVec.ofNat 64 t))
      ∧ (t < s.here.freeAt 4 → Suspends (.mOut o) s 0x10 2 (BitVec.ofNat 64 t))
      ∧ (t < s.here.freeAt 3 → ∀ i ∈ [Instr.mMac o, .mMacz o, .mKat o], Suspends i s 0x10 2 (BitVec.ofNat 64 t))
      ∧ ∀ a b : Lane,
          addEntry false a b = (((a.toInt + b.toInt) % 2 ^ 32).toNat, if a.toInt + b.toInt < -2 ^ 31 ∨ 2 ^ 31 ≤ a.toInt + b.toInt then 0b100000 else 0)
          ∧ (let x := decodeElem 8 a.toNat
             let y := decodeElem 8 b.toNat
             let r := toFormat 8 false false (x.add y).1
             addEntry true a b = (r.1, (x.add y).2 ||| (r.2 &&& 0b110111) ||| if x.isNan ∨ y.isNan then 0b001000 else 0)))
  ∧ (∀ (s : State) (core u tick : Nat) (j : Job) (o : MW) (carry : Status), j.q = 1 → u < 64 →
      let w := j.entry.fmt
      let c := s.core core
      let at_ := o.addr.toNat + j.tileStep * 256
      let next : Status → List (Nat × Nat × Effect) := fun st => if u < 63 then [(tick + 1, u + 1, .step (u + 1) st)] else []
      let run : Nat → State := fun n => s.runStep core tick 0 j (.step n carry)
      (j.entry.ins = .mWldr o → pitch (fmtB w) ≤ 128 →
        let row := at_ + u * pitch (fmtB w)
        let byte : Nat → Nat := fun k => (readZ c.tile (row + k)).toNat
        Flies s (run u) core j
            [(tick + 2, u, .plane ((List.range 64).map fun n => (64 * u + n, BitVec.ofNat 16
              (if fmtB w = 12 then byte (n / 2) / 16 ^ (n % 2) % 16 else if pitch (fmtB w) = 64 then (if fmtB w = 11 then byte n % 64 else byte n)
                else byte (2 * n) + 256 * byte (2 * n + 1))))),
             (tick + 1, u + 1, .step (u + 1) .none)] id
        ∧ Flies s (run 64) core j [(tick + 1, 64, .scales ((List.range 128).map fun k =>
            if fmtScalesB w then readZ c.tile (at_ + 64 * pitch (fmtB w) + k) else 0x7F))] id)
      ∧ (j.entry.ins = .mOut o →
          let p := pitch (fmtOut w)
          let r : Nat → Nat × BitVec 6 := fun n => outEntry w (c.entry (o.bank.toNat * 4096 + u * 64 + n))
          let st := ((List.range 64).map fun n => Status.one (64 * u + n) (r n).2 0).foldl Status.merge carry
          let code : Nat → Nat := fun n => if fmtOut w = 11 then (r n).1 % 64 else (r n).1
          Flies s (run u) core j
            ((tick + 4, u, .tile ((List.range p).map fun k => (at_ + u * p + k, BitVec.ofNat 8
                (if fmtOut w = 12 then code (2 * k) % 16 + code (2 * k + 1) % 16 * 16 else code (k / (p / 64)) / 256 ^ (k % (p / 64))))))
              :: if u < 63 then [(tick + 1, u + 1, .step (u + 1) st)]
                else [(tick + 5, u, .tile ((List.range 8).map fun k => (at_ + 64 * p + k, BitVec.ofNat 8 (st.word.toNat / 2 ^ (8 * k)))))]) id)
      ∧ (j.entry.ins = .mTr o →
          Flies s (run u) core j ((tick + 2, u, .mrf ((List.range 64).map fun n =>
            (o.bank.toNat * 4096 + u * 64 + n, c.entry (o.m.toNat % 8 * 4096 + n * 64 + u))) o.bank.toNat .none) :: next .none) id)
      ∧ (j.entry.ins = .mAdd o →
          let sum : Nat → Nat × BitVec 6 := fun n => addEntry (o.m.getLsbD 6) (c.entry (o.m.toNat % 8 * 4096 + (u * 64 + n)))
            (c.entry (o.m.toNat / 8 % 8 * 4096 + (u * 64 + n)))
          Flies s (run u) core j ((tick + 3, u, .mrf ((List.range 64).map fun n => (o.bank.toNat * 4096 + (u * 64 + n), BitVec.ofNat 32 (sum n).1)) o.bank.toNat
            (laneStatus ((List.range 64).map fun n => (u * 64 + n, 0, (sum n).2, 0)))) :: next .none) id))

/-! ## The load and store engines -/

/-- R333, R334, R338, R339, R341 to R343: the loads, where their checks pass. Each occupies the engine for its rows or units, and its first row, unit or
list is on its way; the next step follows one tick later. `l.pref` starts its walks. -/
def Obligations.EngineLoads : Prop :=
  ∀ (s : State) (o : LW) (j : Job) (c t : Nat), j = s.cur.job → c = s.cur.core → t = j.t → j.q = 0 →
    let busy : Nat → Core → Core := fun n x => { x with busy := alter x.busy 0 fun _ => t + n }
    let more : Nat → List (Nat × Nat × Effect) := fun n => if 1 < n then [(t + 1, 1, .step 1 .none)] else []
    (j.entry.ins = .lGet o → LsPasses s [(j.tileAt, j.rows * j.pitch, true, 2 ^ 20)] →
      s.spotFault c j .read ((j.rowAccs (j.idx 1)).map (·.1)) = none →
      Starts (.lGet o) s ((t + s.lag c j .read ((j.rowAccs (j.idx 1)).map (·.1)), 0, .tile (cellsAt j.tileAt (s.rowBytes c j (j.idx 1)))) :: more j.rows)
        (busy j.rows) false)
    ∧ (j.entry.ins = .lGetb o → LsPasses s [(j.tileAt, 256 * j.units, true, 2 ^ 20)] → s.spotFault c j .read (j.unitAccs 0) = none →
      ∃ es, (∃ n, es = (t + n, 0, .tile (cellsAt j.tileAt (s.unitBytes' c j 0))) :: more j.units) ∧ Starts (.lGetb o) s es (busy j.units) false)
    ∧ (j.entry.ins = .lGath o → LsPasses s [(j.entry.vb.toNat % 2 ^ 20, 256, false, 2 ^ 20), (j.tileAt, 64 * j.pitch, true, 2 ^ 20)] →
      ∃ w : Nat → Nat, (∀ r < 64, ∀ i < 4, w r / 2 ^ (8 * i) % 256 = (readZ s.here.tile (j.entry.vb.toNat % 2 ^ 20 + 4 * r + i)).toNat)
        ∧ Starts (.lGath o) s ((List.range 64).map fun r => (t + 1 + r, 1 + r, .step (1 + r) { Status.none with first := w r })) (busy 65) false)
    ∧ (j.entry.ins = .lCget o → 0 < j.units →
      LsPasses s [(j.entry.va.toNat % 2 ^ 23, 256 * j.units, false, 2 ^ 23), (j.tileAt, 256 * j.units, true, 2 ^ 20)] →
      s.regionOk c (j.entry.va.toNat % 2 ^ 23) = true →
      Starts (.lCget o) s ((t + 40, 0, .tile (cellsAt j.tileAt ((List.range 256).map fun i =>
          readZ s.store (clusterOf c * 2 ^ 23 + j.entry.va.toNat % 2 ^ 23 + i)))) :: more j.units) (busy j.units) false)
    ∧ (j.entry.ins = .lTcpy o → LsPasses s [(j.entry.va.toNat % 2 ^ 20, 256 * j.units, false, 2 ^ 20), (j.tileAt, 256 * j.units, true, 2 ^ 20)] →
      Starts (.lTcpy o) s ((t + 2, 0, .tile (cellsAt j.tileAt ((List.range 256).map fun i =>
          readZ s.here.tile (j.entry.va.toNat % 2 ^ 20 + i)))) :: more j.units) (busy j.units) false)
    ∧ (j.entry.ins = .lZero o → LsPasses s [(j.tileAt, 256 * j.units, true, 2 ^ 20)] →
      Starts (.lZero o) s ((t + 2, 0, .tile (cellsAt j.tileAt (List.replicate 256 0))) :: more j.units) (busy j.units) false)
    ∧ (j.entry.ins = .lPref o → LsPasses s [] → Starts (.lPref o) s [(t, 0, .walk)] (busy 1) false)

/-- R194, R340, R343: the loads of coded data, where their checks pass: `l.getw` asks for its index entry, `l.cbld` for the first half of a codebook.
Nothing is said of bytes that a replay has left open (R234; log 48).
R137, R333: a row in the tile layout. Each element's bytes, the lowest first, follow the last element's; i4 elements fill nibbles, and what lies
beyond the last element is zero. Nothing is said of bytes that a replay has left open (R234; log 48). -/
def Obligations.CodedLoads : Prop :=
  (∀ (s : State) (o : LW) (j : Job) (c t : Nat), j = s.cur.job → c = s.cur.core → t = j.t → j.q = 0 →
      (j.entry.ins = .lGetw o → LsPasses s [(j.tileAt, 1, true, 1536 * 256)] → s.spotFault c j .read [(j.indexVa, 8)] = none →
        ∃ w : Word, Starts (.lGetw o) s [(t + s.lag c j .read [(j.indexVa, 8)], 1, .index w)] (fun x => { x with busy := alter x.busy 0 fun _ => t + 34 }) false
          ∧ ∀ p e, s.spot c j .read j.indexVa 8 = .ok (p, e) → p.medium ≠ .peer → (∀ i < 8, s.isOpen c (p.pa + i) = false) →
              ∀ i < 8, w.toNat / 2 ^ (8 * i) % 256 = (s.readByte (s.keyFor (s.worldOf c) p.durable) (p.pa + i)).toNat)
      ∧ (j.entry.ins = .lCbld o → LsPasses s [] → s.spotFault c j .read (rangeAccs (j.shape.place j.indices).1 256) = none →
        ∃ n bs, Starts (.lCbld o) s [(t + 1 + n, 1, .codebook (o.tile.toNat % 4) bs), (t + 1, 1, .step 1 .none)]
            (fun x => { x with busy := alter x.busy 0 fun _ => t + 2 }) false
          ∧ bs = s.rangeBytes c j .read (rangeAccs (j.shape.place j.indices).1 256)))
  ∧ (∀ (s : State) (c : Nat) (j : Job) (e1 : Nat), (∀ k < j.cols, ∃ p e, s.spot c j .read (j.rowElems e1)[k]!.1 j.elemBytes = .ok (p, e) ∧ p.medium ≠ .peer) →
      (s.rowBytes c j e1).length = j.pitch
      ∧ (∀ i, j.cols * halfBytes j.shape.format ≤ 2 * i → (s.rowBytes c j e1).getD i 0 = 0)
      ∧ ∀ k < j.cols, ∀ p e, s.spot c j .read (j.rowElems e1)[k]!.1 j.elemBytes = .ok (p, e) → (∀ i < j.elemBytes, s.isOpen c (p.pa + i) = false) →
          (j.shape.format ≠ 12 → ∀ i < j.elemBytes,
            (s.rowBytes c j e1).getD (k * j.elemBytes + i) 0 = s.readByte (s.keyFor (s.worldOf c) p.durable) (p.pa + i))
          ∧ (j.shape.format = 12 → ((s.rowBytes c j e1).getD (k / 2) 0).toNat / 16 ^ (k % 2) % 16
              = (s.readByte (s.keyFor (s.worldOf c) p.durable) p.pa).toNat / (if (j.rowElems e1)[k]!.2 then 16 else 1) % 16))

/-- R150, R160, R344 to R347: the stores, where their checks pass: a row's stores or additions leave after their latency; `s.scat` reads its list; `s.cput`
copies to the cluster store; `s.sig` adds once every earlier write of its class to its own package has performed; `s.pbar` ends after 1400 ticks. -/
def Obligations.EngineStores : Prop :=
  ∀ (s : State) (o : LW) (j : Job) (c t : Nat), j = s.cur.job → c = s.cur.core → t = j.t → j.q = 3 →
    let busy : Nat → Core → Core := fun n x => { x with busy := alter x.busy 1 fun _ => t + n }
    let more : Nat → List (Nat × Nat × Effect) := fun n => if 1 < n then [(t + 1, 1, .step 1 .none)] else []
    (∀ f ∈ [(Instr.sPut o, s.storeEffects c j j.tileAt (j.idx 1), false), (.sRed o, s.addEffects c j j.tileAt (j.idx 1), true)],
      j.entry.ins = f.1 → LsPasses s [(j.tileAt, j.rows * j.pitch, false, 2 ^ 20)] →
      s.spotFault c j .write ((j.rowAccs (j.idx 1)).map (·.1)) = none →
      Starts f.1 s ((f.2.1.map fun e => (t + s.lag c j .write ((j.rowAccs (j.idx 1)).map (·.1)), 0, e)) ++ more j.rows) (busy j.rows) f.2.2)
    ∧ (j.entry.ins = .sScat o → LsPasses s [(j.entry.vb.toNat % 2 ^ 20, 256, false, 2 ^ 20), (j.tileAt, 64 * j.pitch, false, 2 ^ 20)] →
      ∃ w : Nat → Nat, (∀ r < 64, ∀ i < 4, w r / 2 ^ (8 * i) % 256 = (readZ s.here.tile (j.entry.vb.toNat % 2 ^ 20 + 4 * r + i)).toNat)
        ∧ Starts (.sScat o) s ((List.range 64).map fun r => (t + 1 + r, 1 + r, .step (1 + r) { Status.none with first := w r })) (busy 65) false)
    ∧ (j.entry.ins = .sCput o → LsPasses s [(j.tileAt, 256 * j.units, false, 2 ^ 20), (j.entry.va.toNat % 2 ^ 23, 256 * j.units, true, 2 ^ 23)] →
      s.regionOk c (j.entry.va.toNat % 2 ^ 23) = true →
      Starts (.sCput o) s ((t + 40, 0, .cluster (j.entry.va.toNat % 2 ^ 23) ((List.range 256).map fun i => readZ s.here.tile (j.tileAt + i))) :: more j.units)
        (busy j.units) false)
    ∧ (s.here.freeAt 1 ≤ t → j.entry.va.toNat % 8 = 0 → ∀ p e, s.spot c j .write (j.entry.va.toNat : Int) 8 = .ok (p, e) → p.medium ≠ .peer →
      ∃ tick n, t + s.latency c p.medium ≤ tick
        ∧ (∀ r, s.ropeOf c = some r → ∀ x ∈ r.cores, ∀ f ∈ (s.core x).flights, s.packageOf f.effect = some none →
            classOf f.job.entry.ins = classOf j.entry.ins → f.id < s.serial → f.job.t + f.upc ≠ t → f.tick < tick)
        ∧ Starts (.sSig o) s [(tick, 0, .signal j.entry.va.toNat p.pa p.durable j.entry.vb n)] (busy 1) true)
    ∧ (s.here.freeAt 1 ≤ t → (s.strict c = true → j.timed = false) → Starts (.sPbar o) s [(t + 1400, 0, .barrier)] (busy 1401) false)

/-- R124, R160, R221, R293, R316, R336, R346, R354: the issue faults of L and S instances in their order: a busy engine, 0x10 with subcode 2; a stepped
index outside its shape, 0x0C; the first range outside its store, 0x0A, with the address, or the unit of the batt; a misaligned base or range, 0x0F; the
lowest byte outside the declared sets, 0x16. Then `l.cget` and `s.cput` check the region of the cluster store, 0x09. `s.sig` checks its engine, its
alignment, its page, and that a counter is left; `s.pbar` its engine, and that no timed phase of a strict rope runs, 0x09. -/
def Obligations.EngineFaults : Prop :=
  ∀ (s : State) (o : LW) (j : Job), j = s.cur.job →
    let late : Prop := j.t < s.here.freeAt (lsPath j)
    let cva := j.entry.va.toNat % 2 ^ 23
    (∀ (i : Instr) (spans : List (Nat × Nat × Bool × Nat)), j.entry.ins = i →
      (i, spans) ∈ [(Instr.lGet o, [(j.tileAt, j.rows * j.pitch, true, 2 ^ 20)]), (.lGetb o, [(j.tileAt, 256 * j.units, true, 2 ^ 20)]),
        (.lGath o, [(j.entry.vb.toNat % 2 ^ 20, 256, false, 2 ^ 20), (j.tileAt, 64 * j.pitch, true, 2 ^ 20)]),
        (.lCget o, [(cva, 256 * j.units, false, 2 ^ 23), (j.tileAt, 256 * j.units, true, 2 ^ 20)]),
        (.lTcpy o, [(j.entry.va.toNat % 2 ^ 20, 256 * j.units, false, 2 ^ 20), (j.tileAt, 256 * j.units, true, 2 ^ 20)]),
        (.lZero o, [(j.tileAt, 256 * j.units, true, 2 ^ 20)]), (.lPref o, []), (.lGetw o, [(j.tileAt, 1, true, 1536 * 256)]), (.lCbld o, []),
        (.sPut o, [(j.tileAt, j.rows * j.pitch, false, 2 ^ 20)]), (.sRed o, [(j.tileAt, j.rows * j.pitch, false, 2 ^ 20)]),
        (.sScat o, [(j.entry.vb.toNat % 2 ^ 20, 256, false, 2 ^ 20), (j.tileAt, 64 * j.pitch, false, 2 ^ 20)]),
        (.sCput o, [(j.tileAt, 256 * j.units, false, 2 ^ 20), (cva, 256 * j.units, true, 2 ^ 23)])] →
      let off : Prop := stepsIndex i = true ∧ j.entry.shape ≠ none ∧ j.shape.dim (j.shape.rank - 1) ≤ j.idx (j.shape.rank - 1)
      let skew : Prop := j.entry.shape ≠ none ∧ j.shape.base % j.elemBytes ≠ 0
      let inside : Nat × Nat × Bool × Nat → Prop := fun x => x.1 + x.2.1 ≤ x.2.2.2
      let bad : Nat → Prop := fun a => ∃ x ∈ spans, x.2.2.2 = 2 ^ 20 ∧ x.1 ≤ a ∧ a < x.1 + x.2.1
        ∧ ¬ ∃ r ∈ (if x.2.2.1 then j.writes else j.reads ++ j.writes), inRange r a = true
      (late → Suspends i s 0x10 2 (BitVec.ofNat 64 j.t))
      ∧ (¬ late → off → Suspends i s 0x0C 0 (BitVec.ofNat 64 o.shape.toNat))
      ∧ (¬ late → ¬ off → ∀ (n : Nat) (x : Nat × Nat × Bool × Nat), spans[n]? = some x → ¬ inside x → (∀ y ∈ spans.take n, inside y) →
          Suspends i s 0x0A 0 (BitVec.ofNat 64 (if x.2.2.2 = 1536 * 256 then x.1 / 256 else x.1)))
      ∧ (¬ late → ¬ off → (∀ x ∈ spans, inside x) →
          (skew → Suspends i s 0x0F 0 (BitVec.ofNat 64 j.shape.base))
          ∧ (¬ skew → ∀ (n : Nat) (x : Nat × Nat × Bool × Nat), spans[n]? = some x → x.1 % 256 ≠ 0 → (∀ y ∈ spans.take n, y.1 % 256 = 0) →
              Suspends i s 0x0F 0 (BitVec.ofNat 64 x.1))
          ∧ (¬ skew → (∀ x ∈ spans, x.1 % 256 = 0) →
              (∀ a, bad a → (∀ b < a, ¬ bad b) → Suspends i s 0x16 0 (BitVec.ofNat 64 a))
              ∧ ((∀ a, ¬ bad a) → i = .lCget o ∨ i = .sCput o → s.regionOk s.cur.core cva = false →
                ∃ t, exec i s = .next t ∧ t.here.pending = s.here.pending ++ [issueFaultOf s 0x09 0 (BitVec.ofNat 64 cva)]))))
    ∧ (s.here.freeAt 1 > j.t →
        Suspends (.sSig o) s 0x10 2 (BitVec.ofNat 64 j.t) ∧ Suspends (.sPbar o) s 0x10 2 (BitVec.ofNat 64 j.t))
    ∧ (s.here.freeAt 1 ≤ j.t → s.strict s.cur.core = true → j.timed = true → ∃ v, Suspends (.sPbar o) s 0x09 0 v)
    ∧ (s.here.freeAt 1 ≤ j.t →
        (j.entry.va.toNat % 8 ≠ 0 → Suspends (.sSig o) s 0x0F 0 j.entry.va)
        ∧ (j.entry.va.toNat % 8 = 0 →
          (∀ code v, s.spotFault s.cur.core j .write [((j.entry.va.toNat : Int), 8)] = some (code, v) → Suspends (.sSig o) s code 0 v)
          ∧ ∀ p e, s.spot s.cur.core j .write (j.entry.va.toNat : Int) 8 = .ok (p, e) → p.medium = .peer →
              let l := (s.core (s.signalCore s.cur.core)).signals
              find l (s.peerPkg (p.pa / 2 ^ 36 % 256)) = none → 192 ≤ l.length → ∃ v, Suspends (.sSig o) s 0x01 0 v))

/-! ## Unit Y -/

/-- R350, R351: `y.idle` and `y.tchk` at their scheduled tick T. `y.idle` issues nothing: the next entry's T is T + 1 + N + its own WAIT, so N = 0 makes it
an empty entry of one tick. `y.tchk` checks that T less its queue's base is N, and costs one tick as well; a mismatch is fault 0x10, subcode 1, with T. -/
def Obligations.IdleEntries : Prop :=
  ∀ (s : State) (o : YW) (q : Queue) (rest : List Entry) (T : Nat), AtHead s q rest → T = s.cur.job.entry.fixedT.getD (q.nextT + o.wait.toNat) →
    let past (n : Nat) : Queue := { q with entries := rest, wait := .none, nextT := T + 1 + n, issued := q.issued ++ [s.cur.job.entry] }
    let n := o.arg.toNat % 2 ^ 32
    (s.cur.job.entry.ins = .yIdle o → QueueIs (.yIdle o) s (past n) id)
    ∧ (s.cur.job.entry.ins = .yTchk o → ∀ b, q.base = some b →
        (T = b + n → QueueIs (.yTchk o) s (past 0) id)
        ∧ (T ≠ b + n → Suspends (.yTchk o) s 0x10 1 (BitVec.ofNat 64 T)))
    ∧ ∀ (k : Nat) (e : Entry), e ∈ rest → e.fixedT = none → (past k).dueT e = T + 1 + k + waitOf e.ins

/-- R100, R338, R349, R352, R356 to R358: the Y instructions at their scheduled tick T. `y.loop`, `y.yield` and `y.bar` of level
0 leave their queue, whose next entry follows; `y.align`, `y.bar` and `y.halt` stay at its head. A
level-4 barrier without a valid `dom4` is fault 0x01 with the word. That `y.bar` keeps the tick from which its engine is free as that of its arrival is
log 38, and that `y.yield` counts in each queue by itself is log 40.
R313, R353, R380: on an initiation tick of a loop of the V queue, also of one that a fault has delayed, `vrb` turns back by 1 and the stage predicates
shift; `p12` is all ones while the initiation's index is below the trip count, and zero after that. On any other tick nothing happens. The loops are
the one that runs, and those of the entries that follow, by their timetable. -/
def Obligations.QueueInstructions : Prop :=
  (∀ (s : State) (o : YW) (q : Queue) (rest : List Entry) (T : Nat), AtHead s q rest → T = s.cur.job.entry.fixedT.getD (q.nextT + o.wait.toNat) →
      let past (n : Nat) : Queue := { q with entries := rest, wait := .none, nextT := T + 1 + n, issued := q.issued ++ [s.cur.job.entry] }
      (s.cur.job.entry.ins = .yAlign o → QueueIs (.yAlign o) s { q with wait := .align s.cur.job.t } id)
      ∧ (s.cur.job.entry.ins = .yHalt o → QueueIs (.yHalt o) s { q with wait := .halt } id)
      ∧ (s.cur.job.entry.ins = .yLoop o → ∀ trip ii sc, trip = s.cur.job.entry.va.toNat → ii = o.arg.toNat / 2 ^ 23 % 64 →
          sc = o.arg.toNat / 2 ^ 19 % 16 + 1 →
          QueueIs (.yLoop o) s { past ((trip + sc - 1) * ii) with
            loop := some { cursor := T + 1, l0 := T + 1, ii := ii, sc := sc, trip := trip, step := o.arg.toNat / 2 ^ 12 % 128,
                           ring := o.arg.toNat / 2 ^ 8 % 16 + 1 } } id)
      ∧ (s.cur.job.entry.ins = .yYield o →
          QueueIs (.yYield o) s (past 0) fun c => { c with yields := alter c.yields s.cur.job.q (· + 1) })
      ∧ (s.cur.job.entry.ins = .yBar o → ∀ level, level = o.arg.toNat / 2 ^ 31 →
          (level = 0 → (∀ (k : Nat) (x : Queue), s.here.queues[k]? = some x → k ≠ s.cur.job.q → ∀ e ∈ x.entries, e.seq ≠ s.cur.job.entry.seq) →
            (∀ e ∈ rest, e.seq ≠ s.cur.job.entry.seq) →
            QueueIs (.yBar o) s (past 0) fun c => { c with bars := c.bars.erase 0 })
          ∧ (level = 0 → (∃ (k : Nat) (x : Queue), s.here.queues[k]? = some x ∧ k ≠ s.cur.job.q ∧ ∃ e ∈ x.entries, e.seq = s.cur.job.entry.seq) →
            QueueIs (.yBar o) s (past 0) id)
          ∧ (level ≠ 0 → level = 4 → s.here.dom4.getLsbD 63 = false → ∀ w, encode (.yBar o) = some w →
            Suspends (.yBar o) s 0x01 0 w)
          ∧ (level ≠ 0 → (level = 4 → s.here.dom4.getLsbD 63 = true) →
            QueueIs (.yBar o) s
              { q with wait := .bar level (max s.cur.job.t (if s.cur.job.q = 0 then s.here.busy.getD 0 0
                  else if s.cur.job.q = 3 then s.here.busy.getD 1 0
                  else if s.cur.job.q = 1 then max (max (s.here.busy.getD 2 0) (s.here.busy.getD 3 0)) (max (s.here.busy.getD 4 0) (s.here.busy.getD 5 0))
                  else 0)) false } id)))
  ∧ (∀ (s : State) (q : Queue), s.here.queues[2]? = some q → let tick := s.rtick s.cur.core
      let begins (l : Loop) : Prop := l.l0 ≤ tick ∧ tick < l.l0 + (l.trip + l.sc - 1) * l.ii ∧ (tick - l.l0) % l.ii = 0
      (∀ l ∈ q.loops, begins l → (∀ m ∈ q.loops, begins m → m = l) →
        ∃ t, exec .yLoopInitiation s = .next t
          ∧ t.here.vrb = BitVec.ofNat 6 (s.here.vrb.toNat + 63)
          ∧ (∀ (k : Nat) (h : k < 16), (t.here.preds[k] : Word) =
              if k = 12 then (if (tick - l.l0) / l.ii < l.trip then (0xFFFFFFFFFFFFFFFF : Word) else 0)
              else if 13 ≤ k then s.here.predicate (k - 1) else s.here.preds[k])
          ∧ { t.here with vrb := s.here.vrb, preds := s.here.preds, wrote := s.here.wrote, opens := s.here.opens } = s.here ∧ OnlyHere s t ∧ SameMem s t)
      ∧ ((∀ l ∈ q.loops, ¬ begins l) → exec .yLoopInitiation s = .next s)
      ∧ (∀ l, q.loop = some l → l ∈ q.loops)
      ∧ ∀ (e : Entry) (rest : List Entry) (o : YW), q.entries = e :: rest → e.ins = .yLoop o → e.body = none → let T := e.fixedT.getD (q.nextT + o.wait.toNat)
          let trip := e.va.toNat
          ({ cursor := T + 1, l0 := T + 1, ii := o.arg.toNat / 2 ^ 23 % 64, sc := o.arg.toNat / 2 ^ 19 % 16 + 1, trip := trip,
             step := o.arg.toNat / 2 ^ 12 % 128, ring := o.arg.toNat / 2 ^ 8 % 16 + 1 } : Loop) ∈ q.loops)

/-! ## Routing -/

/-- R88, R89, R109, R110, R136, R182, R377: routing an engine word that passes its checks. The entry, with its register values, its shape record and its
format word frozen, joins every queue of the instruction, and the core goes on; no register and no memory changes. While one of the
queues holds 64 entries the core stands still. That a rope which has gone past the T of an entry before it was routed stands for ever is log 19.
R109, R138, R182, R183, R384: the faults of routing, which leave every queue as it was: a word that is no instruction, and a type that is not
enabled, 0x01; a record that cannot be read, the code of the cause with the record's address; then the record's checks in the order of R138; no format
word, 0x13; a bad one, 0x01 with the word. -/
def Obligations.Routing : Prop :=
  (∀ (s : State) (w : Word) (i : Instr) (A B : Word) (va : Nat) (shape : Option ShapeRec) (fmt : Word),
      decode w = .ok i → queuesOf i ≠ [] → (∀ c ∈ typeCodes i, s.formatOn c = true) →
      (∀ q ∈ queuesOf i, ∃ x, s.here.queues[q]? = some x ∧ x.refuses i = false) →
      Written s [(frozenRegs i).1, (frozenRegs i).2] → A = s.here.reg (frozenRegs i).1 → B = s.here.reg (frozenRegs i).2 →
      (namesShape i = false → shape = none) →
      (namesShape i = true → va = s.here.shbase.toNat / 64 * 64 + 64 * (lsWord i).shape.toNat → 
        (∀ x ∈ s.here.accesses, ∀ p n, x.kind ≠ .inbox p n) ∧
        ∃ m, s.mapCore s.cur.core 2 va 64 .read = .ok m ∧ m.1.medium ≠ .peer ∧ s.here.recordBusy m.1 = false ∧ ∃ bs, bs = s.readBytes (s.keyFor (s.worldOf s.cur.core) m.1.durable) m.1.pa 64
          ∧ s.shapeFault i bs A B = none ∧ shape = some (shapeOf bs)) →
      va = s.here.shbase.toNat / 64 * 64 + 64 * (lsWord i).shape.toNat →
      valueFault i w A B = none → (popsFormat i = false → fmt = 0) →
      (popsFormat i = true → s.here.fmtq.head? = some fmt ∧ s.formatOk i fmt = true ∧ scaleAddrOk i fmt = true) →
      ((∀ q ∈ queuesOf i, ∀ x, s.here.queues[q]? = some x → x.entries.length + (if x.susp = none then 0 else 1) < 64) →
        ∃ t, exec (.evRouting w) s = .next t
          ∧ (∀ q ∈ queuesOf i, ∀ x, s.here.queues[q]? = some x → ∃ y e, t.here.queues[q]? = some y ∧ y.entries = x.entries ++ [e]
              ∧ e = { ins := i, slot := x.slot, va := A, vb := B, shape := shape, fmt := fmt, fixedT := e.fixedT, body := e.body,
                      pc := s.here.pc, seq := s.here.seq }
              ∧ ((∃ o, i = .yAlign o) → x.entries = [] → x.base = none → e.fixedT = some (s.rtick s.cur.core + waitOf i))
              ∧ (x.base ≠ none → x.realign = false → e.fixedT = none)
              ∧ { y with entries := x.entries, slot := x.slot, route := x.route, needAlign := x.needAlign, realign := x.realign, halting := x.halting,
                         overrun := x.overrun } = x
              ∧ (y.overrun = true ↔ x.overrun = true ∨ (e.fixedT = none ∧ x.passed (s.rtick s.cur.core) (waitOf i) e.body = true))
              ∧ y.slot = (x.slot + 1) % 64 ∧ (y.halting = true ↔ x.halting = true ∨ ∃ o, i = .yHalt o))
          ∧ (∀ q, q ∉ queuesOf i → t.here.queues[q]? = s.here.queues[q]?)
          ∧ t.here = { s.here with
              queues := t.here.queues, tlb := t.here.tlb, seq := s.here.seq + 1, pc := pcAfter s, dbgc := s.here.skipped,
              fmtq := if popsFormat i then s.here.fmtq.drop 1 else s.here.fmtq, bars := t.here.bars, yieldPcs := t.here.yieldPcs,
              inbox := [], haltIn := t.here.haltIn }
          ∧ (t.here.haltIn = true ↔ s.here.haltIn = true ∨ ((∃ o, i = .yHalt o) ∧ s.here.handler = true))
          ∧ (∀ o, i = .yBar o → t.here.bars = s.here.bars ++ [o.arg.toNat / 2 ^ 31]) ∧ ((∀ o, i ≠ .yBar o) → t.here.bars = s.here.bars)
          ∧ (∀ c, c ≠ s.cur.core → t.core c = s.core c) ∧ SameMem s t)
      ∧ ((∃ q ∈ queuesOf i, ∃ x, s.here.queues[q]? = some x ∧ 64 ≤ x.entries.length + (if x.susp = none then 0 else 1)) →
        ∃ t, exec (.evRouting w) s = .next t ∧ t.here = { s.here with tlb := t.here.tlb } ∧ (∀ c, c ≠ s.cur.core → t.core c = s.core c)
          ∧ SameMem s t))
  ∧ (∀ (s : State) (w : Word), TakesTraps s →
      ((∃ e, decode w = .error e) → Traps (.evRouting w) s 0x01 w s.here.pc)
      ∧ ∀ i, decode w = .ok i → queuesOf i ≠ [] →
        ((∃ c ∈ typeCodes i, s.formatOn c = false) ∨ (∃ q ∈ queuesOf i, ∃ x, s.here.queues[q]? = some x ∧ x.refuses i = true) →
          Traps (.evRouting w) s 0x01 w s.here.pc)
        ∧ ((∀ c ∈ typeCodes i, s.formatOn c = true) → (∀ q ∈ queuesOf i, ∃ x, s.here.queues[q]? = some x ∧ x.refuses i = false) →
          (namesShape i = true → ∀ va n, n = (lsWord i).shape.toNat → va = s.here.shbase.toNat / 64 * 64 + 64 * n →
            (∀ code, code ∉ [0x28, 0x29, 0x2A] → s.mapCore s.cur.core 2 va 64 .read = .error code → Traps (.evRouting w) s code (BitVec.ofNat 64 va) s.here.pc)
            ∧ (∀ m bs, s.mapCore s.cur.core 2 va 64 .read = .ok m → m.1.medium ≠ .peer → bs = s.readBytes (s.keyFor (s.worldOf s.cur.core) m.1.durable) m.1.pa 64 →
              let beyond : Prop := ∃ d < 4, (shapeOf bs).size.getD d 0
                ≤ (routedIndices i (s.here.reg (frozenRegs i).1) (s.here.reg (frozenRegs i).2)).getD d 0
              let unright : Prop := (readsShape i = true ∧ (shapeOf bs).rights.getLsbD 0 = false)
                ∨ (writesShape i = true ∧ (shapeOf bs).rights.getLsbD 1 = false)
              (s.here.shlim.toNat ≤ n → Traps (.evRouting w) s 0x0C (BitVec.ofNat 64 n) s.here.pc)
              ∧ (n < s.here.shlim.toNat → s.shapeOk bs = false → Traps (.evRouting w) s 0x0D (BitVec.ofNat 64 n) s.here.pc)
              ∧ (n < s.here.shlim.toNat → s.shapeOk bs = true → beyond → Traps (.evRouting w) s 0x0C (BitVec.ofNat 64 n) s.here.pc)
              ∧ (n < s.here.shlim.toNat → s.shapeOk bs = true → ¬ beyond → unright →
                  Traps (.evRouting w) s 0x0D (BitVec.ofNat 64 n) s.here.pc)))
          ∧ (popsFormat i = true → valueFault i w (s.here.reg (frozenRegs i).1) (s.here.reg (frozenRegs i).2) = none →
            (s.here.fmtq = [] → Traps (.evRouting w) s 0x13 0 s.here.pc)
            ∧ (∀ f l, s.here.fmtq = f :: l → s.formatOk i f = false → Traps (.evRouting w) s 0x01 f s.here.pc))))

/-! ## What an engine's work does on its tick -/

/-- R116, R117, R140, R144, R188, R196, R290, R314, R326: a write of an engine performs on its tick: the bytes of tile memory, the lanes of vector and
matrix registers, the bits of a predicate, the entries and scales of the inactive plane, a unit of the batt, a codebook, or the sticky status it
names, and nothing else of any store. A batt unit or a codebook that a decode uses is fault 0x15 or 0x19 instead. A clear of a sticky status takes
with it what is merged on its tick. What the base of a phase has recorded (R231) changes only by an instance of an earlier phase.
R137, R140, R150, R337, R344 to R346: a write of the store engine performs at its target. Bytes, or the nibbles that a mask names, of global memory
under the key of the world; an addition to 4 bytes, or a signal's to 8, as one; the bytes of the cluster store; and what goes to another package
leaves as a message, a signal with the writes of its rope that it releases: those that have left for that package, of its class, issued before it.
No core changes but in its port counts.
R236: a known-answer test that does not agree logs an error of kind 6, drives ALERT_N low, fences the core, and is fault 0x28 with both numbers. -/
def Obligations.EngineWritesPerform : Prop :=
  (∀ (s : State) (core tick : Nat) (old : Core) (f : Flight) (t : State), t = s.perform core tick old f →
      let is (g : Core → Core) : Prop :=
        t.core core = { g (s.core core) with ports := (t.core core).ports, wrote := (t.core core).wrote, restart := (t.core core).restart }
        ∧ (∀ c, c ≠ core → t.core c = s.core c) ∧ SameMem s t
      let written (c : Core) (is : List Nat) : List (Nat × Word) := c.opens.filter fun e => !is.contains e.1
      let faults (code value : Nat) : Prop := ∃ p, (t.core core).pending = (s.core core).pending ++ [p] ∧ p.code = code
        ∧ p.value = BitVec.ofNat 64 value ∧ p.tick = tick ∧ p.source = f.job.q + 1
      let decoding : Prop := (s.core core).carder.busy = true ∧ (s.core core).carder.issued < tick ∧ tick ≤ (s.core core).carder.issued + 263
      (((s.core core).restart = none → (t.core core).restart = none)
        ∧ ∀ x, (s.core core).restart = some x → x.base ≤ f.job.t → (t.core core).restart = some x)
      ∧ (∀ bs, f.effect = .tile bs → is fun c => { c with tile := writeAllZ c.tile bs })
      ∧ (∀ lanes, f.effect = .vrf lanes → is fun c => { c with vrf := writeAllZ c.vrf lanes, opens := written c (lanes.map (·.1)) })
      ∧ (∀ p (hp : p < 16) m b, f.effect = .pred p m b → is fun c =>
          { c with preds := if p = 0 then c.preds else c.preds.set p ((c.preds[p] &&& ~~~m) ||| (b &&& m)),
                   opens := written c (((List.range 64).filter m.getLsbD).map (49152 + 64 * p + ·)) })
      ∧ (∀ st, f.effect = .vflags st → is fun c => { c with vstatus := c.vstatus.merge st })
      ∧ (∀ lanes bank st, f.effect = .mrf lanes bank st → is fun c =>
          { c with mrf := writeAllZ c.mrf lanes, mstatus := alter c.mstatus bank (·.merge st), opens := written c (lanes.map (16384 + ·.1)) })
      ∧ (∀ es, f.effect = .plane es → is fun c =>
          { c with planes := if c.active then (writeAllZ c.planes.1 es, c.planes.2) else (c.planes.1, writeAllZ c.planes.2 es) })
      ∧ (∀ bs, f.effect = .scales bs → is fun c =>
          { c with planeScales := if c.active then (writeAllZ c.planeScales.1 (cellsAt 0 bs), c.planeScales.2)
                                  else (c.planeScales.1, writeAllZ c.planeScales.2 (cellsAt 0 bs)) })
      ∧ (∀ unit bs, f.effect = .batt unit bs →
          let used : Prop := decoding ∧ (s.core core).carder.unit ≤ unit ∧ unit < (s.core core).decodeUnits.2
          (¬ used → is fun c => { c with batt := writeAllZ c.batt (cellsAt (256 * unit) bs) })
          ∧ (used → faults 0x15 unit ∧ (t.core core).batt = (s.core core).batt))
      ∧ (∀ slot bs, f.effect = .codebook slot bs →
          let freq := (List.range 256).map fun i => (bs.getD (2 * i) 0).toNat + (bs.getD (2 * i + 1) 0).toNat * 256
          (¬ (decoding ∧ (s.core core).carder.slot = slot) → bs.length = 512 → is fun c =>
            { c with codebooks := alter c.codebooks slot fun _ => { loaded := true, freq := freq, sum := freq.sum } })
          ∧ (decoding → (s.core core).carder.slot = slot → faults 0x19 slot ∧ (t.core core).codebooks = (s.core core).codebooks))
      ∧ (∀ found, f.effect = .kat found found → is fun c => { c with katc := c.katc + 1 })
      ∧ (∀ bank g lanes st, f.effect = .mrfClear bank → f ∈ (s.core core).flights → f.tick = tick → g ∈ (s.core core).flights → g.tick = tick →
          g.effect = .mrf lanes bank st → g.id ≠ f.id → f.bad = false → f.late = false → g.bad = false → g.late = false →
          (∀ x ∈ (s.core core).flights, x.tick = tick → x = f ∨ x = g) → (∀ x ∈ (s.core core).queues, x.susp = none) →
          bank < (s.core core).mstatus.length → (s.core core).flights.Nodup →
          ((s.performDue core tick).core core).mstatus[bank]? = some .none
            ∧ ((s.performDue core tick).core core).mrf = writeAllZ (s.core core).mrf lanes))
  ∧ (∀ (s : State) (core tick : Nat) (old : Core) (f : Flight) (t : State) (w : Nat), t = s.perform core tick old f → w = s.worldOf core →
      let word (x : State) (k : KeyTag) (a n : Nat) : Nat := ((List.range n).map fun i => (x.readByte k (a + i)).toNat * 2 ^ (8 * i)).sum
      let leaves (kind : PeerKind) (pa : Nat) (sig : Option (BitVec 16 × Nat)) : Prop := ∃ o, t.outgoing = s.outgoing ++ [o] ∧ o.kind = kind
        ∧ o.entry = pa / 2 ^ 36 % 256 ∧ o.offset = pa % 2 ^ 36 ∧ o.core = core ∧ o.cls = classOf f.job.entry.ins ∧ o.signal = sig
        ∧ o.issued = f.job.t + f.upc
        ∧ ∀ id, id ∈ o.after ↔ sig ≠ none ∧ ∃ x ∈ s.outgoing, x.id = id ∧ x.rope = (s.core core).rope ∧ x.rope ≠ none ∧ x.cls = o.cls ∧ x.signal = none
            ∧ s.peerPkg x.entry = s.peerPkg o.entry ∧ 0 < x.issued ∧ x.issued < o.issued ∧ ∀ n, x.kind ≠ .read n
      (∀ va pa du bytes, f.effect = .global va pa du bytes → pa / 2 ^ 44 ≠ 15 → (bytes.map (·.1)).Nodup →
        let k := s.keyFor w du
        t.cores = s.cores
        ∧ (∀ b ∈ bytes, t.readByte k (pa + b.1) = (if b.2.2 = 0xFF then b.2.1 else (s.readByte k (pa + b.1) &&& ~~~b.2.2) ||| (b.2.1 &&& b.2.2)))
        ∧ ∀ a, (∀ b ∈ bytes, pa + b.1 ≠ a) → (find s.keys (a / 64) = some k ∨ ∀ b ∈ bytes, (pa + b.1) / 64 ≠ a / 64) →
            ∀ j, t.readByte j a = s.readByte j a)
      ∧ (∀ va pa du bs, f.effect = .global va pa du (bs.mapIdx fun i b => (i, b, (0xFF : Byte))) → pa / 2 ^ 44 = 15 → bs ≠ [] → pa % 2 ^ 36 + bs.length ≤ 2 ^ 36 →
          t.cores = s.cores ∧ SameMem s t ∧ leaves (.write bs 0xFF) pa none)
      ∧ (∀ va pa du a v, f.effect = .reduce va pa du [(a, v)] →
          (a / 2 ^ 44 ≠ 15 → t.cores = s.cores ∧ word t (s.keyFor w du) a 4 = (word s (s.keyFor w du) a 4 + v.toNat) % 2 ^ 32
            ∧ SameMemBut s t (s.keyFor w du) a 4)
          ∧ (a / 2 ^ 44 = 15 → t.cores = s.cores ∧ SameMem s t ∧ leaves (.amo .add false (BitVec.ofNat 64 v.toNat) 0) a none))
      ∧ (∀ va pa du v n, f.effect = .signal va pa du v n →
          (pa / 2 ^ 44 ≠ 15 → t.cores = s.cores ∧ word t (s.keyFor w du) pa 8 = (word s (s.keyFor w du) pa 8 + v.toNat) % 2 ^ 64
            ∧ SameMemBut s t (s.keyFor w du) pa 8)
          ∧ (pa / 2 ^ 44 = 15 → t.cores = s.cores ∧ SameMem s t ∧ ∀ r, s.ropeOf core = some r → leaves (.amo .add true v 0) pa (some (r.alloc, n))))
      ∧ (∀ addr bs, f.effect = .cluster addr bs → SameMem s t
          ∧ t.core core = { s.core core with ports := (t.core core).ports } ∧ (∀ c, c ≠ core → t.core c = s.core c)
          ∧ ∀ a, readZ t.store a = if clusterOf core * 2 ^ 23 + addr ≤ a ∧ a < clusterOf core * 2 ^ 23 + addr + bs.length
              then bs.getD (a - (clusterOf core * 2 ^ 23 + addr)) 0 else readZ s.store a))
  ∧ (∀ (s : State) (core tick : Nat) (old : Core) (f : Flight) (found carried : BitVec 32), f.effect = .kat found carried →
      found ≠ carried →
      let t := s.perform core tick old f
      (t.core core).fenced = true ∧ t.alert = true ∧ (∃ r, t.errors = s.errors ++ [r] ∧ r.kind = 6 ∧ r.core = core ∧ r.gtc = s.gtc)
        ∧ ∃ p, (t.core core).pending = (s.core core).pending ++ [p] ∧ p.code = 0x28
            ∧ p.value = BitVec.ofNat 64 (found.toNat + carried.toNat * 2 ^ 32))

/-- R144, R378: an engine's read takes its value against the writes of others at one instant between its issue and its perform tick; the agenda says
when. Its bytes are then those that stand at the places that its checks found, but what its own rope has written since the issue it never sees;
where they go, and all else, is as before. That the bytes are taken again at each such instant, and that the last one counts, is the model's choice
(log 28). -/
def Obligations.ReadsTakeTheirValue : Prop :=
  ∀ (s u : State) (core id : Nat) (rest : List Actor) (f : Flight), s.agenda = .sample core id :: rest → s.powered = true → s.started = true →
    u = { s with agenda := rest, free := s.free + 65536 } → (s.core core).flights.find? (fun x => x.id == id) = some f →
    ∃ e, step s = .next (u.onCore core fun c => { c with flights := c.flights.map fun x => if x.id = id then { x with effect := e } else x })
      ∧ ((∀ x ∈ f.placed, ∀ i < x.1.1.2, u.ownSince core f (x.2.pa + i) = true) → e = f.effect)
      ∧ (∀ cells, f.effect = .tile cells → ∃ cells', e = .tile cells' ∧ cells'.map (·.1) = cells.map (·.1))
      ∧ (∀ va n p, f.reads.2 = [((va, n), 0, 0)] → f.spots = [p] → p.medium ≠ .peer → (∀ i < n, u.isOpen core (p.pa + i) = false) →
          let own (i : Nat) : Bool := u.ownSince core f (p.pa + i)
          let now (i : Nat) : Byte := u.readByte (u.keyFor (u.worldOf core) p.durable) (p.pa + i)
          (∀ cells, f.effect = .tile cells → ∃ cells', e = .tile cells' ∧ ∀ i : Nat, cells'[i]? = cells[i]?.map fun c =>
              (c.1, if i < n ∧ own i = false then now i else c.2))
          ∧ (∀ w, f.effect = .index w → n = 8 → (∀ i < 8, own i = false) →
              ∃ v : Word, e = .index v ∧ ∀ i < 8, v.toNat / 2 ^ (8 * i) % 256 = (now i).toNat))

/-! ## Events of a rope -/

/-- R22, R23, R96, R119: the events that raise holds. That an idle, frozen or thawing strict rope is marked and raises no hold is log 68, and how long a
stretch counts is log 19. A clock stretch of a ridge marks every strict rope there with a breach, and raises a hold of one
tick in every one that runs and is not frozen; a refresh of a VRF bank raises one of one tick where the core accesses the bank on that tick, and
none elsewhere.
R13, R14, R90, R214, R337, R339: late data of an engine access moves as the slots in force of its pseudo-channels allow, four units of 64 bytes a slot,
each slot for its holder alone; once all of it has moved the access waits for it no longer. Before its tick units of an access may go through the same
slots; data of an elastic rope whose tick has come with units still to move is late. Data that another package still owes has not
arrived, nor has any while the rope is frozen. The walks of an `l.pref` end with their pages in the TLBs, or in the fault of a read. -/
def Obligations.HoldEvents : Prop :=
  (∀ (s : State) (ridge : Nat) (k : RopeKey) (r : Rope), s.rope? k = some r →
      (∃ t, exec (.evClockStretch ridge) s = .next t ∧ { t with ropes := s.ropes } = s
        ∧ ((∃ c ∈ r.cores, clusterOf c = ridge) →
            (r.running ≠ none → r.freezing ≠ .frozen → (∀ n, r.freezing ≠ .thawing n) →
              t.rope? k = some { r with
                holds := r.holds ++ [{ core := r.origin, kind := .stretch, due := r.rtick + r.hdly, left := some 1, stall := false }],
                breach := r.breach || r.strict })
            ∧ (r.running = none ∨ r.freezing = .frozen ∨ (∃ n, r.freezing = .thawing n) → t.rope? k = some { r with breach := r.breach || r.strict }))
        ∧ ((∀ c ∈ r.cores, clusterOf c ≠ ridge) → t.rope? k = some r))
      ∧ (s.here.rope = some k →
          let bank := s.rtick s.cur.core % 128 / 16
          (s.rtick s.cur.core % 16 = 0 → (∃ v, (0, v) ∈ s.here.ports ∧ v / 32 = bank) →
            ∃ t, exec .evVrfRefresh s = .next t
              ∧ RopeIs s t k { r with holds := r.holds ++ [{ core := s.cur.core, kind := .refresh, due := s.rtick s.cur.core + r.hdly,
                                                             left := some 1, stall := true }] })
          ∧ (s.rtick s.cur.core % 16 ≠ 0 ∨ (∀ v, (0, v) ∈ s.here.ports → v / 32 ≠ bank) → exec .evVrfRefresh s = .next s)))
  ∧ (∀ (s : State) (core id : Nat) (f : Flight),
      let owed : Prop := ∃ o ∈ s.outgoing, o.core = core ∧ ∃ y, o.flight = some y ∧ y.1 = id
      let still : Prop := ∃ r, s.ropeOf core = some r ∧ (r.freezing = .frozen ∨ ∃ n, r.freezing = .thawing n)
      let who : Requester := match s.ropeOf core with
        | some r => if r.strict then .strict r.key else .best
        | none => .best
      let room : Nat → Prop := fun u =>
        let pc := channelOf (64 * u)
        let slot := s.gtc.toNat / 8 % 64
        slot < 63 ∧ (find s.moved pc).getD 0 < 4 ∧ (match find s.wheels (pc * 64 + slot) with
          | none => who = .best
          | some (.strict k) => who = .strict k
          | some (.scan w) => who = .scan w)
      ((∀ x ∈ (s.core core).flights, x.id = id → x.late = false) → exec (.evLateDataArrival core id) s = .next s)
      ∧ (f ∈ (s.core core).flights → f.id = id → f.late = true → (∀ x ∈ (s.core core).flights, x.id = id → x = f) →
          (owed ∨ still → exec (.evLateDataArrival core id) s = .next s)
          ∧ (¬ owed → ¬ still → f.effect ≠ .walk →
              ((∀ u ∈ s.hbmUnits f, u ∈ f.served) →
                ∃ t, exec (.evLateDataArrival core id) s = .next t
                  ∧ t.core core = { s.core core with flights := (s.core core).flights.map fun x =>
                      if x.id = id then { x with late := false } else x }
                  ∧ (∀ c, c ≠ core → t.core c = s.core c) ∧ SameMem s t ∧ t.moved = s.moved)
              ∧ (∀ u, u ∉ f.served → s.hbmUnits f = [u] →
                (room u → ∃ t, exec (.evLateDataArrival core id) s = .next t
                  ∧ (t.core core).flights = (s.core core).flights.map (fun x => if x.id = id then { x with late := false, served := x.served ++ [u] } else x)
                  ∧ (∀ pc, (find t.moved pc).getD 0 = (find s.moved pc).getD 0 + if pc = channelOf (64 * u) then 1 else 0))
                ∧ (¬ room u → ∃ t, exec (.evLateDataArrival core id) s = .next t ∧ (∀ c, t.core c = s.core c) ∧ t.moved = s.moved)))
          ∧ (¬ owed → ¬ still → f.effect = .walk → ∃ t, exec (.evLateDataArrival core id) s = .next t ∧ SameMem s t
              ∧ (t.core core).flights = (s.core core).flights.filter (fun x => x.id != id)
              ∧ (s.spotFault core f.job .read f.job.prefAccs = none ∨ (∃ v, s.spotFault core f.job .read f.job.prefAccs = some (0x0E, v)) →
                  (t.core core).pending = (s.core core).pending)
              ∧ ∀ code v, s.spotFault core f.job .read f.job.prefAccs = some (code, v) → code ≠ 0x0E →
                  ∃ p, (t.core core).pending = (s.core core).pending ++ [p] ∧ p.code = code ∧ p.value = v ∧ p.upc = 0 ∧ p.source = f.job.q + 1))
      ∧ ((s.core core).flights.find? (fun x => x.id = id) = some f → ∀ u, u ∉ f.served → s.hbmUnits f = [u] →
          (room u → ((s.serveEarly core id).core core).flights
              = (s.core core).flights.map (fun x => if x.id = id then { x with served := x.served ++ [u] } else x))
          ∧ (¬ room u → (s.serveEarly core id).core core = s.core core))
      ∧ (∀ tick u, (s.core core).flights = [f] → f.id = id → f.tick ≤ tick → f.late = false → f.bad = false → (s.core core).parked f = false →
          s.strict core = false → u ∉ f.served → s.hbmUnits f = [u] →
          (¬ room u → ((s.serveDue core tick).core core).flights = [{ f with late := true }])
          ∧ (room u → ((s.serveDue core tick).core core).flights = [{ f with served := f.served ++ [u] }])))

/-- R99, R100, R149: a barrier completes where every core of its domain has arrived, and in no other; of a level-4 domain those cores are members whose
`dom4` is valid. Its queues resume at the base that R100 gives; at level 4 they have no base until their next `y.align`, and the event does nothing
before the package has arrived, or while a proxy absence token of another package stands (R106).
R100, R106, R205, R207: 2 s after the arrival of the package at a level-4 barrier, every core of the rope that waits there takes fault 0x30, whose
value is the partition that `dom4` names; before that the event does nothing, nor while a proxy absence token of some package stands. A token's
withdrawal starts the time from zero. -/
def Obligations.Barriers : Prop :=
  (∀ (s : State) (k : RopeKey) (r : Rope) (level : Nat), s.rope? k = some r → r.cores.Nodup → level ∈ [1, 2, 3, 4] →
      let valid (c : Nat) : Prop := level = 4 → (s.core c).dom4.getLsbD 63 = true
      let shares (c m : Nat) : Prop := (level = 1 → m = c) ∧ (level = 2 → clusterOf m = clusterOf c) ∧ valid m
      (level = 4 → r.barrier4 = none ∨ r.absence.1 ≠ [] → exec (.evBarrierCompletion k level) s = .next s)
      ∧ ((level = 4 → r.barrier4 ≠ none ∧ r.absence.1 = []) →
        ∃ t, exec (.evBarrierCompletion k level) s = .next t ∧ SameMem s t ∧ (∀ c, c ∉ r.cores → t.core c = s.core c)
          ∧ (level = 4 → t.rope? k = some { r with barrier4 := none })
          ∧ (∀ c ∈ r.cores, (¬ valid c ∨ ∃ m ∈ r.cores, shares c m ∧ s.arrived m level = false) → t.core c = s.core c)
          ∧ (∀ c ∈ r.cores, valid c → (∀ m ∈ r.cores, shares c m → s.arrived m level = true) →
              ∀ e mask a, (s.core c).barrier level = some (e, mask, a) →
              (∀ q x, (s.core c).queues[q]? = some x → q < 4 → mask.getLsbD (3 - q) = true →
                (t.core c).queues[q]? = some { x with
                  entries := x.entries.filter (fun y => y.seq ≠ e.seq), wait := .none, issued := x.issued ++ [e], lagging := false,
                  nextT := if level = 1 then r.rtick + 2 else if level = 4 then r.rtick else r.rtick + r.hdly,
                  base := if level = 4 then none else some (if level = 1 then r.rtick + 2 else r.rtick + r.hdly) })
              ∧ (∀ q, 4 ≤ q ∨ mask.getLsbD (3 - q) = false → (t.core c).queues[q]? = (s.core c).queues[q]?)
              ∧ { t.core c with queues := (s.core c).queues, bars := (s.core c).bars } = s.core c)))
  ∧ (∀ (s : State) (r : Rope) (g : Nat) (again : Bool), s.rope? s.cur.rope = some r → r.cores.Nodup → r.running ≠ none → r.barrier4 = some (g, again) →
      (s.gtc.toNat < g + 2 * 1900000000 ∨ r.absence.1 ≠ [] → exec .evBarrierTimeout s = .next s)
      ∧ (g + 2 * 1900000000 ≤ s.gtc.toNat → r.absence.1 = [] → ∃ t, exec .evBarrierTimeout s = .next t ∧ SameMem s t
          ∧ (∀ c, c ∉ r.cores ∨ (s.core c).barrier 4 = none → t.core c = s.core c)
          ∧ (∀ c ∈ r.cores, ∀ e mask a q x, (s.core c).barrier 4 = some (e, mask, a) → (s.core c).run ≠ 0 →
              (maskQueues mask).head? = some q → (s.core c).queues[q]? = some x → x.susp = none →
              ∃ f, (t.core c).pending = (s.core c).pending ++ [f] ∧ f.code = 0x30 ∧ f.sub = 0 ∧ f.source = q + 1 ∧ f.tick = r.rtick
                ∧ f.slot = e.slot ∧ f.value = BitVec.ofNat 64 ((s.core c).dom4.toNat / 2 ^ 32 % 2 ^ 16)))
      ∧ ∀ pkg, (∃ r', (s.absence r.key pkg true).rope? r.key = some r' ∧ (∀ p, p ∈ r'.absence.1 ↔ p ∈ r.absence.1 ∨ p = pkg)
            ∧ { r' with absence := r.absence } = r)
          ∧ (pkg ∉ r.absence.1 → (s.absence r.key pkg false).rope? r.key = some r)
          ∧ (pkg ∈ r.absence.1 → ∃ r', (s.absence r.key pkg false).rope? r.key = some r' ∧ (∀ p, p ∈ r'.absence.1 ↔ p ∈ r.absence.1 ∧ p ≠ pkg)
              ∧ r'.absence.2 = r.absence.2 ∧ { r' with absence := r.absence } = { r with barrier4 := some (s.gtc.toNat, again) }))

/-- R53, R61, R86, R87, R99, R202: ROW_LOAD starts every core of a free row with the next launch of its rope: the image's code, `s1` with the argument, `s2`
with the image's address, every other register 0, control at the block's entry at level 1, or 2 where the image says so, its counters at 0; a core
whose last stream had another tag holds nothing of it; the stall ticks of a launch that leaves the row stay with it, and the rope's record
shows the new start. A row that is not free, or has been loaded, stays.
R47, R57, R86, R101, R102, R104, R213: once every core of a launch has halted, the launch ends: its command answers with status 0 at this time,
with `holdc` and the summed `stallc` of the launch in its result, of the cores that a next launch has not taken and of those it has; the cores
stand idle, an eviction in progress ends with status 2, and a sealed rope with no next launch is frozen, with no state of its cores whole. While a core
runs on, nothing happens. -/
def Obligations.Launches : Prop :=
  (∀ (s : State) (k : RopeKey) (row : Nat) (r : Rope) (l : Launch) (img : Image), s.rope? k = some r → r.next = some l →
      find (s.iface k.world).images l.handle = some img → (r.row row).Nodup →
      (r.loads = false ∨ row ∈ l.rows ∨ s.holdsFenced r = true ∨ (∃ c ∈ r.row row, (s.core c).halted = false ∧ (s.core c).run ≠ 0) →
        exec (.evRowLoad k row) s = .next s)
      ∧ (r.loads = true → row < r.height → row ∉ l.rows → s.holdsFenced r = false → (∀ c ∈ r.row row, (s.core c).halted = true ∨ (s.core c).run = 0) →
        ∃ t, exec (.evRowLoad k row) s = .next t ∧ SameMem s t
          ∧ (∃ r', t.rope? k = some r' ∧ (l.rows = [] → r'.lastStart = s.gtc ∧ r'.lastEnd = 0)
              ∧ (l.rows ≠ [] → r'.lastStart = r.lastStart ∧ r'.lastEnd = r.lastEnd) ∧ r'.last = l.id
              ∧ (∀ m, r.running = some m → (∀ c ∈ r.row row, (s.core c).run = m.id) →
                  r'.running = some { m with stalls := m.stalls + ((r.row row).map fun c => (s.core c).stallc.toNat).sum }))
          ∧ (∀ c, c ∉ r.row row → t.core c = s.core c)
          ∧ ∀ c ∈ r.row row, let x := t.core c; let b := coreBlock img.bytes (r.localOf c)
            x.run = l.id ∧ x.halted = false ∧ x.tag = some (k.world, s.gen k.world) ∧ x.reg 1 = l.arg ∧ x.reg 2 = BitVec.ofNat 64 img.va
            ∧ (∀ g : Reg, g ≠ 1 → g ≠ 2 → x.reg g = 0) ∧ (∀ g : BitVec 3, x.breg g = 0) ∧ x.pc = BitVec.ofNat 64 b.entry ∧ x.tvec = BitVec.ofNat 64 b.tvec
            ∧ x.level = (if field img.bytes 6 1 / 4 % 2 = 1 then 2 else 1) ∧ x.handler = false ∧ x.holdc = 0 ∧ x.stallc = 0
            ∧ x.scom = scomOf (field img.bytes 16 8) ∧ x.shlim = 0 ∧ x.queues = List.replicate 4 .empty ∧ x.flights = []
            ∧ (∀ p < 16, x.preds[p]? = some 0)
            ∧ (∀ a, a < b.len → ∀ v, ((img.bytes.drop b.off).take b.len)[a]? = some v → readZ x.im a = v)
            ∧ ((s.core c).tag ≠ some (k.world, s.gen k.world) → x.tile = [] ∧ x.vrf = [] ∧ x.mrf = [] ∧ x.spill = [])
            ∧ ((s.core c).tag = some (k.world, s.gen k.world) → x.tile = (s.core c).tile ∧ x.vrf = (s.core c).vrf ∧ x.mrf = (s.core c).mrf)))
  ∧ (∀ (s : State) (r : Rope) (l : Launch), s.rope? s.cur.rope = some r → r.running = some l →
      let mine := r.cores.filter fun c => (s.core c).run == l.id
      ((∃ c ∈ r.cores, (s.core c).run = l.id ∧ (s.core c).halted = false) → exec .evHaltAndTree s = .next s)
      ∧ (l.failed = false → (∀ c ∈ r.cores, (s.core c).run ≠ l.id ∨ (s.core c).halted = true) →
        ∃ t r', exec .evHaltAndTree s = .next t ∧ t.rope? s.cur.rope = some r' ∧ r'.running = none ∧ r'.evict = none
          ∧ r'.lastEnd = (if r.last = l.id then s.gtc else r.lastEnd)
          ∧ (∀ z, r.freezing = .sealed z → r.incoming = none → r'.freezing = .frozen ∧ r'.captured = r.rtick
              ∧ ∀ c ∈ r.cores, (t.core c).segments = 0 ∧ (t.core c).scanTicks = [])
          ∧ ((∀ z, r.freezing ≠ .sealed z) ∨ r.incoming ≠ none → r'.freezing = r.freezing ∧ r'.captured = r.captured
              ∧ ∀ c ∈ r.cores, (s.core c).run ≠ l.id → t.core c = s.core c)
          ∧ (∀ c ∈ r.cores, (s.core c).run = l.id →
              (t.core c).run = 0 ∧ (t.core c).halted = true ∧ (t.core c).flights = [] ∧ (t.core c).accesses = []
              ∧ (t.core c).s = (s.core c).s ∧ (t.core c).tile = (s.core c).tile)
          ∧ (∀ c, c ∉ r.cores → t.core c = s.core c)
          ∧ (∀ k a, t.readByte k a = (s.finishLaunch r (s.tally r l) false).readByte k a)
          ∧ (l.adopted = false → ∃ x ∈ (t.iface l.cmd.iface).replies, x.cmd = l.cmd ∧ x.status = 0 ∧ x.fin = s.gtc
              ∧ x.result % 2 ^ 128 = (match mine.head? with | some c => (s.core c).holdc.toNat | none => l.holds.toNat)
                  + (l.stalls + (mine.map fun c => (s.core c).stallc.toNat).sum) % 2 ^ 64 * 2 ^ 64)
          ∧ (∀ e, r.evict = some e → ∃ x ∈ (t.iface e.cmd.iface).replies, x.cmd = e.cmd ∧ x.status = 2 ∧ x.fin = s.gtc)))

/-! ## Interfaces -/

/-- R34, R37, R38, R40 to R43, R379: the doorbells. A write of anyone but the bound endpoint, of another word, or out of range is dropped and counted.
A new `cwp` more than 1,024 ahead laps the ring, an old one does nothing, and any other lets the ring consume; while the ring is lapped only
a RESYNC right behind `cwp` counts. A slot is consumed, waited for, or laps the ring, by its sequence. A waiting ring looks again. That a write which laps
the ring sets `cwp` to its value and ends waiting, and what a RESYNC does while a CLOSE is under way, is log 52. -/
def Obligations.Doorbells : Prop :=
  (∀ (s : State) (d : Doorbell), let n := d.iface; let i := s.iface n; let v := d.value.toNat
    let counted : State := s.setIface n { i with dropped := min 0xFFFF (i.dropped + 1) }
    exec (.evDoorbellOtherWrite d) s = .next counted
    ∧ (i.bound ≠ some (d.endpoint, d.sa) → exec (.evCwpWrite d) s = .next counted ∧ exec (.evSrpWrite d) s = .next counted)
    ∧ (i.bound = some (d.endpoint, d.sa) →
        (i.srp ≤ v → v ≤ i.swp → exec (.evSrpWrite d) s = .next (s.setIface n { i with srp := v }))
        ∧ (v < i.srp ∨ i.swp < v → exec (.evSrpWrite d) s = .next counted)
        ∧ (i.state ≠ .lapped → (v ≤ i.cwp → exec (.evCwpWrite d) s = .next s)
            ∧ (i.cwp < v → i.crp + 1024 < v →
                exec (.evCwpWrite d) s = .next (s.setIface n
                  { i with cwp := v, state := .lapped, lappedClosed := decide (i.state = .closed), waiting := false }))
            ∧ (i.cwp < v → v ≤ i.crp + 1024 → exec (.evCwpWrite d) s = .next ((s.setIface n { i with cwp := v }).consume n 1025)))
        ∧ (i.state = .lapped → ∀ slot, slot = i.slot ((v - 1) % 1024) →
            (v = 0 ∨ slotOp slot ≠ 0x0C ∨ slotSeq slot ≠ (v - 1) % 2 ^ 32 → exec (.evCwpWrite d) s = .next (s.setIface n { i with cwp := v }))
            ∧ (v ≠ 0 → slotOp slot = 0x0C → slotSeq slot = (v - 1) % 2 ^ 32 →
                exec (.evCwpWrite d) s = .next ((s.setIface n
                  { i with cwp := v, crp := v, waiting := false, state := if i.lappedClosed then .closed else .running }).accept
                    { iface := n, pos := v - 1, slot := slot, consumed := s.gtc })))))
  ∧ (∀ (s : State) (n fuel : Nat), let i := s.iface n; let q := slotSeq (i.slot (i.crp % 1024))
      (i.bound ≠ none → i.closing = none → i.state ≠ .lapped → i.crp < i.cwp →
        (q = i.crp % 2 ^ 32 → s.consume n (fuel + 1) =
          ((s.setIface n { i with crp := i.crp + 1, lastgood := BitVec.ofNat 32 i.crp, waiting := false }).accept
            { iface := n, pos := i.crp, slot := i.slot (i.crp % 1024), consumed := s.gtc }).consume n fuel)
        ∧ (q ≠ i.crp % 2 ^ 32 → q = (i.crp + (2 ^ 32 - 1024)) % 2 ^ 32 → s.consume n (fuel + 1) = s.setIface n { i with waiting := true })
        ∧ (q ≠ i.crp % 2 ^ 32 → q ≠ (i.crp + (2 ^ 32 - 1024)) % 2 ^ 32 → s.consume n (fuel + 1) =
            s.setIface n { i with state := .lapped, lappedClosed := decide (i.state = .closed), waiting := false }))
      ∧ (i.cwp ≤ i.crp → s.consume n fuel = s)
      ∧ (i.waiting = true → exec (.evSlotRecheck n) s = .next (s.consume n 1025))
      ∧ (i.waiting = false → exec (.evSlotRecheck n) s = .next s))

/-- R39, R47: the oldest response that waits is written into the slot at `swp` while the ring has room, and `swp` moves on; its fields are the
sequence and the opcode of the command, the status, the command's user word, both times and the result. The answer to a CLOSE that was
carried out initialises the ring again. A full ring keeps its responses.
R13, R34 to R37, R131, R135: a remote operation of anyone but the bound endpoint is dropped, counted and answered so. The bound endpoint reads
the words of the doorbell page and the bytes of both rings, writes ring bytes, and reads and writes the world's memory, once the slots in force have
room for what it moves in HBM; until then it waits, with the units that are left, and goes on with those (log 77). Where a check of the access fails, nothing is done and a
transport error is answered; that a read of poison is such a failure is log 25. -/
def Obligations.HostAccess : Prop :=
  (∀ (s : State) (n : Nat),
      ((s.iface n).replies = [] ∨ 1024 ≤ (s.iface n).swp - (s.iface n).srp → exec (.evResponseWrite n) s = .next s)
      ∧ (∀ x rest, (s.iface n).replies = x :: rest → (s.iface n).swp - (s.iface n).srp < 1024 →
          ∃ t slot, exec (.evResponseWrite n) s = .next t ∧ t = s.setIface n (t.iface n)
            ∧ (x.status < 256 → x.result < 2 ^ 256 →
                slotBits slot 0 32 = slotSeq x.cmd.slot ∧ slotBits slot 32 8 = slotOp x.cmd.slot ∧ slotBits slot 40 8 = x.status
                ∧ slotBits slot 64 64 = slotBits x.cmd.slot 64 64 ∧ slotBits slot 128 64 = x.start.toNat ∧ slotBits slot 192 64 = x.fin.toNat
                ∧ slotBits slot 256 256 = x.result)
            ∧ (slotOp x.cmd.slot ≠ 0x02 ∨ x.status ≠ 0 → t.iface n = { s.iface n with
                responses := insert (s.iface n).responses ((s.iface n).swp % 1024) slot, swp := (s.iface n).swp + 1, replies := rest })
            ∧ (slotOp x.cmd.slot = 0x02 → x.status = 0 →
                (t.iface n).cwp = 0 ∧ (t.iface n).crp = 0 ∧ (t.iface n).swp = 0 ∧ (t.iface n).srp = 0 ∧ (t.iface n).state = .closed
                ∧ (t.iface n).lastgood = 0xFFFFFFFF ∧ (t.iface n).bound = (s.iface n).bound
                ∧ find (t.iface n).responses ((s.iface n).swp % 1024) = some slot)))
  ∧ (∀ (s : State) (o : RemoteOp), let i := s.iface o.iface
      let op : Instr := .evRemoteOperation o
      let kept := s.requests.filter fun e => e.1 ≠ op
      let answers (u : State) (r : HostReply) : Prop := ∃ m, exec op s = .next { u with hostReplies := u.hostReplies ++ [r], moved := m, requests := kept }
      let answersHere (u : State) (r : HostReply) : Prop := exec op s = .next { u with hostReplies := u.hostReplies ++ [r] }
      let units (want : Want) (n : Nat) : List Nat := ((s.requests.find? fun e => e.1 = op).map (·.2)).getD (s.unitsFor o.iface o.addr n want)
      let waits (us : List Nat) : Prop := ∃ t, exec op s = .next t ∧ t = { s with moved := t.moved, requests := t.requests }
        ∧ ∃ left, left ≠ [] ∧ t.requests = kept ++ [(op, left)] ∧ ∀ u ∈ left, u ∈ us
      (i.bound ≠ some (o.endpoint, o.sa) → answers (s.setIface o.iface { i with dropped := min 0xFFFF (i.dropped + 1) }) (.dropped o.iface))
      ∧ (i.bound = some (o.endpoint, o.sa) →
          (o.window = true → o.write = false → ∃ bytes, answersHere s (.data o.iface bytes) ∧ bytes.length = o.len
            ∧ ∀ k < o.len, ∀ b, bytes[k]? = some b → ∀ a, a = o.addr + k →
              (a < 8 → b = BitVec.ofNat 8 (i.cwp / 2 ^ (8 * a))) ∧ (8 ≤ a → a < 16 → b = BitVec.ofNat 8 (i.crp / 2 ^ (8 * (a - 8))))
              ∧ (0x18 ≤ a → a < 0x20 → b = BitVec.ofNat 8 (i.swp / 2 ^ (8 * (a - 0x18))))
              ∧ (0x20 ≤ a → a < 0x28 → b = BitVec.ofNat 8 (i.srp / 2 ^ (8 * (a - 0x20)))) ∧ (0x28 ≤ a → a < 0x1000 → b = 0)
              ∧ (0x1000 ≤ a → a < 0x11000 → b = slotByte (i.slot ((a - 0x1000) / 64)) (a % 64))
              ∧ (0x11000 ≤ a → a < 0x21000 → b = slotByte (i.response ((a - 0x11000) / 64)) (a % 64)) ∧ (0x21000 ≤ a → b = 0))
          ∧ (o.window = true → o.write = true → 0x1000 ≤ o.addr → o.addr < 0x11000 → i.waiting = false → ∀ b, o.data = [b] →
              ∀ k, k = (o.addr - 0x1000) / 64 →
              answersHere (s.setIface o.iface { i with ring := insert i.ring k (setSlotByte (i.slot k) (o.addr % 64) b) }) (.done o.iface))
          ∧ (o.window = false → o.write = false →
              (s.rangeOk o.iface o.addr o.len .read = true → s.poisonedFor o.iface o.addr o.len = false →
                (Fits s (fun _ => .best) (units .read o.len) → answers s (.data o.iface (s.readFor o.iface o.addr o.len)))
                ∧ (¬ Fits s (fun _ => .best) (units .read o.len) → waits (units .read o.len)))
              ∧ (s.rangeOk o.iface o.addr o.len .read = false ∨ s.poisonedFor o.iface o.addr o.len = true → answers s (.transportError o.iface)))
          ∧ (o.window = false → o.write = true →
              (s.rangeOk o.iface o.addr o.data.length .write = true →
                (Fits s (fun _ => .best) (units .write o.data.length) → answers (s.writeFor o.iface o.addr o.data) (.done o.iface))
                ∧ (¬ Fits s (fun _ => .best) (units .write o.data.length) → waits (units .write o.data.length)))
              ∧ (s.rangeOk o.iface o.addr o.data.length .write = false → answers s (.transportError o.iface)))))

/-! ## Commands -/

/-- R44 to R49, R83, R84, R379: the life of a command. A consumed slot joins the list of its interface, and is answered at once when its opcode is
unknown (1), its interface is closed (3) or its fields are bad (2). Picked, it starts and takes effect, or waits for an earlier one on
its rope; with an unreadable wait entry it ends with 8. Not picked, it waits. Completing answers it once and returns its wheel slots. The units that a
command moves count on their pseudo-channels, each in the slot in force, and nothing else changes by it (R13; log 77). -/
def Obligations.CommandCourse : Prop :=
  (∀ (s : State) (c : Cmd), let i := s.iface c.iface
    let u := s.setIface c.iface { i with commands := i.commands ++ [{ cmd := c, started := false, start := 0, effect := false, waits := [], verdict := none,
                                                                       moving := none }] }
    (opcodeKnown c.iface (slotOp c.slot) = false → s.accept c = u.complete c 1 0)
    ∧ (opcodeKnown c.iface (slotOp c.slot) = true → slotOp c.slot ≠ 1 → i.isOpen = false → s.accept c = u.complete c 3 0)
    ∧ (opcodeKnown c.iface (slotOp c.slot) = true → (slotOp c.slot = 1 ∨ i.isOpen = true) →
        (slotOk c = false → s.accept c = u.complete c 2 0)
        ∧ (slotOk c = true → (cmdClass c ≠ 0 ∨ cmdStart c ≠ s.gtc.toNat) → s.accept c = u)
        ∧ (slotOk c = true → cmdClass c = 0 → cmdStart c = s.gtc.toNat →
            s.accept c = u.onPending c fun p => { p with verdict := some (u.slotVerdict c) })))
  ∧ (∀ (s : State) (c : Cmd) (status result : Nat), let t := s.complete c status result
      (∃ x, (t.iface c.iface).replies = (s.iface c.iface).replies ++ [x] ∧ x.cmd = c ∧ x.status = status ∧ x.result = result ∧ x.fin = s.gtc
        ∧ ∀ p, s.pending c = some p → p.started = true → x.start = p.start)
      ∧ (∀ p, p ∈ (t.iface c.iface).commands ↔ p ∈ (s.iface c.iface).commands ∧ p.cmd ≠ c)
      ∧ (∀ n, n ≠ c.iface → t.iface n = s.iface n) ∧ (∀ e ∈ t.scanSlots, e.1 ≠ c) ∧ SameMem s t ∧ t.cores = s.cores ∧ t.ropes = s.ropes)
  ∧ (∀ (s : State) (c : Cmd) (i : Instr) (p : Pending), cmdInstr c = some i → s.pending c = some p →
      (p.started = false → p.effect = false → (s.iface c.iface).closing = none →
        (s.overdue c = true → Ends i s c s 6 0)
        ∧ (s.overdue c = false → s.unreadable c = true → Ends i s c s 8 0)
        ∧ (s.overdue c = false → s.unreadable c = false → (∀ cls r, s.pick ≠ some (c, cls, r)) → exec i s = .next s)
        ∧ (s.overdue c = false → s.unreadable c = false → ∀ cls r, s.pick = some (c, cls, r) → ((s.setRotation cls r).markStarted c).heldBack c = true →
            exec i s = .next ((s.setRotation cls r).markStarted c)))
      ∧ ((s.iface c.iface).closing ≠ none → p.started = false → p.effect = false → exec i s = .next s)
      ∧ (p.started = true → p.effect = false → s.heldBack c = true → exec i s = .next s)
      ∧ (p.effect = true → p.waits ≠ [] → (∀ q ∈ p.waits, s.under q = false) → Ends i s c s 0 0)
      ∧ (p.effect = true → (p.waits = [] ∨ ∃ q ∈ p.waits, s.under q = true) → exec i s = .next s))
  ∧ (∀ (s : State) (c : Cmd) (q : Nat → Requester) (units : List Nat), Fits s q units → let t := Hauled s c q units
      { t with moved := s.moved, ifaces := s.ifaces } = s
        ∧ (∀ pc, (find t.moved pc).getD 0 = (find s.moved pc).getD 0 + (units.filter fun u => channelOf (64 * u) == pc).length)
        ∧ ∀ u ∈ units, s.serves (channelOf (64 * u)) (s.gtc.toNat / 8 % 64) (q (channelOf (64 * u))) = true ∧ (find t.moved (channelOf (64 * u))).getD 0 ≤ 4)

/-- R39, R45, R48 to R50, R56 to R58, R67, R69: sessions and events, with the fields of what QUERY and RESYNC report. That a ring lapped while closed stays so at
an OPEN is log 52; that address bits 63 to 48 draw BADARG on interface 0 is log 59; that an event word which cannot be read draws DENIED is log 25 and
log 50; that a delay above 255 ticks reads 255 is log 3; that RESYNC writes once the slots in force have room (R13) is log 77. -/
def Obligations.SessionCommands : Prop :=
  ∀ (s u : State) (c : Cmd), let n := c.iface; let i := u.iface n
    (Begins s c 0x01 u → i.isOpen = false → cmdP0 c % 65536 = 0 → cmdP1 c = 0 → (n = 0 → cmdP0 c < 2 ^ 48) → u.rangeOk n (cmdP0 c) 0x18000 .readWrite = true →
      Ends (.cmdOpen c) s c (u.setIface n { i with events := cmdP0 c, lappedClosed := false, state := if i.state = .lapped then .lapped else .running })
        0 (n + 1024 * 2 ^ 8 + 4096 * 2 ^ 32 + cmdP0 c * 2 ^ 64))
    ∧ (Begins s c 0x01 u → i.isOpen = false → cmdP0 c % 65536 = 0 → cmdP1 c = 0 → (n = 0 → cmdP0 c < 2 ^ 48) → u.rangeOk n (cmdP0 c) 0x18000 .readWrite = false →
      Ends (.cmdOpen c) s c u 8 0)
    ∧ (Begins s c 0x01 u → i.isOpen = false → cmdP0 c % 65536 ≠ 0 ∨ cmdP1 c ≠ 0 ∨ (n = 0 ∧ 2 ^ 48 ≤ cmdP0 c) → Ends (.cmdOpen c) s c u 2 0)
    ∧ (Begins s c 0x01 u → i.isOpen = true → Ends (.cmdOpen c) s c u 4 0)
    ∧ (Begins s c 0x02 u → cmdP0 c = 0 → cmdP1 c = 0 → (∀ p ∈ i.commands, p.cmd.iface = n) → ∃ t, exec (.cmdClose c) s = .next t
        ∧ (t.iface n).closing = some c ∧ (t.iface n).images = [] ∧ (∀ p ∈ (t.iface n).commands, p.cmd = c)
        ∧ (∀ p ∈ i.commands, p.cmd ≠ c → ∃ x ∈ (t.iface n).replies, x.cmd = p.cmd ∧ x.status = 9)
        ∧ (t.world n).gen = (u.world n).gen + 1 ∧ ∀ r ∈ t.ropes, r.key.world = n → r.running = none ∧ r.incoming = none ∧ r.queue = [] ∧ r.evicted = none)
    ∧ (Begins s c 0x09 u → Ends (.cmdEventWait c) s c u (if cmdP1 c = 0 then 0 else 2) 0)
    ∧ (Begins s c 0x0A u → cmdBits c 12 4 = 0 → cmdP0 c < 2 ^ 17 → ∀ old, u.eventWord n (cmdBits c 0 12) = some old →
        ∃ t, Ends (.cmdEventSet c) s c t 0 old.toNat
          ∧ u.eventOp n (cmdBits c 0 12) .readWrite (fun v => if cmdBits c 16 1 = 1 then v + BitVec.ofNat 64 (cmdP1 c) else BitVec.ofNat 64 (cmdP1 c)) = some (t, old))
    ∧ (Begins s c 0x0A u → cmdBits c 12 4 = 0 → cmdP0 c < 2 ^ 17 → u.eventWord n (cmdBits c 0 12) = none → Ends (.cmdEventSet c) s c u 8 0)
    ∧ (Begins s c 0x0B u → cmdP1 c = 0 → cmdBits c 8 8 = 0 → cmdP0 c < 2 ^ 28 →
        (cmdBits c 0 8 = 0 → cmdBits c 16 12 = 0 → Ends (.cmdQuery c) s c u 0 (u.summary n))
        ∧ (cmdBits c 0 8 = 1 → ∀ r, u.rope? { world := n, num := cmdBits c 16 12 } = some r → Ends (.cmdQuery c) s c u 0 r.record)
        ∧ (cmdBits c 0 8 = 2 → ∀ x, u.crossings[cmdBits c 16 12]? = some x → Ends (.cmdQuery c) s c u 0 x.word)
        ∧ (cmdBits c 0 8 = 3 → ∀ v, u.eventWord n (cmdBits c 16 12) = some v → Ends (.cmdQuery c) s c u 0 v.toNat)
        ∧ (cmdBits c 0 8 = 3 → u.eventWord n (cmdBits c 16 12) = none → Ends (.cmdQuery c) s c u 8 0)
        ∧ (3 < cmdBits c 0 8 → Ends (.cmdQuery c) s c u 2 0)
        ∧ (cmdBits c 0 8 = 1 → u.rope? { world := n, num := cmdBits c 16 12 } = none → Ends (.cmdQuery c) s c u 2 0)
        ∧ (cmdBits c 0 8 = 2 → u.crossings[cmdBits c 16 12]? = none → Ends (.cmdQuery c) s c u 2 0))
    ∧ (Acts s c 0x0C u → cmdP1 c = 0 → (n = 0 → cmdP0 c < 2 ^ 48) →
        let bytes := u.resyncBytes n
        let units := leftOf u c (u.unitsFor n (cmdP0 c) bytes.length .write)
        (u.rangeOk n (cmdP0 c) bytes.length .write = false → Ends (.cmdResync c) s c u 8 0)
        ∧ (u.rangeOk n (cmdP0 c) bytes.length .write = true →
          (Fits u (fun _ => .best) units → Ends (.cmdResync c) s c ((Hauled u c (fun _ => .best) units).writeFor n (cmdP0 c) bytes) 0 0)
          ∧ (¬ Fits u (fun _ => .best) units → StillMoves (.cmdResync c) s u c)))
    ∧ (let bits (x a k : Nat) : Nat := x / 2 ^ a % 2 ^ k
       let count (l : List Rope) : Nat := (l.filter fun r => r.key.world == n).length
       (n < 256 → i.events < 2 ^ 64 → count u.ropes < 2 ^ 16 → i.images.length < 2 ^ 16 → i.commands.length < 2 ^ 16 → i.dropped < 2 ^ 16 →
         (i.refusals < 2 ^ 16 → let x := u.summary n
          bits x 0 8 = n ∧ bits x 8 8 = (match i.state with | .closed => 0 | .running => 1 | .lapped => 2)
          ∧ (bits x 16 1 = 1 ↔ u.degraded = true) ∧ (bits x 17 1 = 1 ↔ ∃ r ∈ u.ropes, r.key.world = n ∧ r.breach = true) ∧ bits x 18 46 = 0
          ∧ bits x 64 64 = i.events ∧ bits x 128 16 = count u.ropes ∧ bits x 144 16 = i.images.length ∧ bits x 160 16 = i.commands.length
          ∧ bits x 176 16 = i.dropped ∧ bits x 192 16 = i.refusals ∧ x < 2 ^ 208)
         ∧ (i.crp < 2 ^ 64 → i.swp < 2 ^ 64 → let b := u.resyncBytes n
            field b 0 4 = 1 ∧ field b 4 4 = i.lastgood.toNat ∧ field b 8 8 = i.crp ∧ field b 16 8 = i.swp ∧ field b 24 2 = count u.ropes
            ∧ field b 26 2 = i.images.length ∧ field b 28 2 = i.commands.length ∧ field b 30 2 = i.dropped ∧ field b 32 32 = 0
            ∧ b.length = 64 + 32 * count u.ropes
            ∧ ∀ r ∈ u.ropes, r.key.world = n → r.record < 2 ^ 256 → ∃ k < count u.ropes, field b (64 + 32 * k) 32 = r.record))
       ∧ (∀ r : Rope, r.key.num < 2 ^ 16 → r.origin < 2 ^ 16 → r.width < 256 → r.height < 256 → r.queue.length < 2 ^ 16 → r.offset < 256 → r.slots < 256 →
           let x := r.record
           bits x 0 16 = r.key.num ∧ bits x 16 16 = r.origin ∧ bits x 32 8 = r.width ∧ bits x 40 8 = r.height ∧ bits x 48 8 = (if r.strict then 1 else 0)
           ∧ bits x 56 8 = (if r.running ≠ none ∨ r.incoming ≠ none then 1 else if r.evicted ≠ none then 2 else 0) ∧ bits x 64 16 = r.queue.length
           ∧ bits x 80 8 = r.offset ∧ bits x 88 8 = r.slots ∧ bits x 96 32 = (if r.breach then 1 else 0) ∧ bits x 128 64 = r.lastStart.toNat
           ∧ bits x 192 64 = r.lastEnd.toNat ∧ x < 2 ^ 256)
       ∧ ∀ x : Crossing, x.arch < 256 → x.pad < 256 → x.state < 4 →
           bits x.word 0 8 = x.arch ∧ bits x.word 8 8 = x.pad ∧ bits x.word 16 8 = min 255 x.measured ∧ bits x.word 24 6 = 0 ∧ bits x.word 30 2 = x.state
           ∧ x.word < 2 ^ 32)

/-- R45, R49, R84: commands that time starts or ends. As the slot of a Reserved command begins, or as it is consumed at that very tick, the dispatcher
keeps what it finds: 8 where a wait cannot be read, 6 where the waits are not met or its order is not reached, else 0. The first due one then
starts, or ends with what was found; one whose slot began before it was consumed ends with 6; before its start it waits. EVENT.WAIT ends
with 6 once its timeout has passed, and starts no more. That what is found as a slot begins is kept and acted on later is log 54.
R48, R54, R67, R69: the kill fence of an interface completes once no message of its world is on its way: the ropes of the world are then gone
and their cores free, CLOSE is answered, and after BIND or REVOKE the interface is initialised again under its new binding. Where interface 0 has been
closed meanwhile, which cancelled its command, the fence completes unanswered (log 58). -/
def Obligations.TimedCommands : Prop :=
  ((∀ (s : State) (n : Nat) (p : Pending), (∃ i, (n, i) ∈ s.ifaces ∧ p ∈ i.commands) →
      ∃ i q, (n, i) ∈ s.beginSlots.ifaces ∧ q ∈ i.commands ∧ q.cmd = p.cmd ∧ q.started = p.started
        ∧ (p.started = false → cmdClass p.cmd = 0 → cmdStart p.cmd = s.gtc.toNat →
            (s.unreadable p.cmd = true → q.verdict = some 8)
            ∧ (s.unreadable p.cmd = false → s.overdue p.cmd = false → s.waitsMet p.cmd = true → s.inOrder p.cmd = true → q.verdict = some 0)
            ∧ (s.unreadable p.cmd = false → s.overdue p.cmd = true ∨ s.waitsMet p.cmd = false ∨ s.inOrder p.cmd = false → q.verdict = some 6))
        ∧ (p.started = true ∨ cmdClass p.cmd ≠ 0 ∨ cmdStart p.cmd ≠ s.gtc.toNat → q = p))
    ∧ (∀ (s : State) (c : Cmd) (p : Pending), s.pending c = some p →
      (p.started = false → cmdClass c = 0 → (s.iface c.iface).closing = none →
        (s.gtc.toNat < cmdStart c → exec (.evReservedCommandStart c) s = .next s)
        ∧ (cmdStart c ≤ s.gtc.toNat → s.reservedDue.head? = some c →
            (p.verdict = none → Ends (.evReservedCommandStart c) s c s 6 0)
            ∧ (∀ v, p.verdict = some v → v ≠ 0 → Ends (.evReservedCommandStart c) s c s v 0)
            ∧ (p.verdict = some 0 → (s.markStarted c).heldBack c = true → exec (.evReservedCommandStart c) s = .next (s.markStarted c))
            ∧ (p.verdict = some 0 → (s.markStarted c).heldBack c = false → slotOp c.slot = 0x28 → cmdP0 c < 4 → cmdP1 c = 0 →
                Ends (.evReservedCommandStart c) s c { (s.markStarted c).onPending c (fun p => { p with effect := true }) with mode := cmdP0 c } 0 0)))
      ∧ (slotOp c.slot = 0x09 → cmdP0 c ≠ 0 →
          (c.consumed.toNat + cmdP0 c * 1900 ≤ s.gtc.toNat → s.startable c = false
            ∧ (p.started = false → Ends (.evEventWaitTimeout c) s c s 6 0
                ∧ (p.effect = false → (s.iface c.iface).closing = none → Ends (.cmdEventWait c) s c s 6 0)))
          ∧ (s.gtc.toNat < c.consumed.toNat + cmdP0 c * 1900 → exec (.evEventWaitTimeout c) s = .next s))))
  ∧ (∀ (s : State) (world : Nat) (c : Cmd), (s.iface world).closing = some c →
      ((∃ o ∈ s.outgoing, ∃ k, o.rope = some k ∧ k.world = world) → exec (.evKillFence world) s = .next s)
      ∧ ((∀ o ∈ s.outgoing, ∀ k, o.rope = some k → k.world ≠ world) → slotOp c.slot = 0x02 → s.pending c = none → exec (.evKillFence world) s = .next s)
      ∧ ((∀ o ∈ s.outgoing, ∀ k, o.rope = some k → k.world ≠ world) → slotOp c.slot ≠ 0x02 ∨ s.pending c ≠ none → ∃ t, exec (.evKillFence world) s = .next t
        ∧ (∀ r ∈ t.ropes, r ∈ s.ropes ∧ r.key.world ≠ world) ∧ (∀ r ∈ s.ropes, r.key.world ≠ world → r ∈ t.ropes)
        ∧ (∀ r ∈ s.ropes, r.key.world = world → ∀ x ∈ r.cores, (t.core x).rope = none ∧ (t.core x).run = 0)
        ∧ (∀ x, (∀ r ∈ s.ropes, r.key.world = world → x ∉ r.cores) → t.core x = s.core x)
        ∧ (s.pending c ≠ none → ∃ a ∈ (t.iface c.iface).replies, a.cmd = c ∧ a.status = 0 ∧ a.fin = s.gtc)
        ∧ (slotOp c.slot = 0x02 → (t.iface world).closing = some c)
        ∧ (slotOp c.slot ≠ 0x02 → c.iface ≠ world → (t.iface world).closing = none ∧ (t.iface world).state = .closed
            ∧ (t.iface world).cwp = 0 ∧ (t.iface world).crp = 0 ∧ (t.iface world).commands = []
            ∧ (slotOp c.slot ≠ 0x20 → (t.iface world).bound = (s.iface world).bound)
            ∧ (slotOp c.slot = 0x20 → (t.iface world).bound = if cmdBits c 8 1 = 1 then none
                else some (BitVec.ofNat 64 (cmdP1 c), BitVec.ofNat 16 (cmdBits c 16 16))))))

/-- R13, R35, R49, R51 to R53, R79 to R81, R152, R238: ropes and launches. ROPE.ALLOC takes the lowest number and the first origin that fits; ROPE.FREE gives
the cores back, at once or when the quiet second of R152 is over; LOAD keeps a copy under the lowest handle, once the slots in force have room for what it
reads (log 77); LAUNCH joins the queue. -/
def Obligations.RopeCommands : Prop :=
  ∀ (s u : State) (c : Cmd),
    (Begins s c 0x03 u → askOf c = none → Ends (.cmdRopeAlloc c) s c u 2 0)
    ∧ (Begins s c 0x03 u → ∀ a, askOf c = some a → (∀ o < 1024, u.fits a o = false) → Ends (.cmdRopeAlloc c) s c u 5 0)
    ∧ (Begins s c 0x03 u → ∀ a k o, askOf c = some a → k < 1024 → u.rope? { world := c.iface, num := k } = none →
        (∀ m < k, u.rope? { world := c.iface, num := m } ≠ none) → o < 1024 → u.fits a o = true → (∀ m < o, u.fits a m = false) →
        ∃ t r, Ends (.cmdRopeAlloc c) s c t 0 (k + o * 2 ^ 16 + r.hdly * 2 ^ 32 + r.offset * 2 ^ 48)
          ∧ t.ropes = u.ropes ++ [r] ∧ r.key = { world := c.iface, num := k } ∧ r.origin = o ∧ r.width = cmdBits c 0 8 ∧ r.height = cmdBits c 8 8
          ∧ r.running = none ∧ r.queue = [] ∧ (r.strict = true ↔ cmdBits c 16 1 = 1)
          ∧ (∀ x ∈ r.cores, (t.core x).rope = some r.key ∧ (t.core x).s = (u.core x).s ∧ (t.core x).tile = (u.core x).tile)
          ∧ (∀ x, x ∉ r.cores → t.core x = u.core x) ∧ SameMem u t)
    ∧ (∀ i : Instr, (i = .cmdRopeFree c ∧ Begins s c 0x04 u)
          ∨ (i = .evRopeFreeQuietExpiry { world := c.iface, num := cmdBits c 0 12 } ∧ u = s.onPending c (fun p => { p with effect := true })
              ∧ slotOp c.slot = 0x04 ∧ s.heldBack c = false ∧ ∃ p rest, (s.iface c.iface).commands = p :: rest ∧ p.cmd = c ∧ p.started = true ∧ p.effect = false) →
        cmdP0 c < 2 ^ 12 → cmdP1 c = 0 → ∀ r, u.rope? { world := c.iface, num := cmdBits c 0 12 } = some r →
        (r.busy = true → Ends i s c u 4 0)
        ∧ (r.busy = false → (r.peers = [] ∨ ((∀ o ∈ u.outgoing, o.rope = some r.key → o.signal = none) ∧ r.quiet.toNat + 1900000000 ≤ u.gtc.toNat)) →
            ∃ t, Ends i s c t 0 0 ∧ t.ropes = u.ropes.filter (fun x => x.key ≠ r.key)
              ∧ (∀ x ∈ r.cores, (t.core x).rope = none ∧ (t.core x).run = 0) ∧ (∀ x, x ∉ r.cores → t.core x = u.core x)
              ∧ t.replies.length = u.replies.length + r.peers.length ∧ SameMem u t))
    ∧ (Acts s c 0x05 u → cmdP0 c % 8 = 0 → cmdP1 c % 8 = 0 → cmdP1 c ≤ 2 ^ 26 → (c.iface = 0 → cmdP0 c < 2 ^ 48) → u.rangeOk c.iface (cmdP0 c) (cmdP1 c) .image = true →
        u.poisonedFor c.iface (cmdP0 c) (cmdP1 c) = false →
        let units := leftOf u c (u.unitsFor c.iface (cmdP0 c) (cmdP1 c) .image)
        let v := Hauled u c (fun _ => .best) units
        let img := u.readFor c.iface (cmdP0 c) (cmdP1 c)
        (¬ Fits u (fun _ => .best) units → StillMoves (.cmdLoad c) s u c)
        ∧ (Fits u (fun _ => .best) units → imageOk img = false → Ends (.cmdLoad c) s c v 2 0)
        ∧ (Fits u (fun _ => .best) units → imageOk img = true → ∀ k < 256, find (u.iface c.iface).images k = none → (∀ m < k, find (u.iface c.iface).images m ≠ none) →
            (u.iface c.iface).copies + copyLength img ≤ 2 ^ 28 →
            Ends (.cmdLoad c) s c (v.setIface c.iface { v.iface c.iface with
              images := insert (u.iface c.iface).images k { va := cmdP0 c, bytes := img, length := cmdP1 c, digest := sha384 img } }) 0 k))
    ∧ (Begins s c 0x06 u → cmdP0 c < 2 ^ 32 → ∀ r img, u.rope? { world := c.iface, num := cmdBits c 8 12 } = some r →
        find (u.iface c.iface).images (cmdBits c 0 8) = some img → imageFits img.bytes r = true → u.scanListOk img.bytes r = true →
        (u.holdsFenced r = true → Ends (.cmdLaunch c) s c u 5 0)
        ∧ (u.holdsFenced r = false → ∃ t l, exec (.cmdLaunch c) s = .next t ∧ t.rope? r.key = some { r with queue := r.queue ++ [l] }
            ∧ l.cmd = c ∧ l.handle = cmdBits c 0 8 ∧ l.event = cmdBits c 20 12 ∧ l.arg.toNat = cmdP1 c ∧ l.rows = [] ∧ l.failed = false
            ∧ (∀ k, k ≠ r.key → t.rope? k = u.rope? k) ∧ t.cores = u.cores ∧ t.ifaces = u.ifaces ∧ SameMem u t))

/-- R13, R49, R74 to R78: ATTEST writes the report of its world, which holds a header of 64 bytes, the measurement list and two signatures, and answers with its
length; MANIFEST.CMP answers with the first place at which the stored list and the live one differ, and 0xFFFF where they agree. Both go on once the slots in force have room for what they move (log 77). -/
def Obligations.Attestation : Prop :=
  (∀ (s u : State) (c : Cmd),
    (Acts s c 0x0D u → (c.iface = 0 → cmdP0 c < 2 ^ 48) → ∀ body sigs, body = u.reportBody c.iface (cmdP1 c) → sigs = (List.range 16608).map (Config.attestByte (sha384 body)) →
      ((∀ x ∈ u.entries c.iface, x.length = 64) → body.length = 64 + 64 * (u.entries c.iface).length)
      ∧ field body 0 4 = 0x54505441 ∧ field body 6 2 = (u.entries c.iface).length % 2 ^ 16 ∧ field body 8 8 = cmdP1 c ∧ field body 16 8 = u.gtc.toNat
      ∧ field body 25 3 = (u.gen c.iface).toNat
      ∧ (u.rangeOk c.iface (cmdP0 c) (body.length + 16608) .write = true →
          let units := leftOf u c (u.unitsFor c.iface (cmdP0 c) (body.length + 16608) .write)
          (Fits u (fun _ => .best) units →
            Ends (.cmdAttest c) s c ((Hauled u c (fun _ => .best) units).writeFor c.iface (cmdP0 c) (body ++ sigs)) 0 (body.length + 16608))
          ∧ (¬ Fits u (fun _ => .best) units → StillMoves (.cmdAttest c) s u c))
      ∧ (u.rangeOk c.iface (cmdP0 c) (body.length + 16608) .write = false → Ends (.cmdAttest c) s c u 8 0))
    ∧ (Acts s c 0x0E u → cmdP1 c = 0 → (c.iface = 0 → cmdP0 c < 2 ^ 48) → u.rangeOk c.iface (cmdP0 c) 16 .read = true → u.poison = [] → ∀ hd m, hd = u.readFor c.iface (cmdP0 c) 16 →
        m = field hd 6 2 → field hd 0 4 = 0x58535A4D → field hd 4 2 = 1 → field hd 8 8 = 0 →
        (u.rangeOk c.iface (cmdP0 c) (16 + 64 * m) .read = false → Ends (.cmdManifestCmp c) s c u 8 0)
        ∧ (u.rangeOk c.iface (cmdP0 c) (16 + 64 * m) .read = true →
          ∀ all units, all = u.readFor c.iface (cmdP0 c) (16 + 64 * m) → units = leftOf u c (u.unitsFor c.iface (cmdP0 c) (16 + 64 * m) .read) →
            (¬ Fits u (fun _ => .best) units → StillMoves (.cmdManifestCmp c) s u c)
            ∧ (Fits u (fun _ => .best) units → Ends (.cmdManifestCmp c) s c (Hauled u c (fun _ => .best) units) 0 (firstDiff ((List.range m).map fun k => (all.drop (16 + 64 * k)).take 64) (u.entries c.iface) 0)))))
  ∧ (∀ (as bs : List (List Byte)) (k : Nat), firstDiff as as 0 = 0xFFFF ∧ ((∀ j < k, as[j]? = bs[j]?) → as[k]? ≠ bs[k]? → firstDiff as bs 0 = k))

/-- R39, R54, R62, R67, R69, R73, R85, R102, R133 to R135, R155, R382: the commands of interface 0. Those that invalidate translations answer
once no request uses them: at once where none is under way; unmapping waits for the accesses that were translated under the old ASID. That BIND of the
binding in force answers OK and changes nothing, and that BIND and REVOKE wait while the interface closes, is log 58; that address bits 63 to 48 draw BADARG
on interface 0 is log 59. -/
def Obligations.ManagementCommands : Prop :=
  ∀ (s u : State) (c : Cmd), let n := cmdBits c 0 8; let i := u.iface n
    let calm : Prop := (∀ e ∈ u.cores, e.2.accesses = [] ∧ e.2.flights = []) ∧ u.outgoing = []
    let kept (t : State) (gone : TlbEntry → Prop) : Prop := (∀ e ∈ t.clusterTlb, ∀ x ∈ e.2, ¬ gone x) ∧ (∀ e ∈ t.cores, ∀ x ∈ e.2.tlb, ¬ gone x)
    (Begins s c 0x20 u → n ≠ 0 → cmdBits c 9 7 = 0 → cmdP0 c < 2 ^ 32 → (cmdBits c 8 1 = 1 → cmdP1 c = 0) → i.closing = none →
      ∀ b, b = (if cmdBits c 8 1 = 1 then none else some (BitVec.ofNat 64 (cmdP1 c), BitVec.ofNat 16 (cmdBits c 16 16))) →
      (i.bound = b → Ends (.cmdBind c) s c u 0 0)
      ∧ (i.bound = none → b ≠ none → ∃ t, Ends (.cmdBind c) s c t 0 0 ∧ (t.iface n).bound = b ∧ (t.iface n).state = .closed
          ∧ (t.iface n).cwp = 0 ∧ (t.iface n).crp = 0 ∧ ∀ m, m ≠ n → t.iface m = u.iface m)
      ∧ (i.bound ≠ none → i.bound ≠ b → ∃ t, exec (.cmdBind c) s = .next t ∧ (t.iface n).closing = some c ∧ (t.world n).gen = (u.world n).gen + 1))
    ∧ (Begins s c 0x21 u → cmdBits c 8 2 ≠ 0 → cmdBits c 10 6 = 0 → cmdP0 c < 2 ^ 24 → cmdP1 c = 0 →
        ∃ t, Ends (.cmdWeight c) s c t 0 0 ∧ t = u.setIface n { i with weights := (t.iface n).weights }
          ∧ (t.iface n).weights = (if cmdBits c 8 2 = 1 then cmdBits c 16 8 else i.weights.1, if cmdBits c 8 2 = 2 then cmdBits c 16 8 else i.weights.2.1,
              if cmdBits c 8 2 = 3 then cmdBits c 16 8 else i.weights.2.2))
    ∧ (Begins s c 0x22 u → n ≠ 0 → cmdP0 c < 2 ^ 8 → cmdP1 c = 0 → i.closing = none →
        ∃ t, exec (.cmdRevoke c) s = .next t ∧ (t.iface n).closing = some c ∧ (t.iface n).images = [] ∧ (t.world n).gen = (u.world n).gen + 1
          ∧ ∀ r ∈ t.ropes, r.key.world = n → r.running = none ∧ r.incoming = none ∧ r.queue = [] ∧ r.evicted = none)
    ∧ (Begins s c 0x23 u → cmdBits c 9 7 = 0 → cmdP0 c < 2 ^ 25 → cmdP1 c % 65536 = 0 → cmdP1 c < 2 ^ 48 → ∀ x, x = cmdBits c 16 9 →
        (∀ a, find u.asids x = some a → a.world ≠ n → Ends (.cmdAsidMap c) s c u 4 0)
        ∧ ((∀ a, find u.asids x = some a → a.world = n) → calm →
            ∃ t, Ends (.cmdAsidMap c) s c t 0 0 ∧ t.onChip n (cmdBits c 8 1 == 1) = some x ∧ find t.asids x = some { world := n, table := cmdP1 c }
              ∧ kept t (fun e => e.asid = x) ∧ SameMem u t))
    ∧ (Begins s c 0x23 u → cmdBits c 9 7 = 0 → cmdBits c 25 1 = 1 → cmdP0 c < 2 ^ 26 → cmdP1 c = 0 →
        (calm → ∃ t, Ends (.cmdAsidMap c) s c t 0 0 ∧ t.onChip n (cmdBits c 8 1 == 1) = none ∧ SameMem u t
            ∧ ∀ x, u.onChip n (cmdBits c 8 1 == 1) = some x → kept t (fun e => e.asid = x))
        ∧ (∀ x core a, u.onChip n (cmdBits c 8 1 == 1) = some x → (core, a) ∈ u.cores →
            ∀ y ∈ a.accesses, y.place.usesMemory = true → y.asid = some x → find u.cores core = some a →
            ∃ t p, exec (.cmdAsidMap c) s = .next t ∧ t.pending c = some p ∧ Request.access core y.id ∈ p.waits))
    ∧ (Begins s c 0x24 u → cmdBits c 9 7 = 0 → cmdP0 c < 2 ^ 25 → cmdP1 c = 0 → calm →
        ∃ t, Ends (.cmdInvalidate c) s c t 0 0 ∧ SameMem u t
          ∧ kept t (fun e => if cmdBits c 8 1 = 1 then e.asid = cmdBits c 16 9 else ∃ a, (e.asid, a) ∈ u.asids ∧ a.world = n)
          ∧ { t with clusterTlb := u.clusterTlb, cores := u.cores } = u)
    ∧ (Begins s c 0x25 u → cmdP0 c = 0 → cmdP1 c = 0 → Ends (.cmdRollback c) s c { u with rollback := max u.rollback (field u.firmware.header 7 1) } 0 0)
    ∧ (c.iface = 0 → 2 ^ 48 ≤ cmdP1 c → cmdP0 c < 2 ^ 8 →
        (Begins s c 0x26 u → Ends (.cmdDurableId c) s c u 2 0) ∧ (Begins s c 0x29 u → Ends (.cmdPeerSet c) s c u 2 0))
    ∧ (Begins s c 0x26 u → i.isOpen = true → cmdP0 c < 2 ^ 8 → cmdP1 c < 2 ^ 48 → Ends (.cmdDurableId c) s c u 4 0)
    ∧ (Begins s c 0x26 u → i.isOpen = false → cmdP0 c < 2 ^ 8 → cmdP1 c < 2 ^ 48 → u.rangeOk 0 (cmdP1 c) 16 .read = true → u.poison = [] →
        Ends (.cmdDurableId c) s c (u.setWorld n { u.world n with identity := some (leNat (u.readFor 0 (cmdP1 c) 16)) }) 0 0)
    ∧ (Begins s c 0x26 u → i.isOpen = false → cmdP0 c = 2 ^ 8 + n → cmdP1 c = 0 → ∀ id, (u.world n).identity = some id →
        ∃ t, Ends (.cmdDurableId c) s c t 0 0 ∧ (t.world n).identity = none ∧ t.durableGen id = (u.durableGen id + 1) % 2 ^ 24)
    ∧ (Begins s c 0x27 u → cmdP0 c % 4096 = 0 → cmdP0 c < 2 ^ 48 → u.medium (cmdP0 c) ∉ [.none, .peer] → cmdP1 c = 0 → calm →
        ∃ t, Ends (.cmdPoisonClear c) s c t 0 0 ∧ t.poison = u.poison.filter (fun g => g ≠ cmdP0 c / 4096) ∧ SameMem u t
          ∧ kept t (fun e => e.pa < cmdP0 c + 4096 ∧ cmdP0 c < e.pa + e.size))
    ∧ (Begins s c 0x28 u → cmdP0 c < 4 → cmdP1 c = 0 → Ends (.cmdMode c) s c { u with mode := cmdP0 c } 0 0)
    ∧ (Begins s c 0x29 u → cmdP0 c < 2 ^ 8 → cmdP1 c < 2 ^ 48 → u.rangeOk 0 (cmdP1 c) 32 .read = true → u.poison = [] →
        (peerOf (u.readFor 0 (cmdP1 c) 32) = none → Ends (.cmdPeerSet c) s c u 2 0)
        ∧ (∀ e, peerOf (u.readFor 0 (cmdP1 c) 32) = some e → calm →
            Ends (.cmdPeerSet c) s c { u with peers := insert u.peers (cmdP0 c) e } 0 0))

/-! ## Pre-emption and errors -/

/-- R13, R49, R83, R104, R105, R215, R225, R238: EVICT notes the eviction of a rope that runs once it has its scan slots, and stays pending; with nothing to
evict it ends with 2. RESUME of an evicted launch restores a sound image, from a yield or from a scan, once the image has moved through the slots in force
(log 77), and ends with 0; a rope with a fenced core ends it with 5, an unreadable header with 8, a bad header with 7 and code 0x21, and a bad digest with 7
and code 0x22. Without scan slots either waits. That RESUME with nothing evicted ends with 2, the 8 of an unreadable header, and the place of the code in
the result are log 57; which slots are converted is log 55.
R13, R104, R214, R225, R358: the yield point of a rope is passed once every core has retired its `y.yield` in all four queues. An eviction in progress takes
the rope there: once what has left its cores is dealt with and the slots in force have room (log 77), the image is written, EVICT answers 0 with the capture
tick, and the launch stands evicted. When the grace period, 200 µs where none is given, ends first, the frozen rope is scanned out whole, and bit 0 of the
answer says so; until then it waits (log 56). Rows that the next launch had been given are taken from it, and it waits again. -/
def Obligations.Preemption : Prop :=
  (∀ (s u : State) (c : Cmd) (r : Rope), u.rope? { world := c.iface, num := cmdBits c 0 12 } = some r → cmdP1 c % 256 = 0 →
      (c.iface = 0 → cmdP1 c < 2 ^ 48) →
      (Acts s c 0x07 u → cmdP0 c < 2 ^ 32 → cmdBits c 12 4 = 0 →
        (r.running = none → r.incoming = none → Ends (.cmdEvict c) s c u 2 0)
        ∧ (r.running ≠ none → ∀ v, u.convertSlots c c.iface (cmdP1 c) (u.fullImage r) .write = some v →
            ∃ t, exec (.cmdEvict c) s = .next t ∧ t.rope? r.key = some { r with evict := some { cmd := c, since := s.gtc, froze := false } }
              ∧ (∀ k, k ≠ r.key → t.rope? k = u.rope? k) ∧ t.ifaces = u.ifaces ∧ t.cores = u.cores ∧ SameMem u t))
      ∧ (Acts s c 0x08 u → cmdP0 c < 2 ^ 12 →
        (r.evicted = none → Ends (.cmdResume c) s c u 2 0)
        ∧ (∀ l, r.evicted = some l → u.holdsFenced r = true → Ends (.cmdResume c) s c u 5 0)
        ∧ (∀ l v, r.evicted = some l → u.holdsFenced r = false → u.convertSlots c c.iface (cmdP1 c) (u.imageAt c.iface (cmdP1 c)) .read = some v →
            let units := leftOf v c (v.unitsFor c.iface (cmdP1 c) (u.imageAt c.iface (cmdP1 c)) .read)
            let x := Hauled v c (v.scanner c.iface .best) units
            let hd := x.readFor c.iface (cmdP1 c) 256
            let img := x.readFor c.iface (cmdP1 c) (imageLen hd)
            let yield : Bool := field hd 14 1 / 4 % 2 == 1
            (¬ Fits v (v.scanner c.iface .best) units → StillMoves (.cmdResume c) s v c)
            ∧ (Fits v (v.scanner c.iface .best) units →
              (x.rangeOk c.iface (cmdP1 c) 256 .read = false → Ends (.cmdResume c) s c x 8 0)
              ∧ (x.rangeOk c.iface (cmdP1 c) 256 .read = true → x.poisonedFor c.iface (cmdP1 c) 256 = false →
                  x.rangeOk c.iface (cmdP1 c) (imageLen hd) .read = true →
                  (x.headerFails hd (if yield then 0x001 else 0x3FF) r.origin r.width r.height c.iface true ≠ none →
                    Ends (.cmdResume c) s c x 7 (0x21 * 2 ^ 128))
                  ∧ (x.headerFails hd (if yield then 0x001 else 0x3FF) r.origin r.width r.height c.iface true = none → (yield = true → field hd 12 2 = 1) →
                      x.poison = [] →
                      shiftFails img (if yield then 0x001 else 0x3FF) r.cores.length (fun _ _ => none) = none →
                      (img.drop (img.length - 48) ≠ sha384 ((img.drop 256).take (field hd 40 8)) →
                        Ends (.cmdResume c) s c (x.clearCores r.cores) 7 (0x22 * 2 ^ 128))
                      ∧ (img.drop (img.length - 48) = sha384 ((img.drop 256).take (field hd 40 8)) →
                        (yield = true → ∀ prog, find (x.iface c.iface).images l.handle = some prog →
                          Ends (.cmdResume c) s c ((x.resumeYield r l prog img).withdraw r.key) 0 0)
                        ∧ (yield = false → Ends (.cmdResume c) s c ((x.resumeScan r l img).withdraw r.key) 0 0)))))))
      ∧ (∀ k, cmdP0 c < 2 ^ 12 →
          (Acts s c 0x07 u ∧ r.running ≠ none ∧ u.convertSlots c c.iface (cmdP1 c) (u.fullImage r) .write = none ∧ k = Instr.cmdEvict c)
            ∨ (Acts s c 0x08 u ∧ r.evicted ≠ none ∧ u.holdsFenced r = false
                ∧ u.convertSlots c c.iface (cmdP1 c) (u.imageAt c.iface (cmdP1 c)) .read = none ∧ k = Instr.cmdResume c) →
          (∀ op, Begins s c op u → ∃ cls q, exec k s = .next ((s.setRotation cls q).markStarted c))
            ∧ (∀ p, s.pending c = some p → p.started = true → exec k s = .next s)))
  ∧ (∀ (s : State) (r : Rope) (k : RopeKey), k = s.cur.rope → s.rope? k = some r →
      let who (v : State) : Nat → Requester := v.scanner k.world .best
      let va (e : Evict) : Nat := slotBits e.cmd.slot 448 64
      let units (v : State) (e : Evict) (img : List Byte) : List Nat := leftOf v e.cmd (v.unitsFor k.world (va e) img.length .write)
      let goes (i : Instr) (v : State) (e : Evict) (img : List Byte) (x : Rope) (scanned : Nat) : Prop :=
        v.rangeOk k.world (va e) img.length .write = true →
        (Fits v (who v) (units v e img) →
          ∃ t r', exec i s = .next t ∧ t.rope? k = some r' ∧ r'.running = none ∧ r'.evicted = x.running ∧ r'.evict = none ∧ r'.incoming = none ∧ r'.freezing = .no
            ∧ r'.queue = (x.incoming.map fun l => { l with rows := [] }).toList ++ x.queue
            ∧ (∃ a ∈ (t.iface e.cmd.iface).replies, a.cmd = e.cmd ∧ a.status = 0 ∧ a.result = scanned + x.captured * 2 ^ 64)
            ∧ (∀ c ∈ x.cores, (t.core c).run = 0 ∧ (t.core c).flights = [] ∧ (t.core c).accesses = [])
            ∧ ∀ q a, t.readByte q a = (v.writeFor k.world (va e) img).readByte q a)
        ∧ (¬ Fits v (who v) (units v e img) → ∃ t left, exec i s = .next t ∧ left ≠ []
            ∧ t = { v with moved := t.moved }.onPending e.cmd fun p => { p with moving := some left, effect := true })
      (r.running = none ∨ (∃ c ∈ r.cores, ∃ n ∈ (s.core c).yields, n ≤ r.yields) → exec .evYieldPoint s = .next s)
      ∧ (r.running ≠ none → (∀ c ∈ r.cores, (s.core c).yields ≠ [] ∧ ∀ n ∈ (s.core c).yields, r.yields < n) →
          (r.evict = none → ∃ t, exec .evYieldPoint s = .next t ∧ RopeIs s t k { r with yields := r.yields + 1 })
          ∧ (∀ e w, r.evict = some e → w = s.settleCores r.cores →
              (w.stillOut r.cores = true → exec .evYieldPoint s = .next w)
              ∧ (w.stillOut r.cores = false → ∀ v x img, v = w.onRope k (fun y => { y with captured := r.rtick }) → v.rope? k = some x →
                  img = v.image r.origin r.width r.height 0x001 v.serial true (fun c => (v.core c).yieldPcs.getD r.yields (v.core c).pc) →
                  goes .evYieldPoint v e img x 0)))
      ∧ (∀ e, r.evict = some e → ∀ grace, grace = (if slotBits e.cmd.slot 400 16 = 0 then 200 else slotBits e.cmd.slot 400 16) * 1900 →
          (r.running = none ∨ s.gtc.toNat < e.since.toNat + grace → exec .evEvictGraceExpiry s = .next s)
          ∧ (r.running ≠ none → (∀ l, r.running = some l ∨ r.incoming = some l → l.failed = false) → (∀ x, r.cancel = some x → x.owed = none) →
              e.since.toNat + grace ≤ s.gtc.toNat → ∀ v x,
              v = (match r.freezing with
                | .frozen => s.settleCores r.cores
                | _ => (s.freezeNow k).onRope k fun y => { y with evict := some { e with froze := true } }) →
              v.rope? k = some x →
              (v.stillOut r.cores = true → exec .evEvictGraceExpiry s = .next v)
              ∧ (v.stillOut r.cores = false → ∀ img, img = v.image x.origin x.width x.height 0x3FF v.serial false (fun c => (v.core c).pc) →
                  goes .evEvictGraceExpiry v e img x 1))))

/-- R135, R228 to R235, R238: errors. The event always completes. A corrected error is logged and nothing else; one of global memory is logged and poisons
its granule, and the accesses that met it are to take fault 0x0E and perform nowhere; one of stores 1 to 6, met by an engine, cancels the phase of a running
rope, and the accesses that met it are gone; one of stores 7 to 10, or that an access of the control core met, ends the launch with 0x29, and one in a replay
ends it with 0x2A, which fences a core hit twice in one store. A cancelled phase that is not replayable ends the launch with 0x29. The replay puts every core
back at the base of the phase, running, with its restart state; a register that the attempt has not touched keeps its value, and one that it has reads as a
free value. When each of these takes its place in the tick is log 47, which registers count as touched is log 48, and what is suppressed of the accesses
that met an error is log 49. -/
def Obligations.Errors : Prop :=
  (∀ (s : State) (e : ErrorReport), (∃ t, exec (.evPhaseReplay e) s = .next t) ∧ (e.core < 1024 →
    (e.corrected = true → ∃ x, exec (.evPhaseReplay e) s = .next { s with errors := s.errors ++ [x] } ∧ x.kind = 1 ∧ x.store = e.store ∧ x.core = e.core
      ∧ x.addr = e.addr ∧ x.gtc = s.gtc ∧ x.world = s.worldOf e.core ∧ x.rtick = s.rtick e.core)
    ∧ (e.corrected = false → (e.store = 11 ∨ e.store = 12) → ∃ t x, exec (.evPhaseReplay e) s = .next t ∧ t.errors = s.errors ++ [x] ∧ x.kind = 5
        ∧ (∀ g, g ∈ t.poison ↔ g ∈ s.poison ∨ g = e.addr / 4096) ∧ { t with errors := s.errors, poison := s.poison, cores := s.cores } = s
        ∧ ∀ c, t.core c = { s.core c with
            accesses := (s.core c).accesses.map fun a => if a.id ∈ e.met then { a with bad := true } else a,
            flights := (s.core c).flights.map fun f => if f.id ∈ e.met ∧ f.effect.readsTarget = true then { f with bad := true } else f })
    ∧ (e.corrected = false → 1 ≤ e.store → e.store ≤ 10 →
        let x (kind : Nat) : ErrorRecord := { kind := kind, store := e.store, core := e.core, world := s.worldOf e.core, gtc := s.gtc, addr := e.addr,
                                              rtick := s.rtick e.core }
        let suppressed : Core := { s.core e.core with
          flights := (s.core e.core).flights.filter (fun f => f.id ∉ e.met), accesses := (s.core e.core).accesses.filter (fun a => a.id ∉ e.met),
          carder := { (s.core e.core).carder with
            dead := (s.core e.core).carder.dead || (s.core e.core).flights.any fun f => e.met.contains f.id && f.isCarder } }
        let left (c : Nat) : Core := if c = e.core then suppressed else s.core c
        (s.ropeOf e.core = none →
          exec (.evPhaseReplay e) s = .next { s.setCore e.core suppressed with errors := s.errors ++ [x 3], alert := true })
        ∧ ∀ r l, s.ropeOf e.core = some r → r.running = some l → l.id = (s.core e.core).run → r.incoming = none →
          let cancels (kind : Nat) (t : State) : Prop :=
            RopeIs { s.setCore e.core suppressed with errors := s.errors ++ [x kind], alert := s.alert || kind == 3 } t r.key
              { r with cancel := some { tick := s.rtick e.core, error := e, record := s.errors.length, passed := false, owed := none } }
          (e.store < 7 → e.control = false → r.replaying = false → r.cancel = none →
            ((∀ c ∈ r.cores, (s.core c).replayable = true ∧ (s.core c).restart ≠ none) → ∃ t, exec (.evPhaseReplay e) s = .next t ∧ cancels 2 t)
            ∧ ((∃ c ∈ r.cores, (s.core c).replayable = false ∨ (s.core c).restart = none) → ∃ t, exec (.evPhaseReplay e) s = .next t ∧ cancels 3 t))
          ∧ (e.store < 7 → e.control = false → r.replaying = false → r.cancel ≠ none →
              ∃ t, exec (.evPhaseReplay e) s = .next t ∧ t.ropes = s.ropes ∧ ∃ y, t.errors = s.errors ++ [y] ∧ (y.kind = 2 ∨ y.kind = 3))
          ∧ (∀ code kind, ((7 ≤ e.store ∨ e.control = true) ∧ code = 0x29 ∧ kind = 3)
                ∨ (e.store < 7 ∧ e.control = false ∧ r.replaying = true ∧ code = 0x2A ∧ kind = 4) →
              l.adopted = false → l.failed = false → r.cores.Nodup →
              (∀ c ∈ r.cores, (left c).accesses = [] ∧ (∀ f ∈ (left c).flights, f.effect.leavesCore = false) ∧ (left c).run = l.id
                ∧ asksFreeze (left c) = false ∧ ∀ o ∈ s.outgoing, o.core = c → o.flight ≠ none) →
              ∃ t r', exec (.evPhaseReplay e) s = .next t ∧ t.alert = true ∧ (∃ y, t.errors = s.errors ++ [y] ∧ y.kind = kind)
                ∧ t.rope? r.key = some r' ∧ r'.running = none
                ∧ (∃ a ∈ (t.iface l.cmd.iface).replies, a.cmd = l.cmd ∧ a.status = 7
                    ∧ a.result / 2 ^ 128 % 256 = (if l.faults = 0 then code else l.firstCode % 256))
                ∧ (code = 0x2A → r.lastError = some (e.store, e.core) → (t.core e.core).fenced = true)))))
  ∧ (∀ (s : State) (core : Nat) (a : Access) (o : Nat), (s.core core).accesses.find? (fun y => y.id == a.id) = some a →
      (s.core core).mayPerform a = true → a.bad = true → (∃ pa du, a.place = .global o pa du) →
      ∃ t f, exec (.evControlCoreAccessPerform core a.id) s = .next t ∧ SameMem s t
        ∧ t.core core = { s.core core with accesses := (s.core core).accesses.filter (fun y => y.id != a.id), pending := (s.core core).pending ++ [f] }
        ∧ f.code = 0x0E ∧ f.value = BitVec.ofNat 64 o ∧ f.tpc = some a.pc)
  ∧ (∀ (s : State) (r : Rope) (l : Launch) (z : Cancel), s.rope? r.key = some r → r.running = some l → r.incoming = none → l.adopted = false → l.failed = false →
      s.ropeOf z.error.core = some r → z.error.core ∈ r.cores → r.cores.Nodup → (∃ c ∈ r.cores, (s.core c).replayable = false ∨ (s.core c).restart = none) →
      (∀ c ∈ r.cores, (s.core c).accesses = [] ∧ (∀ f ∈ (s.core c).flights, f.effect.leavesCore = false) ∧ (s.core c).run = l.id
        ∧ asksFreeze (s.core c) = false ∧ ∀ o ∈ s.outgoing, o.core = c → o.flight ≠ none) →
      ∃ r', (s.replayNow exec r z).rope? r.key = some r' ∧ r'.running = none ∧ r'.cancel = none ∧ (s.replayNow exec r z).alert = true
        ∧ ∃ a ∈ ((s.replayNow exec r z).iface l.cmd.iface).replies, a.cmd = l.cmd ∧ a.status = 7
          ∧ a.result / 2 ^ 128 % 256 = (if l.faults = 0 then 0x29 else l.firstCode % 256))
  ∧ (∀ (s : State) (r : Rope) (z : Cancel) (base : Nat), s.rope? r.key = some r → r.origin ∈ r.cores → r.cores.Nodup →
      (∀ c ∈ r.cores, (s.core c).replayable = true ∧ ∃ x, (s.core c).restart = some x ∧ x.base = base ∧ x.refetch = []
        ∧ ∀ f ∈ x.flights, f.job.t < base) →
      ∃ r' : Rope, (s.replayNow exec r z).rope? r.key = some r' ∧ r'.rtick = base ∧ r'.replaying = true ∧ r'.cancel = none ∧ r'.running = r.running
        ∧ ∃ n, 1 ≤ n ∧ ((∀ c ∈ r.cores, ∀ x, (s.core c).restart = some x → x.carder.busy = false) → n = 1)
        ∧ ∀ c ∈ r.cores, ∀ x, (s.core c).restart = some x → let y := (s.replayNow exec r z).core c
            y.tokens = x.tokens ∧ y.vrb = x.vrb ∧ y.mstatus = x.mstatus ∧ y.vstatus = x.vstatus ∧ y.katc = x.katc ∧ y.sets = x.sets
            ∧ y.s = (s.core c).s ∧ y.pc = (s.core c).pc ∧ y.tile = (s.core c).tile ∧ y.halted = false
            ∧ y.planes = x.planes ∧ y.planeScales = x.planeScales ∧ y.active = x.active
            ∧ (∀ i, ¬ Attempted (s.core c) x i → i < 16384 → y.lane i = readZ (s.core c).vrf i)
            ∧ (∀ i, ¬ Attempted (s.core c) x (16384 + i) → y.entry i = readZ (s.core c).mrf i)
            ∧ (∀ p b, p < 16 → b < 64 → ¬ Attempted (s.core c) x (49152 + p * 64 + b) → (y.predicate p).getLsbD b = ((s.core c).predStore p).getLsbD b)
            ∧ (∀ i, Attempted (s.core c) x i → y.lane i = (Config.freeLane s.free c i).truncate 32)
            ∧ (∀ q ∈ y.queues, q.base = some base ∧ q.wait = .none ∧ q.issued = [] ∧ q.susp = none)
            ∧ y.holdc = (s.core c).holdc + BitVec.ofNat 64 (r.rtick - base + n))

/-! ## Devices, other packages, and the board -/

/-- R158, R161: the completion of a durable write marks it accepted, unless its link is down; a link that goes down is noted once with its time; after 100 ms
every write behind it that is not accepted has failed. -/
def Obligations.DurableEvents : Prop :=
  ∀ (s : State) (id port : Nat), let down (p : Nat) : Prop := ∃ g, (p, g) ∈ s.downLinks
    let behind (d : DurableWrite) (p : Nat) : Prop := ∃ h, s.hdmAt (64 * d.unit) = some h ∧ h.port = p
    (∃ t, exec (.evDurableWriteAccept id) s = .next t ∧ { t with durable := s.durable } = s
      ∧ ∀ (n : Nat) (d : DurableWrite), s.durable[n]? = some d →
          ((d.id = id ∧ ∀ p, behind d p → ¬ down p) → t.durable[n]? = some { d with accepted := true, failed := false })
          ∧ ((d.id ≠ id ∨ ∃ p, behind d p ∧ down p) → t.durable[n]? = some d))
    ∧ (down port → exec (.evCxlLinkDown port) s = .next s)
    ∧ (¬ down port → exec (.evCxlLinkDown port) s = .next { s with downLinks := s.downLinks ++ [(port, s.gtc)] })
    ∧ ((∀ g, (port, g) ∈ s.downLinks → s.gtc.toNat < g.toNat + 190000000) → exec (.evPersistLinkTimeout port) s = .next s)
    ∧ ((∃ g, (port, g) ∈ s.downLinks ∧ g.toNat + 190000000 ≤ s.gtc.toNat) → ∃ t, exec (.evPersistLinkTimeout port) s = .next t
        ∧ { t with durable := s.durable } = s ∧ ∀ (n : Nat) (d : DurableWrite), s.durable[n]? = some d →
          (d.accepted = false → behind d port → t.durable[n]? = some { d with failed := true })
          ∧ ((d.accepted = true ∨ ¬ behind d port) → t.durable[n]? = some d))

/-- R13, R134, R137, R148, R150 to R153: what another package asks. A request that this package's own table admits is applied and answered, once the slots in
force have room for what it moves (log 77), and refused otherwise; a signal is applied in its turn, once what it releases has performed, waits, is
dropped or gets no answer as R152 says; its record goes when its rope is freed; and a message is sent again as it was. A copy of a write or an atomic of that
package that has performed performs no second time, and is answered as the first one was (log 72); a signal whose count is not above the last is answered as
applied, and does nothing (log 30). -/
def Obligations.PeerRequests : Prop :=
  let best : Nat → Requester := fun _ => .best
  (∀ (s : State) (q : PeerRequest), (q.sender, q.id) ∈ s.applied → let op : Instr := .evPeerRequestReceive q
    ∃ x, exec op s = .next { s with replies := s.replies ++ [x], requests := s.requests.filter fun e => e.1 ≠ op } ∧ x.answers q.sender q.id = true
      ∧ ((∃ y ∈ s.replies, y.answers q.sender q.id = true) → x ∈ s.replies)
      ∧ ((∀ y ∈ s.replies, y.answers q.sender q.id = false) → x = .applied q.sender q.id))
  ∧ (∀ (s : State) (q : PeerRequest), s.waitingSignals = [] → (q.sender, q.id) ∉ s.applied →
    let op : Instr := .evPeerRequestReceive q
    let kept := s.requests.filter fun e => e.1 ≠ op
    let answers (u : State) (r : Reply) : Prop := ∃ m, exec op s = .next { u with replies := u.replies ++ [r], moved := m, requests := kept }
    let refused : Prop := answers s (.refused q.sender q.id)
    let hauled (all : List Nat) (done : Prop) : Prop := let units := ((s.requests.find? fun e => e.1 = op).map (·.2)).getD all
      (Fits s best units → done)
      ∧ (¬ Fits s best units → ∃ t left, exec op s = .next t ∧ left ≠ [] ∧ t = { s with moved := t.moved, requests := kept ++ [(op, left)] })
    let admitted (e : PeerEntry) : Prop := find s.peers q.entry = some e ∧ e.valid = true ∧ e.pkg = q.sender ∧ e.sa = q.sa.toNat
    ((∀ e, ¬ admitted e) → refused)
    ∧ (∀ e va, admitted e → va = e.base + q.offset →
        (∀ n, q.kind = .read n → s.poison = [] →
          (s.rangeOk e.world va n .read = true →
            hauled (s.unitsFor e.world va n .read) (answers s (.data q.sender q.id (s.readFor e.world va n))))
          ∧ (s.rangeOk e.world va n .read = false → refused))
        ∧ (∀ data, q.kind = .write data 0xFF →
          (s.rangeOk e.world va data.length .write = true → hauled (s.unitsFor e.world va data.length .write)
            (answers { s.writeFor e.world va data with applied := (s.writeFor e.world va data).applied ++ [(q.sender, q.id)] } (.applied q.sender q.id)))
          ∧ (s.rangeOk e.world va data.length .write = false → refused))
        ∧ (∀ b d m, q.kind = .amo .swap true b d → s.mapFor e.world va 8 .readWrite = .ok m → s.poison = [] →
          ∀ u, u = s.store_ e.world m.durable (hostOrigin va m.pa) (cellsAt m.pa (leBytes 8 b.toNat)) →
          hauled (s.unitsFor e.world va 8 .readWrite) (answers { u with applied := u.applied ++ [(q.sender, q.id)] }
            (.data q.sender q.id (leBytes 8 (leNat (s.readBytes (s.keyFor e.world m.durable) m.pa 8))))))))
  ∧ (∀ (s : State) (g : Signal), let rec_ : Option (BitVec 16 × Nat) := (s.signalRecords.find? fun r => r.1 == g.src).map (·.2)
      let pkg := g.src.pkg
      let ok : Prop := ∃ e, find s.peers g.entry = some e ∧ e.valid = true ∧ e.pkg = pkg ∧ e.sa = g.sa.toNat
      let joined : State := { s with waitingSignals := s.waitingSignals ++ [{ signal := g, since := s.gtc }] }
      let waits : Prop := exec (.evSignalReceive g) s = .next joined.settleAll ∧ (s.waitingSignals = [] → exec (.evSignalReceive g) s = .next joined)
      let turn : Prop := (∃ last, rec_ = some (g.alloc, last) ∧ g.count = last + 1) ∨ (∃ a last, rec_ = some (a, last) ∧ a ≠ g.alloc ∧ g.count = 1)
        ∨ (rec_ = none ∧ s.signalRecords.length < 1048576 ∧ g.count = 1)
      let free : Prop := ∀ id ∈ g.after, (pkg, id) ∈ s.applied
      (g.expired = true → exec (.evSignalReceive g) s = .next s)
      ∧ (g.expired = false → ¬ ok → exec (.evSignalReceive g) s = .next { s with replies := s.replies ++ [.refused pkg g.id] })
      ∧ (g.expired = false → ok →
          (rec_ = none → 1048576 ≤ s.signalRecords.length → exec (.evSignalReceive g) s = .next s)
          ∧ (∀ last, rec_ = some (g.alloc, last) → g.count ≤ last →
              exec (.evSignalReceive g) s = .next { s with replies := s.replies ++ [.applied pkg g.id] })
          ∧ ((∀ x ∈ s.waitingSignals, ¬ (x.signal.src.pkg = pkg ∧ x.signal.id = g.id)) →
              (∀ last, rec_ = some (g.alloc, last) → last + 1 < g.count → waits)
              ∧ (∀ a last, rec_ = some (a, last) → a ≠ g.alloc → g.count ≠ 1 → waits)
              ∧ (rec_ = none → s.signalRecords.length < 1048576 → g.count ≠ 1 → waits))
          ∧ (s.waitingSignals = [] → turn → ∀ e, find s.peers g.entry = some e → let units := s.unitsFor e.world (e.base + g.offset) 8 .readWrite
              (¬ free ∨ ¬ Fits s best units → waits)
              ∧ (free → Fits s best units → ∀ m old, s.mapFor e.world (e.base + g.offset) 8 .readWrite = .ok m → s.poison = [] →
                old = leNat (s.readBytes (s.keyFor e.world m.durable) m.pa 8) →
                ∃ t, exec (.evSignalReceive g) s = .next t ∧ t.replies = s.replies ++ [.applied pkg g.id] ∧ t.waitingSignals = []
                  ∧ (t.signalRecords.find? fun r => r.1 == g.src) = some (g.src, (g.alloc, g.count))
                  ∧ ∀ k a, t.readByte k a = (s.store_ e.world m.durable (hostOrigin (e.base + g.offset) m.pa)
                      (cellsAt m.pa (leBytes 8 ((old + g.value.toNat) % 2 ^ 64)))).readByte k a))))
  ∧ (∀ (s : State) (src : SignalSource) (id : Nat),
      exec (.evReleaseNoticeReceive src) s = .next { s with signalRecords := s.signalRecords.filter (fun r => r.1 ≠ src) }
      ∧ (∃ t, exec (.evPathFailureResend id) s = .next t ∧ { t with outgoing := s.outgoing } = s
          ∧ t.outgoing = s.outgoing.map (fun o => if o.id = id then { o with resent := o.resent + 1 } else o))
      ∧ ∃ t, exec (.evSignalWaitTimeout src) s = .next t ∧ { t with waitingSignals := s.waitingSignals } = s
          ∧ ∀ x, x ∈ t.waitingSignals ↔ x ∈ s.waitingSignals ∧ ¬ (x.signal.src = src ∧ 1 < x.signal.count
              ∧ x.since.toNat + 2 * 1900000000 ≤ s.gtc.toNat
              ∧ (∀ y ∈ s.waitingSignals, y.signal.src = src → y.signal.alloc = x.signal.alloc → y.signal.count ≠ 1)
              ∧ ∀ a last, (s.signalRecords.find? fun r => r.1 == src).map (·.2) = some (a, last) → a ≠ x.signal.alloc))

/-- R56, R134, R140, R152, R265, R337: the answer of another package. The message is over; a control core's load retires with its data, or is fault 0x09 with its
address where the read was refused; a store is done; a refused write counts at its interface; a signal's answer starts the quiet second; and the data of an
engine's read is there. That a control core's load retires, and its pc goes on, only at the answer is log 29. -/
def Obligations.Acknowledgements : Prop :=
  ∀ (s : State) (o : Outgoing) (refused : Bool) (data : List Byte), (s.outgoing.find? fun x => x.id == o.id) = some o →
    let i := Instr.evAcknowledgementReceive o.id refused data
    let rest := s.outgoing.filter (fun x => x.id ≠ o.id)
    (∀ a d n sx, o.flight = none → o.signal = none → o.kind = .read n → ((s.core o.core).accesses.find? fun a => a.sent == some o.id) = some a →
      a.kind = .load d n sx →
      let left := (s.core o.core).accesses.filter (fun x => x.id ≠ a.id)
      (refused = false → ∃ t, exec i s = .next t ∧ t.outgoing = rest ∧ (∀ c, c ≠ o.core → t.core c = s.core c) ∧ SameMem s t
        ∧ (∀ r, (t.core o.core).reg r = if r = d ∧ r ≠ 0 then loadValue n sx data else (s.core o.core).reg r)
        ∧ { t.core o.core with s := (s.core o.core).s } = { s.core o.core with
              accesses := left, pc := ((s.core o.core).pc + 8) &&& 0xFFFF, dbgc := (s.core o.core).skipped })
      ∧ (refused = true → left = [] → (s.core o.core).handler = false → (s.core o.core).tvec.getLsbD 0 = true →
          ∃ t, exec i s = .next t ∧ t.outgoing = rest ∧ (t.core o.core).tcause = 9 ∧ (t.core o.core).tval = BitVec.ofNat 64 o.va
            ∧ (t.core o.core).tpc = (s.core o.core).pc ∧ (t.core o.core).handler = true ∧ (t.core o.core).accesses = []))
    ∧ (∀ a bs, o.flight = none → o.signal = none → (∀ n, o.kind ≠ .read n) → ((s.core o.core).accesses.find? fun a => a.sent == some o.id) = some a →
        a.kind = .store bs → ∃ t, exec i s = .next t ∧ t.outgoing = rest ∧ SameMem s t
          ∧ t.core o.core = { s.core o.core with accesses := (s.core o.core).accesses.filter (fun x => x.id ≠ a.id) }
          ∧ (∀ k, o.rope = some k → (t.iface k.world).refusals
              = if refused then min 0xFFFF ((s.iface k.world).refusals + 1) else (s.iface k.world).refusals))
    ∧ (∀ k r x, o.flight = none → o.signal = some x → ((s.core o.core).accesses.find? fun a => a.sent == some o.id) = none → o.rope = some k →
        s.rope? k = some r → refused = false → ∃ t, exec i s = .next t ∧ t.rope? k = some { r with quiet := s.gtc } ∧ t.outgoing = rest
          ∧ t.cores = s.cores)
    ∧ (∀ f x cells, refused = false → o.flight = some (x.id, f, 0) → o.signal = none → x ∈ (s.core o.core).flights →
        (∀ y ∈ (s.core o.core).flights, y.id = x.id → y = x) → (s.core o.core).parked x = false → x.effect = .tile cells → f = 0 → data.length = cells.length →
        ∃ t, exec i s = .next t ∧ t.outgoing = rest ∧ ∃ y ∈ (t.core o.core).flights, y.id = x.id ∧ y.tick = x.tick ∧ y.effect = .tile ((cells.map (·.1)).zip data)
          ∧ ((∀ z ∈ rest, z.core = o.core → ∀ g, z.flight = some g → g.1 ≠ x.id) → y.late = false))

/-- R20, R21, R26, R31 to R33, R55, R72, R230: power, reset, clock steps and the board. A reset of a part with power, and applying power, leave every core clear with
those that failed fenced, `gtc` at 0, no rope, interface 0 bound alone, and of memory only what persistent devices hold; firmware that fails its checks
leaves nothing started. A trip and a loss of power leave the part dark, and a
trip drives ALERT_N low; the codes 2 and 0 of the reset cause are log 14. A clock step takes the whole group; when ALERT_N is driven is log 15. Over I3C the board controller reads the reset cause and the error log, 32 bytes a record. -/
def Obligations.BoardEvents : Prop :=
  ∀ (s : State) (x : ResetInputs) (die : Nat),
    (s.powered = true → exec (.evPowerOn x) s = .next s) ∧ (s.powered = false → exec (.evResetN x) s = .next s)
    ∧ (∀ i, (i = .evPowerOn x ∧ s.powered = false) ∨ (i = .evResetN x ∧ s.powered = true) →
        (s.firmwareOk x.fw = true → ∃ t, exec i s = .next t ∧ t.powered = true ∧ t.pwrgd = true ∧ t.started = true ∧ t.gtc = 0 ∧ t.ropes = []
          ∧ (∀ c, t.core c = if c ∈ x.failedCores then { Core.clear with fenced := true } else .clear)
          ∧ (∀ n, (t.iface n).bound = if n = 0 then some (Config.firmwareBinding (x.fw.header ++ x.fw.body)) else none)
          ∧ (∀ k, k ∈ t.present ↔ k < 16 ∧ k ∉ x.failedStacks) ∧ t.closedPorts = x.closedPorts ∧ t.formats = x.formats ∧ t.rollback = s.rollback
          ∧ (∀ w, (t.world w).gen = 0) ∧ (∀ a, find t.mem a ≠ none → ∃ h ∈ s.hdm, h.persistent = true ∧ h.base ≤ a ∧ a < h.base + h.size)
          ∧ (∀ p d, (p, d) ∈ t.disabled ↔ ∃ h ∈ x.hdm, h.cxlType ≠ 3 ∧ h.port = p ∧ h.device = d))
        ∧ (s.firmwareOk x.fw = false → ∃ t, exec i s = .next t ∧ t.powered = true ∧ t.pwrgd = true ∧ t.started = false ∧ t.alert = true
          ∧ (∀ p < 12, p ∈ t.closedPorts)))
    ∧ (∃ t, exec .evThermalTrip s = .next t ∧ t.alert = true)
    ∧ (∀ i cause, (i = .evThermalTrip ∧ cause = 2) ∨ (i = .evPowerLoss ∧ cause = 0) → ∃ t, exec i s = .next t ∧ t.powered = false ∧ t.pwrgd = false
        ∧ t.resetCause = cause ∧ t.ropes = [] ∧ (∀ c, t.core c = .clear) ∧ t.rollback = s.rollback ∧ t.fuses = s.fuses ∧ t.identities = s.identities
        ∧ ∀ a, find t.mem a = if inPersistent s.hdm a then find s.mem a else none)
    ∧ (∃ t low, exec (.evClockStepDown die) s = .next t ∧ t.alert = true ∧ { t with steps := s.steps, stepGtc := s.stepGtc, alert := s.alert } = s
        ∧ (∀ d ∈ s.stepGroup die, s.stepOf d ≤ low) ∧ min 2 (s.stepOf die + 1) ≤ low
        ∧ ∀ (d v : Nat), s.steps[d]? = some v → t.steps[d]? = some (if d ∈ s.stepGroup die then low else v))
    ∧ ((∀ d ∈ s.stepGroup die, (s.stepGtc.getD d 0).toNat + 1900000000 ≤ s.gtc.toNat) → ∃ t, exec (.evClockStepUp die) s = .next t
        ∧ { t with steps := s.steps } = s ∧ ∀ (d v : Nat), s.steps[d]? = some v → t.steps[d]? = some (if d ∈ s.stepGroup die then v - 1 else v))
    ∧ ((∃ d ∈ s.stepGroup die, s.gtc.toNat < (s.stepGtc.getD d 0).toNat + 1900000000) → exec (.evClockStepUp die) s = .next s)
    ∧ (∃ x, exec .evI3cAccess s = .next { s with alert := s.powered && !s.started, i3c := s.i3c ++ [x] } ∧ x.resetCause = s.resetCause
        ∧ x.log = s.errors.map (·.bytes))
    ∧ (∀ e : ErrorRecord, e.bytes.length = 32 ∧ (e.kind < 256 → field e.bytes 0 1 = e.kind) ∧ (e.store < 256 → field e.bytes 1 1 = e.store)
        ∧ (e.core < 2 ^ 16 → field e.bytes 2 2 = e.core) ∧ (e.world < 256 → field e.bytes 4 1 = e.world) ∧ field e.bytes 5 3 = 0
        ∧ field e.bytes 8 8 = e.gtc.toNat ∧ (e.addr < 2 ^ 64 → field e.bytes 16 8 = e.addr) ∧ (e.rtick < 2 ^ 64 → field e.bytes 24 8 = e.rtick))

/-! ## Words, steps, memory -/

/-- R127, R219, R240 to R254, R349: words that the spec writes out, of every unit, decode to the instructions it says they encode: `c.addi s5, s6, -16`,
`c.ld.64 s5, s6, 16 oc=3`, `c.st.32 s9, s6, 8 oc=2`, `k.br b1, s4, pos`, `k.scan.out s6, s7, s8, 0x3FF`, `+2 l.get tm:0x4000, sh:3[s4, s5] oc=1`,
`+0 s.put sh:2, tm:0x1000`, `+1 m.macz m2.all, tm:0x4000`, `+1 v.ld.n32 v40, tm:0x1000`, `y.align lmvs, tm:0x0F00`. -/
def Obligations.DecodeWords : Prop :=
  let h (wait : BitVec 6) (oc : BitVec 4) : Hdr := { wait := wait, giveUp := false, giveDown := false, takeUp := false, takeDown := false, oc := oc }
  decode 0x02029800FFFFFFF0 = .ok (.cAddi 5 6 0xFFFFFFF0)
    ∧ decode 0x0462980300000010 = .ok (.cLd64 5 6 3 16)
    ∧ decode 0x0490192200000008 = .ok (.cSt32 9 6 2 8)
    ∧ decode 0x1020102000000004 = .ok (.kBr 1 4 4)
    ∧ decode 0x11031D00000003FF = .ok (.kScanOut 6 7 8 0x3FF)
    ∧ decode 0x2000804000C85040 = .ok (.lGet { h := h 2 1, shape := 3, r0 := 4, r1 := 5, tile := 0x40 })
    ∧ decode 0x3000000000800010 = .ok (.sPut { h := h 0 0, shape := 2, r0 := 0, r1 := 0, tile := 0x10 })
    ∧ decode 0x4040401600200000 = .ok (.mMacz { h := h 1 0, bank := 2, dir := 3, idx := 0, addr := 0x4000, m := 0 })
    ∧ decode 0x5600400A00201000 = .ok (.vLd { h := h 1 0, r := 40, x := 0, w := 2, addr := 0x1000 })
    ∧ decode 0x6000003C0000000F = .ok (.yAlign { wait := 0, mask := 15, arg := 15 })
    ∧ decode 0xFFFFFFFFFFFFFFFF = .error .unit

/-- R240 to R254: a well-formed instruction that has a word decodes from it to itself, and a word that decodes is the word of its instruction: no bit of a
word is dropped, and no two words mean the same. -/
def Obligations.DecodeEncode : Prop :=
  (∀ (i : Instr) (w : Word), wellFormed i = true → encode i = some w → decode w = .ok i)
  ∧ (∀ (i : Instr) (w : Word), decode w = .ok i → encode i = some w)

/-- R108, R109, R203, R241, R364: a turn of a control core that runs, takes no trap, meets no breakpoint and has routed no `y.halt`: units C and K act at once,
engine words are routed, and every other word is an illegal instruction. How far the counter of the free values moves is the model's own. -/
def Obligations.StepRunsDecoded : Prop :=
  ∀ (s u : State) (c : Nat) (rest : List Actor), s.agenda = .core c :: rest → s.powered = true → s.started = true →
    u = { s with agenda := rest, free := s.free + 65536, cur := { s.cur with core := c, rope := ((s.core c).rope).getD s.cur.rope } } →
    s.runs c = true → (s.core c).mustTrap = false → (s.core c).over = false → (s.core c).breaks = false →
    (∀ i, decode u.fetch = .ok i → (∀ n, queueOf i ≠ some n) → yWord i = none → step s = exec i u)
    ∧ (∀ i, decode u.fetch = .ok i → ((∃ n, queueOf i = some n) ∨ yWord i ≠ none) → step s = exec (.evRouting u.fetch) u)
    ∧ (∀ e, decode u.fetch = .error e → 2 ≤ u.fetch.toNat / 2 ^ 60 → u.fetch.toNat / 2 ^ 60 < 7 → step s = exec (.evRouting u.fetch) u)
    ∧ (∀ e, decode u.fetch = .error e → 7 ≤ u.fetch.toNat / 2 ^ 60 ∨ u.fetch.toNat / 2 ^ 60 < 2 → step s = exec (.evIllegalInstruction u.fetch) u)

/-- R63, R140: the canonical form of global memory, one value at each address and one key for each unit, holds after every step that follows a state in which it
held. -/
def Obligations.MemoryKept : Prop :=
  ∀ (s t : State), MemOk s → step s = .next t → MemOk t

/-- R31, R33, R39, R54, R60, R67, R73, R79, R99, R101, R139, R184, R202, R204, R211, R226: the part right after reset: `gtc` at 0, no rope, every core
without a launch, its special registers as their tables give them and its `s` registers at 0 (log 5), every interface closed and only interface 0
bound, every generation 0, no error logged; and memory in its canonical form. Which cores and devices pass their tests is the model's choice (log 3). -/
def Obligations.Reset : Prop :=
  MemOk .reset ∧ State.reset.gtc = 0 ∧ State.reset.ropes = [] ∧ (∀ c, (State.reset.core c).rope = none ∧ (State.reset.core c).run = 0)
    ∧ (∀ c, let k := State.reset.core c
        k.dom1 = 0x8000000000000000 ∧ k.dom2 = 0x8000000000000000 ∧ k.dom3 = 0x8000000000000000 ∧ k.dom4 = 0 ∧ k.tcause = 0
          ∧ k.tpc = 0 ∧ k.tval = 0 ∧ k.tinfo = 0 ∧ k.tsave = 0 ∧ k.shbase = 0 ∧ k.shlim = 0 ∧ k.scom = 0 ∧ k.dbgc = 0 ∧ k.dbga = 0
          ∧ k.handler = false ∧ k.prev = 0 ∧ k.fmtq = [])
    ∧ (∀ c r, (State.reset.core c).reg r = 0) ∧ (∀ w, State.reset.gen w = 0) ∧ State.reset.errors = []
    ∧ (∀ n, (State.reset.iface n).state = .closed ∧ (State.reset.iface n).cwp = 0 ∧ ((State.reset.iface n).bound ≠ none ↔ n = 0))

/-- R63, R66: what one key wrote cannot be told under another: two writes of the same places under one key leave every byte reading the same under every
other key; a byte reads as written under its own key; and the keys of two worlds, and of two generations of one world, differ; and no key of a world outlasts a reset (R31). -/
def Obligations.KeyIsolation : Prop :=
  (∀ (s : State) (k k' : KeyTag) (cs ds : List (Nat × Byte)), k ≠ k' → cs.map (·.1) = ds.map (·.1) →
      ∀ a, (s.writeCells k cs).readByte k' a = (s.writeCells k ds).readByte k' a)
  ∧ (∀ (s : State) (k : KeyTag) (a : Nat) (b : Byte), (s.writeByte k a b).readByte k a = b)
  ∧ (∀ (s : State) (w w' : Nat), w ≠ w' → s.worldKey w ≠ s.worldKey w')
  ∧ (∀ (s : State) (w : Nat), (s.setWorld w (s.world w).bump).worldKey w ≠ s.worldKey w)
  ∧ (∀ (s : State) (x : ResetInputs), s.powered = true → ∃ t, exec (.evResetN x) s = .next t ∧ ∀ w w', t.worldKey w ≠ s.worldKey w')
end

