-- ==== Sys2Proof/Laws/Maps.lean ====
section
/-! SUPPORT. Laws of sparse maps: a read after a write, what a write leaves alone, and that every operation keeps the canonical form. -/
namespace Sys2Proof.Machine

/-! ## Read after write -/

@[simp] theorem find_nil {α : Type} (k : Nat) : find ([] : List (Nat × α)) k = none := rfl

theorem find_cons {α : Type} (e : Nat × α) (m : List (Nat × α)) (k : Nat) :
    find (e :: m) k = if k = e.1 then some e.2 else find m k := rfl

@[simp] theorem find_insert_self {α : Type} (m : List (Nat × α)) (k : Nat) (v : α) : find (insert m k v) k = some v := by
  induction m with
  | nil => simp [insert, find]
  | cons e m ih =>
    obtain ⟨a, b⟩ := e
    simp only [insert]
    split
    · simp [find]
    · split
      · simp [find]
      · rename_i h1 h2
        simp [find_cons, h2, ih]

theorem find_insert_ne {α : Type} (m : List (Nat × α)) (k j : Nat) (v : α) (h : j ≠ k) :
    find (insert m k v) j = find m j := by
  induction m with
  | nil => simp [insert, find, h]
  | cons e m ih =>
    obtain ⟨a, b⟩ := e
    simp only [insert]
    split
    · simp [find, h]
    · split
      · rename_i h1 h2
        subst h2
        simp [find, h]
      · simp [find_cons, ih]

theorem find_insert {α : Type} (m : List (Nat × α)) (k j : Nat) (v : α) :
    find (insert m k v) j = if j = k then some v else find m j := by
  by_cases h : j = k
  · simp [h]
  · simp [h, find_insert_ne m k j v h]

theorem find_filter {α : Type} (p : Nat → Bool) (m : List (Nat × α)) (j : Nat) (h : p j = true) :
    find (m.filter fun e => p e.1) j = find m j := by
  induction m with
  | nil => rfl
  | cons e m ih =>
    by_cases hp : p e.1 = true
    · simp [hp, find_cons, ih]
    · have : j ≠ e.1 := fun x => hp (x ▸ h)
      simp [hp, find_cons, ih, this]

theorem find_filter_none {α : Type} (p : Nat → Bool) (m : List (Nat × α)) (j : Nat) (h : p j = false) :
    find (m.filter fun e => p e.1) j = none := by
  induction m with
  | nil => rfl
  | cons e m ih =>
    by_cases hp : p e.1 = true
    · have : j ≠ e.1 := fun x => by simp [← x, h] at hp
      simp [hp, find_cons, ih, this]
    · simp [hp, ih]

@[simp] theorem find_remove_self {α : Type} (m : List (Nat × α)) (k : Nat) : find (remove m k) k = none :=
  find_filter_none (fun x => x != k) m k (by simp)

theorem find_remove_ne {α : Type} (m : List (Nat × α)) (k j : Nat) (h : j ≠ k) : find (remove m k) j = find m j :=
  find_filter (fun x => x != k) m j (by simp [h])

/-! ## The canonical form -/

theorem rising_nil {α : Type} : Rising ([] : List (Nat × α)) := List.Pairwise.nil

theorem rising_filter {α : Type} (m : List (Nat × α)) (p : Nat × α → Bool) (h : Rising m) : Rising (m.filter p) :=
  List.Pairwise.sublist ((List.filter_sublist).map _) h

theorem rising_remove {α : Type} (m : List (Nat × α)) (k : Nat) (h : Rising m) : Rising (remove m k) :=
  rising_filter m _ h

theorem mem_insert {α : Type} (m : List (Nat × α)) (k : Nat) (v : α) (e : Nat × α) (h : e ∈ insert m k v) :
    e = (k, v) ∨ e ∈ m := by
  induction m with
  | nil => simpa [insert] using h
  | cons x m ih =>
    obtain ⟨a, b⟩ := x
    simp only [insert] at h
    split at h
    · simpa using h
    · split at h
      · rcases List.mem_cons.1 h with h | h
        · exact .inl h
        · exact .inr (List.mem_cons_of_mem _ h)
      · rcases List.mem_cons.1 h with h | h
        · exact .inr (h ▸ List.mem_cons_self)
        · exact (ih h).imp_right (List.mem_cons_of_mem _)

theorem rising_insert {α : Type} (m : List (Nat × α)) (k : Nat) (v : α) (h : Rising m) : Rising (insert m k v) := by
  induction m with
  | nil => simp [insert, Rising]
  | cons x m ih =>
    obtain ⟨a, b⟩ := x
    have hm : Rising m := (List.pairwise_cons.1 h).2
    have ha : ∀ y ∈ m.map Prod.fst, a < y := (List.pairwise_cons.1 h).1
    simp only [insert]
    split
    · rename_i hk
      refine List.pairwise_cons.2 ⟨fun y hy => ?_, h⟩
      rcases List.mem_cons.1 hy with hy | hy
      · exact hy ▸ hk
      · exact Nat.lt_trans hk (ha y hy)
    · split
      · rename_i h1 h2
        refine List.pairwise_cons.2 ⟨fun y hy => ?_, hm⟩
        exact h2 ▸ ha y hy
      · rename_i h1 h2
        refine List.pairwise_cons.2 ⟨fun y hy => ?_, ih hm⟩
        obtain ⟨e, he, rfl⟩ := List.mem_map.1 hy
        rcases mem_insert m k v e he with he | he
        · subst he; show a < k; omega
        · exact ha _ (List.mem_map.2 ⟨e, he, rfl⟩)

theorem rising_foldl_insert {α β : Type} (cs : List β) (key : β → Nat) (val : β → α) (m : List (Nat × α)) (h : Rising m) :
    Rising (cs.foldl (fun m c => insert m (key c) (val c)) m) := by
  induction cs generalizing m with
  | nil => exact h
  | cons c cs ih => exact ih _ (rising_insert _ _ _ h)

/-! ## Stores whose unlisted cells hold zero -/

@[simp] theorem readZ_writeZ_self {n : Nat} (m : List (Nat × BitVec n)) (k : Nat) (v : BitVec n) : readZ (writeZ m k v) k = v := by
  unfold readZ writeZ
  split
  · rename_i h; simp [h]
  · simp

theorem readZ_writeZ_ne {n : Nat} (m : List (Nat × BitVec n)) (k j : Nat) (v : BitVec n) (h : j ≠ k) :
    readZ (writeZ m k v) j = readZ m j := by
  unfold readZ writeZ
  split
  · rw [find_remove_ne _ _ _ h]
  · rw [find_insert_ne _ _ _ _ h]

theorem canonZ_nil {n : Nat} : CanonZ ([] : List (Nat × BitVec n)) := ⟨rising_nil, by simp⟩

theorem canonZ_writeZ {n : Nat} (m : List (Nat × BitVec n)) (k : Nat) (v : BitVec n) (h : CanonZ m) : CanonZ (writeZ m k v) := by
  unfold writeZ
  split
  · exact ⟨rising_remove _ _ h.1, fun e he => h.2 e (List.mem_filter.1 he).1⟩
  · rename_i hv
    refine ⟨rising_insert _ _ _ h.1, fun e he => ?_⟩
    rcases mem_insert m k v e he with he | he
    · exact he ▸ hv
    · exact h.2 e he

theorem canonZ_writeAllZ {n : Nat} (m : List (Nat × BitVec n)) (cells : List (Nat × BitVec n)) (h : CanonZ m) :
    CanonZ (writeAllZ m cells) := by
  unfold writeAllZ
  induction cells generalizing m with
  | nil => exact h
  | cons c cs ih => exact ih _ (canonZ_writeZ _ _ _ h)

theorem readZ_writeAllZ_outside {n : Nat} (m : List (Nat × BitVec n)) (cells : List (Nat × BitVec n)) (j : Nat)
    (h : ∀ c ∈ cells, c.1 ≠ j) : readZ (writeAllZ m cells) j = readZ m j := by
  unfold writeAllZ
  induction cells generalizing m with
  | nil => rfl
  | cons c cs ih =>
    rw [List.foldl_cons, ih _ fun d hd => h d (List.mem_cons_of_mem _ hd)]
    exact readZ_writeZ_ne _ _ _ _ fun x => h c List.mem_cons_self x.symm

end Sys2Proof.Machine
end

