-- ==== Sys2Proof/Laws/Memory.lean ====
section
/-! SUPPORT. Laws of global memory: a read after a write, what a write leaves alone, and that every write keeps the canonical form. -/
namespace Sys2Proof.Machine

/-! ## One byte -/

theorem find_dropUnit (m : List (Nat × Byte)) (u a : Nat) :
    find (dropUnit m u) a = if a / 64 = u then none else find m a := by
  unfold dropUnit
  by_cases h : a / 64 = u
  · simp only [h, if_true]
    exact find_filter_none (fun x => x / 64 != u) m a (bne_eq_false_iff_eq.2 h)
  · simp only [h, if_false]
    exact find_filter (fun x => x / 64 != u) m a (by simp [h])

@[simp] theorem readByte_writeByte_self (s : State) (k : KeyTag) (pa : Nat) (b : Byte) :
    (s.writeByte k pa b).readByte k pa = b := by
  unfold State.writeByte State.readByte
  split
  · rename_i h; simp [h]
  · simp

/-- A write of one byte leaves every byte of the same unit that stood under the same key, and every byte of other units. -/
theorem readByte_writeByte_ne (s : State) (k j : KeyTag) (pa a : Nat) (b : Byte) (h : a ≠ pa)
    (hk : find s.keys (pa / 64) = some k ∨ a / 64 ≠ pa / 64) : (s.writeByte k pa b).readByte j a = s.readByte j a := by
  unfold State.writeByte State.readByte
  by_cases hf : find s.keys (pa / 64) = some k
  · simp [hf, find_insert_ne _ _ _ _ h]
  · have hu : a / 64 ≠ pa / 64 := hk.resolve_left hf
    simp [hf, find_insert_ne _ _ _ _ h, find_insert_ne _ _ _ _ hu, find_dropUnit, hu]

/-! ## Fields that a write leaves -/

@[simp] theorem writeByte_cores (s : State) (k : KeyTag) (pa : Nat) (b : Byte) : (s.writeByte k pa b).cores = s.cores := by
  unfold State.writeByte; split <;> rfl
@[simp] theorem writeByte_free (s : State) (k : KeyTag) (pa : Nat) (b : Byte) : (s.writeByte k pa b).free = s.free := by
  unfold State.writeByte; split <;> rfl

@[simp] theorem writeCells_nil (s : State) (k : KeyTag) : s.writeCells k [] = s := rfl
theorem writeCells_cons (s : State) (k : KeyTag) (c : Nat × Byte) (cs : List (Nat × Byte)) :
    s.writeCells k (c :: cs) = (s.writeByte k c.1 c.2).writeCells k cs := rfl

@[simp] theorem writeCells_cores (s : State) (k : KeyTag) (cs : List (Nat × Byte)) : (s.writeCells k cs).cores = s.cores := by
  induction cs generalizing s with
  | nil => rfl
  | cons c cs ih => rw [writeCells_cons, ih, writeByte_cores]

/-- Cells written to other units leave a byte as it was. -/
theorem readByte_writeCells_outside (s : State) (k j : KeyTag) (cs : List (Nat × Byte)) (a : Nat)
    (h : ∀ c ∈ cs, c.1 / 64 ≠ a / 64) : (s.writeCells k cs).readByte j a = s.readByte j a := by
  induction cs generalizing s with
  | nil => rfl
  | cons c cs ih =>
    have hc := h c List.mem_cons_self
    rw [writeCells_cons, ih _ fun d hd => h d (List.mem_cons_of_mem _ hd)]
    exact readByte_writeByte_ne _ _ _ _ _ _ (fun x => hc (x ▸ rfl)) (.inr fun x => hc x.symm)

/-! ## The canonical form -/

/-- Cells of memory and keys of units are listed in rising order. -/
def MemWf (s : State) : Prop := Memory.wf s.mem ∧ Rising s.keys

theorem MemWf.congr {s t : State} (h : MemWf s) (hm : t.mem = s.mem) (hk : t.keys = s.keys) : MemWf t := by
  unfold MemWf; rw [hm, hk]; exact h

theorem rising_dropUnit (m : List (Nat × Byte)) (u : Nat) (h : Rising m) : Rising (dropUnit m u) := rising_filter _ _ h

@[simp] theorem memWf_writeByte (s : State) (k : KeyTag) (pa : Nat) (b : Byte) (h : MemWf s) : MemWf (s.writeByte k pa b) := by
  unfold State.writeByte
  split
  · exact ⟨rising_insert _ _ _ h.1, h.2⟩
  · exact ⟨rising_insert _ _ _ (rising_dropUnit _ _ h.1), rising_insert _ _ _ h.2⟩

@[simp] theorem memWf_writeCells (s : State) (k : KeyTag) (cs : List (Nat × Byte)) (h : MemWf s) : MemWf (s.writeCells k cs) := by
  induction cs generalizing s with
  | nil => exact h
  | cons c cs ih => exact ih _ (memWf_writeByte _ _ _ _ h)

theorem memWf_foldl {α : Type} (f : State → α → State) (hf : ∀ s a, MemWf s → MemWf (f s a)) (l : List α) (s : State)
    (h : MemWf s) : MemWf (l.foldl f s) := by
  induction l generalizing s with
  | nil => exact h
  | cons a l ih => exact ih _ (hf _ _ h)

@[simp] theorem logDurable_mem (s : State) (o : Origin) (k : KeyTag) (cells : List (Nat × Byte)) (u : Nat) :
    (s.logDurable o k cells u).mem = s.mem := rfl
@[simp] theorem logDurable_keys (s : State) (o : Origin) (k : KeyTag) (cells : List (Nat × Byte)) (u : Nat) :
    (s.logDurable o k cells u).keys = s.keys := rfl

@[simp] theorem memWf_store (s : State) (w : Nat) (d : Bool) (o : Origin) (cells : List (Nat × Byte)) (h : MemWf s) :
    MemWf (s.store_ w d o cells) := by
  unfold State.store_
  refine memWf_writeCells _ _ _ ?_
  split
  · exact memWf_foldl _ (fun t u ht => ht.congr (logDurable_mem ..) (logDurable_keys ..)) _ _ h
  · exact h

end Sys2Proof.Machine
end

