-- ==== Sys2Proof/Laws/State.lean ====
section
/-! SUPPORT. What each shared update of the state leaves and changes, field by field. -/
namespace Sys2Proof.Machine

/-! ## Updates of the state -/

@[simp] theorem State.setCore_powered (s : State) (i : Nat) (c : Core) : (s.setCore i c).powered = s.powered := rfl
@[simp] theorem State.setCore_started (s : State) (i : Nat) (c : Core) : (s.setCore i c).started = s.started := rfl
@[simp] theorem State.setCore_pwrgd (s : State) (i : Nat) (c : Core) : (s.setCore i c).pwrgd = s.pwrgd := rfl
@[simp] theorem State.setCore_alert (s : State) (i : Nat) (c : Core) : (s.setCore i c).alert = s.alert := rfl
@[simp] theorem State.setCore_degraded (s : State) (i : Nat) (c : Core) : (s.setCore i c).degraded = s.degraded := rfl
@[simp] theorem State.setCore_gtc (s : State) (i : Nat) (c : Core) : (s.setCore i c).gtc = s.gtc := rfl
@[simp] theorem State.setCore_free (s : State) (i : Nat) (c : Core) : (s.setCore i c).free = s.free := rfl
@[simp] theorem State.setCore_serial (s : State) (i : Nat) (c : Core) : (s.setCore i c).serial = s.serial := rfl
@[simp] theorem State.setCore_agenda (s : State) (i : Nat) (c : Core) : (s.setCore i c).agenda = s.agenda := rfl
@[simp] theorem State.setCore_cur (s : State) (i : Nat) (c : Core) : (s.setCore i c).cur = s.cur := rfl
@[simp] theorem State.setCore_mem (s : State) (i : Nat) (c : Core) : (s.setCore i c).mem = s.mem := rfl
@[simp] theorem State.setCore_keys (s : State) (i : Nat) (c : Core) : (s.setCore i c).keys = s.keys := rfl
@[simp] theorem State.setCore_poison (s : State) (i : Nat) (c : Core) : (s.setCore i c).poison = s.poison := rfl
@[simp] theorem State.setCore_durable (s : State) (i : Nat) (c : Core) : (s.setCore i c).durable = s.durable := rfl
@[simp] theorem State.setCore_durableBase (s : State) (i : Nat) (c : Core) : (s.setCore i c).durableBase = s.durableBase := rfl
@[simp] theorem State.setCore_hdm (s : State) (i : Nat) (c : Core) : (s.setCore i c).hdm = s.hdm := rfl
@[simp] theorem State.setCore_present (s : State) (i : Nat) (c : Core) : (s.setCore i c).present = s.present := rfl
@[simp] theorem State.setCore_closedPorts (s : State) (i : Nat) (c : Core) : (s.setCore i c).closedPorts = s.closedPorts := rfl
@[simp] theorem State.setCore_downLinks (s : State) (i : Nat) (c : Core) : (s.setCore i c).downLinks = s.downLinks := rfl
@[simp] theorem State.setCore_resetCause (s : State) (i : Nat) (c : Core) : (s.setCore i c).resetCause = s.resetCause := rfl
@[simp] theorem State.setCore_crossings (s : State) (i : Nat) (c : Core) : (s.setCore i c).crossings = s.crossings := rfl
@[simp] theorem State.setCore_formats (s : State) (i : Nat) (c : Core) : (s.setCore i c).formats = s.formats := rfl
@[simp] theorem State.setCore_fuses (s : State) (i : Nat) (c : Core) : (s.setCore i c).fuses = s.fuses := rfl
@[simp] theorem State.setCore_rollback (s : State) (i : Nat) (c : Core) : (s.setCore i c).rollback = s.rollback := rfl
@[simp] theorem State.setCore_firmware (s : State) (i : Nat) (c : Core) : (s.setCore i c).firmware = s.firmware := rfl
@[simp] theorem State.setCore_worlds (s : State) (i : Nat) (c : Core) : (s.setCore i c).worlds = s.worlds := rfl
@[simp] theorem State.setCore_identities (s : State) (i : Nat) (c : Core) : (s.setCore i c).identities = s.identities := rfl
@[simp] theorem State.setCore_asids (s : State) (i : Nat) (c : Core) : (s.setCore i c).asids = s.asids := rfl
@[simp] theorem State.setCore_peers (s : State) (i : Nat) (c : Core) : (s.setCore i c).peers = s.peers := rfl
@[simp] theorem State.setCore_clusterTlb (s : State) (i : Nat) (c : Core) : (s.setCore i c).clusterTlb = s.clusterTlb := rfl
@[simp] theorem State.setCore_wheels (s : State) (i : Nat) (c : Core) : (s.setCore i c).wheels = s.wheels := rfl
@[simp] theorem State.setCore_scanSlots (s : State) (i : Nat) (c : Core) : (s.setCore i c).scanSlots = s.scanSlots := rfl
@[simp] theorem State.setCore_classHolders (s : State) (i : Nat) (c : Core) : (s.setCore i c).classHolders = s.classHolders := rfl
@[simp] theorem State.setCore_steps (s : State) (i : Nat) (c : Core) : (s.setCore i c).steps = s.steps := rfl
@[simp] theorem State.setCore_mode (s : State) (i : Nat) (c : Core) : (s.setCore i c).mode = s.mode := rfl
@[simp] theorem State.setCore_ifaces (s : State) (i : Nat) (c : Core) : (s.setCore i c).ifaces = s.ifaces := rfl
@[simp] theorem State.setCore_rotations (s : State) (i : Nat) (c : Core) : (s.setCore i c).rotations = s.rotations := rfl
@[simp] theorem State.setCore_ropes (s : State) (i : Nat) (c : Core) : (s.setCore i c).ropes = s.ropes := rfl
@[simp] theorem State.setCore_store (s : State) (i : Nat) (c : Core) : (s.setCore i c).store = s.store := rfl
@[simp] theorem State.setCore_regionTags (s : State) (i : Nat) (c : Core) : (s.setCore i c).regionTags = s.regionTags := rfl
@[simp] theorem State.setCore_allocNext (s : State) (i : Nat) (c : Core) : (s.setCore i c).allocNext = s.allocNext := rfl
@[simp] theorem State.setCore_errors (s : State) (i : Nat) (c : Core) : (s.setCore i c).errors = s.errors := rfl
@[simp] theorem State.setCore_outgoing (s : State) (i : Nat) (c : Core) : (s.setCore i c).outgoing = s.outgoing := rfl
@[simp] theorem State.setCore_replies (s : State) (i : Nat) (c : Core) : (s.setCore i c).replies = s.replies := rfl
@[simp] theorem State.setCore_hostReplies (s : State) (i : Nat) (c : Core) : (s.setCore i c).hostReplies = s.hostReplies := rfl
@[simp] theorem State.setCore_signalRecords (s : State) (i : Nat) (c : Core) : (s.setCore i c).signalRecords = s.signalRecords := rfl
@[simp] theorem State.setCore_waitingSignals (s : State) (i : Nat) (c : Core) : (s.setCore i c).waitingSignals = s.waitingSignals := rfl
@[simp] theorem State.setCore_applied (s : State) (i : Nat) (c : Core) : (s.setCore i c).applied = s.applied := rfl
@[simp] theorem State.setCore_requests (s : State) (i : Nat) (c : Core) : (s.setCore i c).requests = s.requests := rfl
@[simp] theorem State.setCore_captures (s : State) (i : Nat) (c : Core) : (s.setCore i c).captures = s.captures := rfl
@[simp] theorem State.setCore_stepGtc (s : State) (i : Nat) (c : Core) : (s.setCore i c).stepGtc = s.stepGtc := rfl
@[simp] theorem State.setCore_ownWrites (s : State) (i : Nat) (c : Core) : (s.setCore i c).ownWrites = s.ownWrites := rfl
@[simp] theorem State.setCore_phaseWrites (s : State) (i : Nat) (c : Core) : (s.setCore i c).phaseWrites = s.phaseWrites := rfl
@[simp] theorem State.setCore_tainted (s : State) (i : Nat) (c : Core) : (s.setCore i c).tainted = s.tainted := rfl
@[simp] theorem State.setCore_cores (s : State) (i : Nat) (c : Core) : (s.setCore i c).cores = insert s.cores i c := rfl
@[simp] theorem State.setCore_moved (s : State) (i : Nat) (c : Core) : (s.setCore i c).moved = s.moved := rfl
@[simp] theorem State.setCore_boots (s : State) (i : Nat) (c : Core) : (s.setCore i c).boots = s.boots := rfl
@[simp] theorem State.setCore_disabled (s : State) (i : Nat) (c : Core) : (s.setCore i c).disabled = s.disabled := rfl
@[simp] theorem State.setCore_i3c (s : State) (i : Nat) (c : Core) : (s.setCore i c).i3c = s.i3c := rfl

@[simp] theorem State.setHere_powered (s : State) (c : Core) : (s.setHere c).powered = s.powered := rfl
@[simp] theorem State.setHere_started (s : State) (c : Core) : (s.setHere c).started = s.started := rfl
@[simp] theorem State.setHere_pwrgd (s : State) (c : Core) : (s.setHere c).pwrgd = s.pwrgd := rfl
@[simp] theorem State.setHere_alert (s : State) (c : Core) : (s.setHere c).alert = s.alert := rfl
@[simp] theorem State.setHere_degraded (s : State) (c : Core) : (s.setHere c).degraded = s.degraded := rfl
@[simp] theorem State.setHere_gtc (s : State) (c : Core) : (s.setHere c).gtc = s.gtc := rfl
@[simp] theorem State.setHere_free (s : State) (c : Core) : (s.setHere c).free = s.free := rfl
@[simp] theorem State.setHere_serial (s : State) (c : Core) : (s.setHere c).serial = s.serial := rfl
@[simp] theorem State.setHere_agenda (s : State) (c : Core) : (s.setHere c).agenda = s.agenda := rfl
@[simp] theorem State.setHere_cur (s : State) (c : Core) : (s.setHere c).cur = s.cur := rfl
@[simp] theorem State.setHere_mem (s : State) (c : Core) : (s.setHere c).mem = s.mem := rfl
@[simp] theorem State.setHere_keys (s : State) (c : Core) : (s.setHere c).keys = s.keys := rfl
@[simp] theorem State.setHere_poison (s : State) (c : Core) : (s.setHere c).poison = s.poison := rfl
@[simp] theorem State.setHere_durable (s : State) (c : Core) : (s.setHere c).durable = s.durable := rfl
@[simp] theorem State.setHere_durableBase (s : State) (c : Core) : (s.setHere c).durableBase = s.durableBase := rfl
@[simp] theorem State.setHere_hdm (s : State) (c : Core) : (s.setHere c).hdm = s.hdm := rfl
@[simp] theorem State.setHere_present (s : State) (c : Core) : (s.setHere c).present = s.present := rfl
@[simp] theorem State.setHere_closedPorts (s : State) (c : Core) : (s.setHere c).closedPorts = s.closedPorts := rfl
@[simp] theorem State.setHere_downLinks (s : State) (c : Core) : (s.setHere c).downLinks = s.downLinks := rfl
@[simp] theorem State.setHere_resetCause (s : State) (c : Core) : (s.setHere c).resetCause = s.resetCause := rfl
@[simp] theorem State.setHere_crossings (s : State) (c : Core) : (s.setHere c).crossings = s.crossings := rfl
@[simp] theorem State.setHere_formats (s : State) (c : Core) : (s.setHere c).formats = s.formats := rfl
@[simp] theorem State.setHere_fuses (s : State) (c : Core) : (s.setHere c).fuses = s.fuses := rfl
@[simp] theorem State.setHere_rollback (s : State) (c : Core) : (s.setHere c).rollback = s.rollback := rfl
@[simp] theorem State.setHere_firmware (s : State) (c : Core) : (s.setHere c).firmware = s.firmware := rfl
@[simp] theorem State.setHere_worlds (s : State) (c : Core) : (s.setHere c).worlds = s.worlds := rfl
@[simp] theorem State.setHere_identities (s : State) (c : Core) : (s.setHere c).identities = s.identities := rfl
@[simp] theorem State.setHere_asids (s : State) (c : Core) : (s.setHere c).asids = s.asids := rfl
@[simp] theorem State.setHere_peers (s : State) (c : Core) : (s.setHere c).peers = s.peers := rfl
@[simp] theorem State.setHere_clusterTlb (s : State) (c : Core) : (s.setHere c).clusterTlb = s.clusterTlb := rfl
@[simp] theorem State.setHere_wheels (s : State) (c : Core) : (s.setHere c).wheels = s.wheels := rfl
@[simp] theorem State.setHere_scanSlots (s : State) (c : Core) : (s.setHere c).scanSlots = s.scanSlots := rfl
@[simp] theorem State.setHere_classHolders (s : State) (c : Core) : (s.setHere c).classHolders = s.classHolders := rfl
@[simp] theorem State.setHere_steps (s : State) (c : Core) : (s.setHere c).steps = s.steps := rfl
@[simp] theorem State.setHere_mode (s : State) (c : Core) : (s.setHere c).mode = s.mode := rfl
@[simp] theorem State.setHere_ifaces (s : State) (c : Core) : (s.setHere c).ifaces = s.ifaces := rfl
@[simp] theorem State.setHere_rotations (s : State) (c : Core) : (s.setHere c).rotations = s.rotations := rfl
@[simp] theorem State.setHere_ropes (s : State) (c : Core) : (s.setHere c).ropes = s.ropes := rfl
@[simp] theorem State.setHere_store (s : State) (c : Core) : (s.setHere c).store = s.store := rfl
@[simp] theorem State.setHere_regionTags (s : State) (c : Core) : (s.setHere c).regionTags = s.regionTags := rfl
@[simp] theorem State.setHere_allocNext (s : State) (c : Core) : (s.setHere c).allocNext = s.allocNext := rfl
@[simp] theorem State.setHere_errors (s : State) (c : Core) : (s.setHere c).errors = s.errors := rfl
@[simp] theorem State.setHere_outgoing (s : State) (c : Core) : (s.setHere c).outgoing = s.outgoing := rfl
@[simp] theorem State.setHere_replies (s : State) (c : Core) : (s.setHere c).replies = s.replies := rfl
@[simp] theorem State.setHere_hostReplies (s : State) (c : Core) : (s.setHere c).hostReplies = s.hostReplies := rfl
@[simp] theorem State.setHere_signalRecords (s : State) (c : Core) : (s.setHere c).signalRecords = s.signalRecords := rfl
@[simp] theorem State.setHere_waitingSignals (s : State) (c : Core) : (s.setHere c).waitingSignals = s.waitingSignals := rfl
@[simp] theorem State.setHere_applied (s : State) (c : Core) : (s.setHere c).applied = s.applied := rfl
@[simp] theorem State.setHere_requests (s : State) (c : Core) : (s.setHere c).requests = s.requests := rfl
@[simp] theorem State.setHere_captures (s : State) (c : Core) : (s.setHere c).captures = s.captures := rfl
@[simp] theorem State.setHere_stepGtc (s : State) (c : Core) : (s.setHere c).stepGtc = s.stepGtc := rfl
@[simp] theorem State.setHere_ownWrites (s : State) (c : Core) : (s.setHere c).ownWrites = s.ownWrites := rfl
@[simp] theorem State.setHere_phaseWrites (s : State) (c : Core) : (s.setHere c).phaseWrites = s.phaseWrites := rfl
@[simp] theorem State.setHere_tainted (s : State) (c : Core) : (s.setHere c).tainted = s.tainted := rfl
@[simp] theorem State.setHere_cores (s : State) (c : Core) : (s.setHere c).cores = insert s.cores s.cur.core c := rfl
@[simp] theorem State.setHere_moved (s : State) (c : Core) : (s.setHere c).moved = s.moved := rfl
@[simp] theorem State.setHere_boots (s : State) (c : Core) : (s.setHere c).boots = s.boots := rfl
@[simp] theorem State.setHere_disabled (s : State) (c : Core) : (s.setHere c).disabled = s.disabled := rfl
@[simp] theorem State.setHere_i3c (s : State) (c : Core) : (s.setHere c).i3c = s.i3c := rfl

@[simp] theorem State.onCore_powered (s : State) (i : Nat) (f : Core → Core) : (s.onCore i f).powered = s.powered := rfl
@[simp] theorem State.onCore_started (s : State) (i : Nat) (f : Core → Core) : (s.onCore i f).started = s.started := rfl
@[simp] theorem State.onCore_pwrgd (s : State) (i : Nat) (f : Core → Core) : (s.onCore i f).pwrgd = s.pwrgd := rfl
@[simp] theorem State.onCore_alert (s : State) (i : Nat) (f : Core → Core) : (s.onCore i f).alert = s.alert := rfl
@[simp] theorem State.onCore_degraded (s : State) (i : Nat) (f : Core → Core) : (s.onCore i f).degraded = s.degraded := rfl
@[simp] theorem State.onCore_gtc (s : State) (i : Nat) (f : Core → Core) : (s.onCore i f).gtc = s.gtc := rfl
@[simp] theorem State.onCore_free (s : State) (i : Nat) (f : Core → Core) : (s.onCore i f).free = s.free := rfl
@[simp] theorem State.onCore_serial (s : State) (i : Nat) (f : Core → Core) : (s.onCore i f).serial = s.serial := rfl
@[simp] theorem State.onCore_agenda (s : State) (i : Nat) (f : Core → Core) : (s.onCore i f).agenda = s.agenda := rfl
@[simp] theorem State.onCore_cur (s : State) (i : Nat) (f : Core → Core) : (s.onCore i f).cur = s.cur := rfl
@[simp] theorem State.onCore_mem (s : State) (i : Nat) (f : Core → Core) : (s.onCore i f).mem = s.mem := rfl
@[simp] theorem State.onCore_keys (s : State) (i : Nat) (f : Core → Core) : (s.onCore i f).keys = s.keys := rfl
@[simp] theorem State.onCore_poison (s : State) (i : Nat) (f : Core → Core) : (s.onCore i f).poison = s.poison := rfl
@[simp] theorem State.onCore_durable (s : State) (i : Nat) (f : Core → Core) : (s.onCore i f).durable = s.durable := rfl
@[simp] theorem State.onCore_durableBase (s : State) (i : Nat) (f : Core → Core) : (s.onCore i f).durableBase = s.durableBase := rfl
@[simp] theorem State.onCore_hdm (s : State) (i : Nat) (f : Core → Core) : (s.onCore i f).hdm = s.hdm := rfl
@[simp] theorem State.onCore_present (s : State) (i : Nat) (f : Core → Core) : (s.onCore i f).present = s.present := rfl
@[simp] theorem State.onCore_closedPorts (s : State) (i : Nat) (f : Core → Core) : (s.onCore i f).closedPorts = s.closedPorts := rfl
@[simp] theorem State.onCore_downLinks (s : State) (i : Nat) (f : Core → Core) : (s.onCore i f).downLinks = s.downLinks := rfl
@[simp] theorem State.onCore_resetCause (s : State) (i : Nat) (f : Core → Core) : (s.onCore i f).resetCause = s.resetCause := rfl
@[simp] theorem State.onCore_crossings (s : State) (i : Nat) (f : Core → Core) : (s.onCore i f).crossings = s.crossings := rfl
@[simp] theorem State.onCore_formats (s : State) (i : Nat) (f : Core → Core) : (s.onCore i f).formats = s.formats := rfl
@[simp] theorem State.onCore_fuses (s : State) (i : Nat) (f : Core → Core) : (s.onCore i f).fuses = s.fuses := rfl
@[simp] theorem State.onCore_rollback (s : State) (i : Nat) (f : Core → Core) : (s.onCore i f).rollback = s.rollback := rfl
@[simp] theorem State.onCore_firmware (s : State) (i : Nat) (f : Core → Core) : (s.onCore i f).firmware = s.firmware := rfl
@[simp] theorem State.onCore_worlds (s : State) (i : Nat) (f : Core → Core) : (s.onCore i f).worlds = s.worlds := rfl
@[simp] theorem State.onCore_identities (s : State) (i : Nat) (f : Core → Core) : (s.onCore i f).identities = s.identities := rfl
@[simp] theorem State.onCore_asids (s : State) (i : Nat) (f : Core → Core) : (s.onCore i f).asids = s.asids := rfl
@[simp] theorem State.onCore_peers (s : State) (i : Nat) (f : Core → Core) : (s.onCore i f).peers = s.peers := rfl
@[simp] theorem State.onCore_clusterTlb (s : State) (i : Nat) (f : Core → Core) : (s.onCore i f).clusterTlb = s.clusterTlb := rfl
@[simp] theorem State.onCore_wheels (s : State) (i : Nat) (f : Core → Core) : (s.onCore i f).wheels = s.wheels := rfl
@[simp] theorem State.onCore_scanSlots (s : State) (i : Nat) (f : Core → Core) : (s.onCore i f).scanSlots = s.scanSlots := rfl
@[simp] theorem State.onCore_classHolders (s : State) (i : Nat) (f : Core → Core) : (s.onCore i f).classHolders = s.classHolders := rfl
@[simp] theorem State.onCore_steps (s : State) (i : Nat) (f : Core → Core) : (s.onCore i f).steps = s.steps := rfl
@[simp] theorem State.onCore_mode (s : State) (i : Nat) (f : Core → Core) : (s.onCore i f).mode = s.mode := rfl
@[simp] theorem State.onCore_ifaces (s : State) (i : Nat) (f : Core → Core) : (s.onCore i f).ifaces = s.ifaces := rfl
@[simp] theorem State.onCore_rotations (s : State) (i : Nat) (f : Core → Core) : (s.onCore i f).rotations = s.rotations := rfl
@[simp] theorem State.onCore_ropes (s : State) (i : Nat) (f : Core → Core) : (s.onCore i f).ropes = s.ropes := rfl
@[simp] theorem State.onCore_store (s : State) (i : Nat) (f : Core → Core) : (s.onCore i f).store = s.store := rfl
@[simp] theorem State.onCore_regionTags (s : State) (i : Nat) (f : Core → Core) : (s.onCore i f).regionTags = s.regionTags := rfl
@[simp] theorem State.onCore_allocNext (s : State) (i : Nat) (f : Core → Core) : (s.onCore i f).allocNext = s.allocNext := rfl
@[simp] theorem State.onCore_errors (s : State) (i : Nat) (f : Core → Core) : (s.onCore i f).errors = s.errors := rfl
@[simp] theorem State.onCore_outgoing (s : State) (i : Nat) (f : Core → Core) : (s.onCore i f).outgoing = s.outgoing := rfl
@[simp] theorem State.onCore_replies (s : State) (i : Nat) (f : Core → Core) : (s.onCore i f).replies = s.replies := rfl
@[simp] theorem State.onCore_hostReplies (s : State) (i : Nat) (f : Core → Core) : (s.onCore i f).hostReplies = s.hostReplies := rfl
@[simp] theorem State.onCore_signalRecords (s : State) (i : Nat) (f : Core → Core) : (s.onCore i f).signalRecords = s.signalRecords := rfl
@[simp] theorem State.onCore_waitingSignals (s : State) (i : Nat) (f : Core → Core) : (s.onCore i f).waitingSignals = s.waitingSignals := rfl
@[simp] theorem State.onCore_applied (s : State) (i : Nat) (f : Core → Core) : (s.onCore i f).applied = s.applied := rfl
@[simp] theorem State.onCore_requests (s : State) (i : Nat) (f : Core → Core) : (s.onCore i f).requests = s.requests := rfl
@[simp] theorem State.onCore_captures (s : State) (i : Nat) (f : Core → Core) : (s.onCore i f).captures = s.captures := rfl
@[simp] theorem State.onCore_stepGtc (s : State) (i : Nat) (f : Core → Core) : (s.onCore i f).stepGtc = s.stepGtc := rfl
@[simp] theorem State.onCore_ownWrites (s : State) (i : Nat) (f : Core → Core) : (s.onCore i f).ownWrites = s.ownWrites := rfl
@[simp] theorem State.onCore_phaseWrites (s : State) (i : Nat) (f : Core → Core) : (s.onCore i f).phaseWrites = s.phaseWrites := rfl
@[simp] theorem State.onCore_tainted (s : State) (i : Nat) (f : Core → Core) : (s.onCore i f).tainted = s.tainted := rfl
@[simp] theorem State.onCore_cores (s : State) (i : Nat) (f : Core → Core) : (s.onCore i f).cores = insert s.cores i (f (s.core i)) := rfl
@[simp] theorem State.onCore_moved (s : State) (i : Nat) (f : Core → Core) : (s.onCore i f).moved = s.moved := rfl
@[simp] theorem State.onCore_boots (s : State) (i : Nat) (f : Core → Core) : (s.onCore i f).boots = s.boots := rfl
@[simp] theorem State.onCore_disabled (s : State) (i : Nat) (f : Core → Core) : (s.onCore i f).disabled = s.disabled := rfl
@[simp] theorem State.onCore_i3c (s : State) (i : Nat) (f : Core → Core) : (s.onCore i f).i3c = s.i3c := rfl

@[simp] theorem State.setIface_powered (s : State) (n : Nat) (i : Iface) : (s.setIface n i).powered = s.powered := rfl
@[simp] theorem State.setIface_started (s : State) (n : Nat) (i : Iface) : (s.setIface n i).started = s.started := rfl
@[simp] theorem State.setIface_pwrgd (s : State) (n : Nat) (i : Iface) : (s.setIface n i).pwrgd = s.pwrgd := rfl
@[simp] theorem State.setIface_alert (s : State) (n : Nat) (i : Iface) : (s.setIface n i).alert = s.alert := rfl
@[simp] theorem State.setIface_degraded (s : State) (n : Nat) (i : Iface) : (s.setIface n i).degraded = s.degraded := rfl
@[simp] theorem State.setIface_gtc (s : State) (n : Nat) (i : Iface) : (s.setIface n i).gtc = s.gtc := rfl
@[simp] theorem State.setIface_free (s : State) (n : Nat) (i : Iface) : (s.setIface n i).free = s.free := rfl
@[simp] theorem State.setIface_serial (s : State) (n : Nat) (i : Iface) : (s.setIface n i).serial = s.serial := rfl
@[simp] theorem State.setIface_agenda (s : State) (n : Nat) (i : Iface) : (s.setIface n i).agenda = s.agenda := rfl
@[simp] theorem State.setIface_cur (s : State) (n : Nat) (i : Iface) : (s.setIface n i).cur = s.cur := rfl
@[simp] theorem State.setIface_mem (s : State) (n : Nat) (i : Iface) : (s.setIface n i).mem = s.mem := rfl
@[simp] theorem State.setIface_keys (s : State) (n : Nat) (i : Iface) : (s.setIface n i).keys = s.keys := rfl
@[simp] theorem State.setIface_poison (s : State) (n : Nat) (i : Iface) : (s.setIface n i).poison = s.poison := rfl
@[simp] theorem State.setIface_durable (s : State) (n : Nat) (i : Iface) : (s.setIface n i).durable = s.durable := rfl
@[simp] theorem State.setIface_durableBase (s : State) (n : Nat) (i : Iface) : (s.setIface n i).durableBase = s.durableBase := rfl
@[simp] theorem State.setIface_hdm (s : State) (n : Nat) (i : Iface) : (s.setIface n i).hdm = s.hdm := rfl
@[simp] theorem State.setIface_present (s : State) (n : Nat) (i : Iface) : (s.setIface n i).present = s.present := rfl
@[simp] theorem State.setIface_closedPorts (s : State) (n : Nat) (i : Iface) : (s.setIface n i).closedPorts = s.closedPorts := rfl
@[simp] theorem State.setIface_downLinks (s : State) (n : Nat) (i : Iface) : (s.setIface n i).downLinks = s.downLinks := rfl
@[simp] theorem State.setIface_resetCause (s : State) (n : Nat) (i : Iface) : (s.setIface n i).resetCause = s.resetCause := rfl
@[simp] theorem State.setIface_crossings (s : State) (n : Nat) (i : Iface) : (s.setIface n i).crossings = s.crossings := rfl
@[simp] theorem State.setIface_formats (s : State) (n : Nat) (i : Iface) : (s.setIface n i).formats = s.formats := rfl
@[simp] theorem State.setIface_fuses (s : State) (n : Nat) (i : Iface) : (s.setIface n i).fuses = s.fuses := rfl
@[simp] theorem State.setIface_rollback (s : State) (n : Nat) (i : Iface) : (s.setIface n i).rollback = s.rollback := rfl
@[simp] theorem State.setIface_firmware (s : State) (n : Nat) (i : Iface) : (s.setIface n i).firmware = s.firmware := rfl
@[simp] theorem State.setIface_worlds (s : State) (n : Nat) (i : Iface) : (s.setIface n i).worlds = s.worlds := rfl
@[simp] theorem State.setIface_identities (s : State) (n : Nat) (i : Iface) : (s.setIface n i).identities = s.identities := rfl
@[simp] theorem State.setIface_asids (s : State) (n : Nat) (i : Iface) : (s.setIface n i).asids = s.asids := rfl
@[simp] theorem State.setIface_peers (s : State) (n : Nat) (i : Iface) : (s.setIface n i).peers = s.peers := rfl
@[simp] theorem State.setIface_clusterTlb (s : State) (n : Nat) (i : Iface) : (s.setIface n i).clusterTlb = s.clusterTlb := rfl
@[simp] theorem State.setIface_wheels (s : State) (n : Nat) (i : Iface) : (s.setIface n i).wheels = s.wheels := rfl
@[simp] theorem State.setIface_scanSlots (s : State) (n : Nat) (i : Iface) : (s.setIface n i).scanSlots = s.scanSlots := rfl
@[simp] theorem State.setIface_classHolders (s : State) (n : Nat) (i : Iface) : (s.setIface n i).classHolders = s.classHolders := rfl
@[simp] theorem State.setIface_steps (s : State) (n : Nat) (i : Iface) : (s.setIface n i).steps = s.steps := rfl
@[simp] theorem State.setIface_mode (s : State) (n : Nat) (i : Iface) : (s.setIface n i).mode = s.mode := rfl
@[simp] theorem State.setIface_rotations (s : State) (n : Nat) (i : Iface) : (s.setIface n i).rotations = s.rotations := rfl
@[simp] theorem State.setIface_ropes (s : State) (n : Nat) (i : Iface) : (s.setIface n i).ropes = s.ropes := rfl
@[simp] theorem State.setIface_cores (s : State) (n : Nat) (i : Iface) : (s.setIface n i).cores = s.cores := rfl
@[simp] theorem State.setIface_store (s : State) (n : Nat) (i : Iface) : (s.setIface n i).store = s.store := rfl
@[simp] theorem State.setIface_regionTags (s : State) (n : Nat) (i : Iface) : (s.setIface n i).regionTags = s.regionTags := rfl
@[simp] theorem State.setIface_allocNext (s : State) (n : Nat) (i : Iface) : (s.setIface n i).allocNext = s.allocNext := rfl
@[simp] theorem State.setIface_errors (s : State) (n : Nat) (i : Iface) : (s.setIface n i).errors = s.errors := rfl
@[simp] theorem State.setIface_outgoing (s : State) (n : Nat) (i : Iface) : (s.setIface n i).outgoing = s.outgoing := rfl
@[simp] theorem State.setIface_replies (s : State) (n : Nat) (i : Iface) : (s.setIface n i).replies = s.replies := rfl
@[simp] theorem State.setIface_hostReplies (s : State) (n : Nat) (i : Iface) : (s.setIface n i).hostReplies = s.hostReplies := rfl
@[simp] theorem State.setIface_signalRecords (s : State) (n : Nat) (i : Iface) : (s.setIface n i).signalRecords = s.signalRecords := rfl
@[simp] theorem State.setIface_waitingSignals (s : State) (n : Nat) (i : Iface) : (s.setIface n i).waitingSignals = s.waitingSignals := rfl
@[simp] theorem State.setIface_applied (s : State) (n : Nat) (i : Iface) : (s.setIface n i).applied = s.applied := rfl
@[simp] theorem State.setIface_requests (s : State) (n : Nat) (i : Iface) : (s.setIface n i).requests = s.requests := rfl
@[simp] theorem State.setIface_captures (s : State) (n : Nat) (i : Iface) : (s.setIface n i).captures = s.captures := rfl
@[simp] theorem State.setIface_stepGtc (s : State) (n : Nat) (i : Iface) : (s.setIface n i).stepGtc = s.stepGtc := rfl
@[simp] theorem State.setIface_ownWrites (s : State) (n : Nat) (i : Iface) : (s.setIface n i).ownWrites = s.ownWrites := rfl
@[simp] theorem State.setIface_phaseWrites (s : State) (n : Nat) (i : Iface) : (s.setIface n i).phaseWrites = s.phaseWrites := rfl
@[simp] theorem State.setIface_tainted (s : State) (n : Nat) (i : Iface) : (s.setIface n i).tainted = s.tainted := rfl
@[simp] theorem State.setIface_moved (s : State) (n : Nat) (i : Iface) : (s.setIface n i).moved = s.moved := rfl
@[simp] theorem State.setIface_ifaces (s : State) (n : Nat) (i : Iface) : (s.setIface n i).ifaces = insert s.ifaces n i := rfl
@[simp] theorem State.setIface_boots (s : State) (n : Nat) (i : Iface) : (s.setIface n i).boots = s.boots := rfl
@[simp] theorem State.setIface_disabled (s : State) (n : Nat) (i : Iface) : (s.setIface n i).disabled = s.disabled := rfl
@[simp] theorem State.setIface_i3c (s : State) (n : Nat) (i : Iface) : (s.setIface n i).i3c = s.i3c := rfl
@[simp] theorem State.onIface_powered (s : State) (n : Nat) (f : Iface → Iface) : (s.onIface n f).powered = s.powered := rfl
@[simp] theorem State.onIface_started (s : State) (n : Nat) (f : Iface → Iface) : (s.onIface n f).started = s.started := rfl
@[simp] theorem State.onIface_pwrgd (s : State) (n : Nat) (f : Iface → Iface) : (s.onIface n f).pwrgd = s.pwrgd := rfl
@[simp] theorem State.onIface_alert (s : State) (n : Nat) (f : Iface → Iface) : (s.onIface n f).alert = s.alert := rfl
@[simp] theorem State.onIface_degraded (s : State) (n : Nat) (f : Iface → Iface) : (s.onIface n f).degraded = s.degraded := rfl
@[simp] theorem State.onIface_gtc (s : State) (n : Nat) (f : Iface → Iface) : (s.onIface n f).gtc = s.gtc := rfl
@[simp] theorem State.onIface_free (s : State) (n : Nat) (f : Iface → Iface) : (s.onIface n f).free = s.free := rfl
@[simp] theorem State.onIface_serial (s : State) (n : Nat) (f : Iface → Iface) : (s.onIface n f).serial = s.serial := rfl
@[simp] theorem State.onIface_agenda (s : State) (n : Nat) (f : Iface → Iface) : (s.onIface n f).agenda = s.agenda := rfl
@[simp] theorem State.onIface_cur (s : State) (n : Nat) (f : Iface → Iface) : (s.onIface n f).cur = s.cur := rfl
@[simp] theorem State.onIface_mem (s : State) (n : Nat) (f : Iface → Iface) : (s.onIface n f).mem = s.mem := rfl
@[simp] theorem State.onIface_keys (s : State) (n : Nat) (f : Iface → Iface) : (s.onIface n f).keys = s.keys := rfl
@[simp] theorem State.onIface_poison (s : State) (n : Nat) (f : Iface → Iface) : (s.onIface n f).poison = s.poison := rfl
@[simp] theorem State.onIface_durable (s : State) (n : Nat) (f : Iface → Iface) : (s.onIface n f).durable = s.durable := rfl
@[simp] theorem State.onIface_durableBase (s : State) (n : Nat) (f : Iface → Iface) : (s.onIface n f).durableBase = s.durableBase := rfl
@[simp] theorem State.onIface_hdm (s : State) (n : Nat) (f : Iface → Iface) : (s.onIface n f).hdm = s.hdm := rfl
@[simp] theorem State.onIface_present (s : State) (n : Nat) (f : Iface → Iface) : (s.onIface n f).present = s.present := rfl
@[simp] theorem State.onIface_closedPorts (s : State) (n : Nat) (f : Iface → Iface) : (s.onIface n f).closedPorts = s.closedPorts := rfl
@[simp] theorem State.onIface_downLinks (s : State) (n : Nat) (f : Iface → Iface) : (s.onIface n f).downLinks = s.downLinks := rfl
@[simp] theorem State.onIface_resetCause (s : State) (n : Nat) (f : Iface → Iface) : (s.onIface n f).resetCause = s.resetCause := rfl
@[simp] theorem State.onIface_crossings (s : State) (n : Nat) (f : Iface → Iface) : (s.onIface n f).crossings = s.crossings := rfl
@[simp] theorem State.onIface_formats (s : State) (n : Nat) (f : Iface → Iface) : (s.onIface n f).formats = s.formats := rfl
@[simp] theorem State.onIface_fuses (s : State) (n : Nat) (f : Iface → Iface) : (s.onIface n f).fuses = s.fuses := rfl
@[simp] theorem State.onIface_rollback (s : State) (n : Nat) (f : Iface → Iface) : (s.onIface n f).rollback = s.rollback := rfl
@[simp] theorem State.onIface_firmware (s : State) (n : Nat) (f : Iface → Iface) : (s.onIface n f).firmware = s.firmware := rfl
@[simp] theorem State.onIface_worlds (s : State) (n : Nat) (f : Iface → Iface) : (s.onIface n f).worlds = s.worlds := rfl
@[simp] theorem State.onIface_identities (s : State) (n : Nat) (f : Iface → Iface) : (s.onIface n f).identities = s.identities := rfl
@[simp] theorem State.onIface_asids (s : State) (n : Nat) (f : Iface → Iface) : (s.onIface n f).asids = s.asids := rfl
@[simp] theorem State.onIface_peers (s : State) (n : Nat) (f : Iface → Iface) : (s.onIface n f).peers = s.peers := rfl
@[simp] theorem State.onIface_clusterTlb (s : State) (n : Nat) (f : Iface → Iface) : (s.onIface n f).clusterTlb = s.clusterTlb := rfl
@[simp] theorem State.onIface_wheels (s : State) (n : Nat) (f : Iface → Iface) : (s.onIface n f).wheels = s.wheels := rfl
@[simp] theorem State.onIface_scanSlots (s : State) (n : Nat) (f : Iface → Iface) : (s.onIface n f).scanSlots = s.scanSlots := rfl
@[simp] theorem State.onIface_classHolders (s : State) (n : Nat) (f : Iface → Iface) : (s.onIface n f).classHolders = s.classHolders := rfl
@[simp] theorem State.onIface_steps (s : State) (n : Nat) (f : Iface → Iface) : (s.onIface n f).steps = s.steps := rfl
@[simp] theorem State.onIface_mode (s : State) (n : Nat) (f : Iface → Iface) : (s.onIface n f).mode = s.mode := rfl
@[simp] theorem State.onIface_rotations (s : State) (n : Nat) (f : Iface → Iface) : (s.onIface n f).rotations = s.rotations := rfl
@[simp] theorem State.onIface_ropes (s : State) (n : Nat) (f : Iface → Iface) : (s.onIface n f).ropes = s.ropes := rfl
@[simp] theorem State.onIface_cores (s : State) (n : Nat) (f : Iface → Iface) : (s.onIface n f).cores = s.cores := rfl
@[simp] theorem State.onIface_store (s : State) (n : Nat) (f : Iface → Iface) : (s.onIface n f).store = s.store := rfl
@[simp] theorem State.onIface_regionTags (s : State) (n : Nat) (f : Iface → Iface) : (s.onIface n f).regionTags = s.regionTags := rfl
@[simp] theorem State.onIface_allocNext (s : State) (n : Nat) (f : Iface → Iface) : (s.onIface n f).allocNext = s.allocNext := rfl
@[simp] theorem State.onIface_errors (s : State) (n : Nat) (f : Iface → Iface) : (s.onIface n f).errors = s.errors := rfl
@[simp] theorem State.onIface_outgoing (s : State) (n : Nat) (f : Iface → Iface) : (s.onIface n f).outgoing = s.outgoing := rfl
@[simp] theorem State.onIface_replies (s : State) (n : Nat) (f : Iface → Iface) : (s.onIface n f).replies = s.replies := rfl
@[simp] theorem State.onIface_hostReplies (s : State) (n : Nat) (f : Iface → Iface) : (s.onIface n f).hostReplies = s.hostReplies := rfl
@[simp] theorem State.onIface_signalRecords (s : State) (n : Nat) (f : Iface → Iface) : (s.onIface n f).signalRecords = s.signalRecords := rfl
@[simp] theorem State.onIface_waitingSignals (s : State) (n : Nat) (f : Iface → Iface) : (s.onIface n f).waitingSignals = s.waitingSignals := rfl
@[simp] theorem State.onIface_applied (s : State) (n : Nat) (f : Iface → Iface) : (s.onIface n f).applied = s.applied := rfl
@[simp] theorem State.onIface_requests (s : State) (n : Nat) (f : Iface → Iface) : (s.onIface n f).requests = s.requests := rfl
@[simp] theorem State.onIface_captures (s : State) (n : Nat) (f : Iface → Iface) : (s.onIface n f).captures = s.captures := rfl
@[simp] theorem State.onIface_stepGtc (s : State) (n : Nat) (f : Iface → Iface) : (s.onIface n f).stepGtc = s.stepGtc := rfl
@[simp] theorem State.onIface_ownWrites (s : State) (n : Nat) (f : Iface → Iface) : (s.onIface n f).ownWrites = s.ownWrites := rfl
@[simp] theorem State.onIface_phaseWrites (s : State) (n : Nat) (f : Iface → Iface) : (s.onIface n f).phaseWrites = s.phaseWrites := rfl
@[simp] theorem State.onIface_tainted (s : State) (n : Nat) (f : Iface → Iface) : (s.onIface n f).tainted = s.tainted := rfl
@[simp] theorem State.onIface_moved (s : State) (n : Nat) (f : Iface → Iface) : (s.onIface n f).moved = s.moved := rfl
@[simp] theorem State.onIface_ifaces (s : State) (n : Nat) (f : Iface → Iface) : (s.onIface n f).ifaces = insert s.ifaces n (f (s.iface n)) := rfl
@[simp] theorem State.onIface_boots (s : State) (n : Nat) (f : Iface → Iface) : (s.onIface n f).boots = s.boots := rfl
@[simp] theorem State.onIface_disabled (s : State) (n : Nat) (f : Iface → Iface) : (s.onIface n f).disabled = s.disabled := rfl
@[simp] theorem State.onIface_i3c (s : State) (n : Nat) (f : Iface → Iface) : (s.onIface n f).i3c = s.i3c := rfl
@[simp] theorem State.setRope_powered (s : State) (r : Rope) : (s.setRope r).powered = s.powered := rfl
@[simp] theorem State.setRope_started (s : State) (r : Rope) : (s.setRope r).started = s.started := rfl
@[simp] theorem State.setRope_pwrgd (s : State) (r : Rope) : (s.setRope r).pwrgd = s.pwrgd := rfl
@[simp] theorem State.setRope_alert (s : State) (r : Rope) : (s.setRope r).alert = s.alert := rfl
@[simp] theorem State.setRope_degraded (s : State) (r : Rope) : (s.setRope r).degraded = s.degraded := rfl
@[simp] theorem State.setRope_gtc (s : State) (r : Rope) : (s.setRope r).gtc = s.gtc := rfl
@[simp] theorem State.setRope_free (s : State) (r : Rope) : (s.setRope r).free = s.free := rfl
@[simp] theorem State.setRope_serial (s : State) (r : Rope) : (s.setRope r).serial = s.serial := rfl
@[simp] theorem State.setRope_agenda (s : State) (r : Rope) : (s.setRope r).agenda = s.agenda := rfl
@[simp] theorem State.setRope_cur (s : State) (r : Rope) : (s.setRope r).cur = s.cur := rfl
@[simp] theorem State.setRope_mem (s : State) (r : Rope) : (s.setRope r).mem = s.mem := rfl
@[simp] theorem State.setRope_keys (s : State) (r : Rope) : (s.setRope r).keys = s.keys := rfl
@[simp] theorem State.setRope_poison (s : State) (r : Rope) : (s.setRope r).poison = s.poison := rfl
@[simp] theorem State.setRope_durable (s : State) (r : Rope) : (s.setRope r).durable = s.durable := rfl
@[simp] theorem State.setRope_durableBase (s : State) (r : Rope) : (s.setRope r).durableBase = s.durableBase := rfl
@[simp] theorem State.setRope_hdm (s : State) (r : Rope) : (s.setRope r).hdm = s.hdm := rfl
@[simp] theorem State.setRope_present (s : State) (r : Rope) : (s.setRope r).present = s.present := rfl
@[simp] theorem State.setRope_closedPorts (s : State) (r : Rope) : (s.setRope r).closedPorts = s.closedPorts := rfl
@[simp] theorem State.setRope_downLinks (s : State) (r : Rope) : (s.setRope r).downLinks = s.downLinks := rfl
@[simp] theorem State.setRope_resetCause (s : State) (r : Rope) : (s.setRope r).resetCause = s.resetCause := rfl
@[simp] theorem State.setRope_crossings (s : State) (r : Rope) : (s.setRope r).crossings = s.crossings := rfl
@[simp] theorem State.setRope_formats (s : State) (r : Rope) : (s.setRope r).formats = s.formats := rfl
@[simp] theorem State.setRope_fuses (s : State) (r : Rope) : (s.setRope r).fuses = s.fuses := rfl
@[simp] theorem State.setRope_rollback (s : State) (r : Rope) : (s.setRope r).rollback = s.rollback := rfl
@[simp] theorem State.setRope_firmware (s : State) (r : Rope) : (s.setRope r).firmware = s.firmware := rfl
@[simp] theorem State.setRope_worlds (s : State) (r : Rope) : (s.setRope r).worlds = s.worlds := rfl
@[simp] theorem State.setRope_identities (s : State) (r : Rope) : (s.setRope r).identities = s.identities := rfl
@[simp] theorem State.setRope_asids (s : State) (r : Rope) : (s.setRope r).asids = s.asids := rfl
@[simp] theorem State.setRope_peers (s : State) (r : Rope) : (s.setRope r).peers = s.peers := rfl
@[simp] theorem State.setRope_clusterTlb (s : State) (r : Rope) : (s.setRope r).clusterTlb = s.clusterTlb := rfl
@[simp] theorem State.setRope_wheels (s : State) (r : Rope) : (s.setRope r).wheels = s.wheels := rfl
@[simp] theorem State.setRope_scanSlots (s : State) (r : Rope) : (s.setRope r).scanSlots = s.scanSlots := rfl
@[simp] theorem State.setRope_classHolders (s : State) (r : Rope) : (s.setRope r).classHolders = s.classHolders := rfl
@[simp] theorem State.setRope_steps (s : State) (r : Rope) : (s.setRope r).steps = s.steps := rfl
@[simp] theorem State.setRope_mode (s : State) (r : Rope) : (s.setRope r).mode = s.mode := rfl
@[simp] theorem State.setRope_ifaces (s : State) (r : Rope) : (s.setRope r).ifaces = s.ifaces := rfl
@[simp] theorem State.setRope_rotations (s : State) (r : Rope) : (s.setRope r).rotations = s.rotations := rfl
@[simp] theorem State.setRope_cores (s : State) (r : Rope) : (s.setRope r).cores = s.cores := rfl
@[simp] theorem State.setRope_store (s : State) (r : Rope) : (s.setRope r).store = s.store := rfl
@[simp] theorem State.setRope_regionTags (s : State) (r : Rope) : (s.setRope r).regionTags = s.regionTags := rfl
@[simp] theorem State.setRope_allocNext (s : State) (r : Rope) : (s.setRope r).allocNext = s.allocNext := rfl
@[simp] theorem State.setRope_errors (s : State) (r : Rope) : (s.setRope r).errors = s.errors := rfl
@[simp] theorem State.setRope_outgoing (s : State) (r : Rope) : (s.setRope r).outgoing = s.outgoing := rfl
@[simp] theorem State.setRope_replies (s : State) (r : Rope) : (s.setRope r).replies = s.replies := rfl
@[simp] theorem State.setRope_hostReplies (s : State) (r : Rope) : (s.setRope r).hostReplies = s.hostReplies := rfl
@[simp] theorem State.setRope_signalRecords (s : State) (r : Rope) : (s.setRope r).signalRecords = s.signalRecords := rfl
@[simp] theorem State.setRope_waitingSignals (s : State) (r : Rope) : (s.setRope r).waitingSignals = s.waitingSignals := rfl
@[simp] theorem State.setRope_applied (s : State) (r : Rope) : (s.setRope r).applied = s.applied := rfl
@[simp] theorem State.setRope_requests (s : State) (r : Rope) : (s.setRope r).requests = s.requests := rfl
@[simp] theorem State.setRope_captures (s : State) (r : Rope) : (s.setRope r).captures = s.captures := rfl
@[simp] theorem State.setRope_stepGtc (s : State) (r : Rope) : (s.setRope r).stepGtc = s.stepGtc := rfl
@[simp] theorem State.setRope_ownWrites (s : State) (r : Rope) : (s.setRope r).ownWrites = s.ownWrites := rfl
@[simp] theorem State.setRope_phaseWrites (s : State) (r : Rope) : (s.setRope r).phaseWrites = s.phaseWrites := rfl
@[simp] theorem State.setRope_tainted (s : State) (r : Rope) : (s.setRope r).tainted = s.tainted := rfl
@[simp] theorem State.setRope_moved (s : State) (r : Rope) : (s.setRope r).moved = s.moved := rfl
@[simp] theorem State.setRope_ropes (s : State) (r : Rope) : (s.setRope r).ropes = s.ropes.map (fun x => if x.key == r.key then r else x) := rfl
@[simp] theorem State.setRope_boots (s : State) (r : Rope) : (s.setRope r).boots = s.boots := rfl
@[simp] theorem State.setRope_disabled (s : State) (r : Rope) : (s.setRope r).disabled = s.disabled := rfl
@[simp] theorem State.setRope_i3c (s : State) (r : Rope) : (s.setRope r).i3c = s.i3c := rfl
@[simp] theorem State.setWorld_powered (s : State) (w : Nat) (x : World) : (s.setWorld w x).powered = s.powered := rfl
@[simp] theorem State.setWorld_started (s : State) (w : Nat) (x : World) : (s.setWorld w x).started = s.started := rfl
@[simp] theorem State.setWorld_pwrgd (s : State) (w : Nat) (x : World) : (s.setWorld w x).pwrgd = s.pwrgd := rfl
@[simp] theorem State.setWorld_alert (s : State) (w : Nat) (x : World) : (s.setWorld w x).alert = s.alert := rfl
@[simp] theorem State.setWorld_degraded (s : State) (w : Nat) (x : World) : (s.setWorld w x).degraded = s.degraded := rfl
@[simp] theorem State.setWorld_gtc (s : State) (w : Nat) (x : World) : (s.setWorld w x).gtc = s.gtc := rfl
@[simp] theorem State.setWorld_free (s : State) (w : Nat) (x : World) : (s.setWorld w x).free = s.free := rfl
@[simp] theorem State.setWorld_serial (s : State) (w : Nat) (x : World) : (s.setWorld w x).serial = s.serial := rfl
@[simp] theorem State.setWorld_agenda (s : State) (w : Nat) (x : World) : (s.setWorld w x).agenda = s.agenda := rfl
@[simp] theorem State.setWorld_cur (s : State) (w : Nat) (x : World) : (s.setWorld w x).cur = s.cur := rfl
@[simp] theorem State.setWorld_mem (s : State) (w : Nat) (x : World) : (s.setWorld w x).mem = s.mem := rfl
@[simp] theorem State.setWorld_keys (s : State) (w : Nat) (x : World) : (s.setWorld w x).keys = s.keys := rfl
@[simp] theorem State.setWorld_poison (s : State) (w : Nat) (x : World) : (s.setWorld w x).poison = s.poison := rfl
@[simp] theorem State.setWorld_durable (s : State) (w : Nat) (x : World) : (s.setWorld w x).durable = s.durable := rfl
@[simp] theorem State.setWorld_durableBase (s : State) (w : Nat) (x : World) : (s.setWorld w x).durableBase = s.durableBase := rfl
@[simp] theorem State.setWorld_hdm (s : State) (w : Nat) (x : World) : (s.setWorld w x).hdm = s.hdm := rfl
@[simp] theorem State.setWorld_present (s : State) (w : Nat) (x : World) : (s.setWorld w x).present = s.present := rfl
@[simp] theorem State.setWorld_closedPorts (s : State) (w : Nat) (x : World) : (s.setWorld w x).closedPorts = s.closedPorts := rfl
@[simp] theorem State.setWorld_downLinks (s : State) (w : Nat) (x : World) : (s.setWorld w x).downLinks = s.downLinks := rfl
@[simp] theorem State.setWorld_resetCause (s : State) (w : Nat) (x : World) : (s.setWorld w x).resetCause = s.resetCause := rfl
@[simp] theorem State.setWorld_crossings (s : State) (w : Nat) (x : World) : (s.setWorld w x).crossings = s.crossings := rfl
@[simp] theorem State.setWorld_formats (s : State) (w : Nat) (x : World) : (s.setWorld w x).formats = s.formats := rfl
@[simp] theorem State.setWorld_fuses (s : State) (w : Nat) (x : World) : (s.setWorld w x).fuses = s.fuses := rfl
@[simp] theorem State.setWorld_rollback (s : State) (w : Nat) (x : World) : (s.setWorld w x).rollback = s.rollback := rfl
@[simp] theorem State.setWorld_firmware (s : State) (w : Nat) (x : World) : (s.setWorld w x).firmware = s.firmware := rfl
@[simp] theorem State.setWorld_identities (s : State) (w : Nat) (x : World) : (s.setWorld w x).identities = s.identities := rfl
@[simp] theorem State.setWorld_asids (s : State) (w : Nat) (x : World) : (s.setWorld w x).asids = s.asids := rfl
@[simp] theorem State.setWorld_peers (s : State) (w : Nat) (x : World) : (s.setWorld w x).peers = s.peers := rfl
@[simp] theorem State.setWorld_clusterTlb (s : State) (w : Nat) (x : World) : (s.setWorld w x).clusterTlb = s.clusterTlb := rfl
@[simp] theorem State.setWorld_wheels (s : State) (w : Nat) (x : World) : (s.setWorld w x).wheels = s.wheels := rfl
@[simp] theorem State.setWorld_scanSlots (s : State) (w : Nat) (x : World) : (s.setWorld w x).scanSlots = s.scanSlots := rfl
@[simp] theorem State.setWorld_classHolders (s : State) (w : Nat) (x : World) : (s.setWorld w x).classHolders = s.classHolders := rfl
@[simp] theorem State.setWorld_steps (s : State) (w : Nat) (x : World) : (s.setWorld w x).steps = s.steps := rfl
@[simp] theorem State.setWorld_mode (s : State) (w : Nat) (x : World) : (s.setWorld w x).mode = s.mode := rfl
@[simp] theorem State.setWorld_ifaces (s : State) (w : Nat) (x : World) : (s.setWorld w x).ifaces = s.ifaces := rfl
@[simp] theorem State.setWorld_rotations (s : State) (w : Nat) (x : World) : (s.setWorld w x).rotations = s.rotations := rfl
@[simp] theorem State.setWorld_ropes (s : State) (w : Nat) (x : World) : (s.setWorld w x).ropes = s.ropes := rfl
@[simp] theorem State.setWorld_cores (s : State) (w : Nat) (x : World) : (s.setWorld w x).cores = s.cores := rfl
@[simp] theorem State.setWorld_store (s : State) (w : Nat) (x : World) : (s.setWorld w x).store = s.store := rfl
@[simp] theorem State.setWorld_regionTags (s : State) (w : Nat) (x : World) : (s.setWorld w x).regionTags = s.regionTags := rfl
@[simp] theorem State.setWorld_allocNext (s : State) (w : Nat) (x : World) : (s.setWorld w x).allocNext = s.allocNext := rfl
@[simp] theorem State.setWorld_errors (s : State) (w : Nat) (x : World) : (s.setWorld w x).errors = s.errors := rfl
@[simp] theorem State.setWorld_outgoing (s : State) (w : Nat) (x : World) : (s.setWorld w x).outgoing = s.outgoing := rfl
@[simp] theorem State.setWorld_replies (s : State) (w : Nat) (x : World) : (s.setWorld w x).replies = s.replies := rfl
@[simp] theorem State.setWorld_hostReplies (s : State) (w : Nat) (x : World) : (s.setWorld w x).hostReplies = s.hostReplies := rfl
@[simp] theorem State.setWorld_signalRecords (s : State) (w : Nat) (x : World) : (s.setWorld w x).signalRecords = s.signalRecords := rfl
@[simp] theorem State.setWorld_waitingSignals (s : State) (w : Nat) (x : World) : (s.setWorld w x).waitingSignals = s.waitingSignals := rfl
@[simp] theorem State.setWorld_applied (s : State) (w : Nat) (x : World) : (s.setWorld w x).applied = s.applied := rfl
@[simp] theorem State.setWorld_requests (s : State) (w : Nat) (x : World) : (s.setWorld w x).requests = s.requests := rfl
@[simp] theorem State.setWorld_captures (s : State) (w : Nat) (x : World) : (s.setWorld w x).captures = s.captures := rfl
@[simp] theorem State.setWorld_stepGtc (s : State) (w : Nat) (x : World) : (s.setWorld w x).stepGtc = s.stepGtc := rfl
@[simp] theorem State.setWorld_ownWrites (s : State) (w : Nat) (x : World) : (s.setWorld w x).ownWrites = s.ownWrites := rfl
@[simp] theorem State.setWorld_phaseWrites (s : State) (w : Nat) (x : World) : (s.setWorld w x).phaseWrites = s.phaseWrites := rfl
@[simp] theorem State.setWorld_tainted (s : State) (w : Nat) (x : World) : (s.setWorld w x).tainted = s.tainted := rfl
@[simp] theorem State.setWorld_worlds (s : State) (w : Nat) (x : World) : (s.setWorld w x).worlds = insert s.worlds w x := rfl
@[simp] theorem State.setWorld_moved (s : State) (w : Nat) (x : World) : (s.setWorld w x).moved = s.moved := rfl
@[simp] theorem State.setWorld_boots (s : State) (w : Nat) (x : World) : (s.setWorld w x).boots = s.boots := rfl
@[simp] theorem State.setWorld_disabled (s : State) (w : Nat) (x : World) : (s.setWorld w x).disabled = s.disabled := rfl
@[simp] theorem State.setWorld_i3c (s : State) (w : Nat) (x : World) : (s.setWorld w x).i3c = s.i3c := rfl

/-! ## Updates of a core -/

@[simp] theorem Core.setReg_tag (c : Core) (r : Reg) (v : Word) : (c.setReg r v).tag = c.tag := by simp only [Core.setReg]; split <;> rfl
@[simp] theorem Core.setReg_rope (c : Core) (r : Reg) (v : Word) : (c.setReg r v).rope = c.rope := by simp only [Core.setReg]; split <;> rfl
@[simp] theorem Core.setReg_run (c : Core) (r : Reg) (v : Word) : (c.setReg r v).run = c.run := by simp only [Core.setReg]; split <;> rfl
@[simp] theorem Core.setReg_fenced (c : Core) (r : Reg) (v : Word) : (c.setReg r v).fenced = c.fenced := by simp only [Core.setReg]; split <;> rfl
@[simp] theorem Core.setReg_halted (c : Core) (r : Reg) (v : Word) : (c.setReg r v).halted = c.halted := by simp only [Core.setReg]; split <;> rfl
@[simp] theorem Core.setReg_stopped (c : Core) (r : Reg) (v : Word) : (c.setReg r v).stopped = c.stopped := by simp only [Core.setReg]; split <;> rfl
@[simp] theorem Core.setReg_b (c : Core) (r : Reg) (v : Word) : (c.setReg r v).b = c.b := by simp only [Core.setReg]; split <;> rfl
@[simp] theorem Core.setReg_pc (c : Core) (r : Reg) (v : Word) : (c.setReg r v).pc = c.pc := by simp only [Core.setReg]; split <;> rfl
@[simp] theorem Core.setReg_level (c : Core) (r : Reg) (v : Word) : (c.setReg r v).level = c.level := by simp only [Core.setReg]; split <;> rfl
@[simp] theorem Core.setReg_prev (c : Core) (r : Reg) (v : Word) : (c.setReg r v).prev = c.prev := by simp only [Core.setReg]; split <;> rfl
@[simp] theorem Core.setReg_handler (c : Core) (r : Reg) (v : Word) : (c.setReg r v).handler = c.handler := by simp only [Core.setReg]; split <;> rfl
@[simp] theorem Core.setReg_holdc (c : Core) (r : Reg) (v : Word) : (c.setReg r v).holdc = c.holdc := by simp only [Core.setReg]; split <;> rfl
@[simp] theorem Core.setReg_stallc (c : Core) (r : Reg) (v : Word) : (c.setReg r v).stallc = c.stallc := by simp only [Core.setReg]; split <;> rfl
@[simp] theorem Core.setReg_katc (c : Core) (r : Reg) (v : Word) : (c.setReg r v).katc = c.katc := by simp only [Core.setReg]; split <;> rfl
@[simp] theorem Core.setReg_dom1 (c : Core) (r : Reg) (v : Word) : (c.setReg r v).dom1 = c.dom1 := by simp only [Core.setReg]; split <;> rfl
@[simp] theorem Core.setReg_dom2 (c : Core) (r : Reg) (v : Word) : (c.setReg r v).dom2 = c.dom2 := by simp only [Core.setReg]; split <;> rfl
@[simp] theorem Core.setReg_dom3 (c : Core) (r : Reg) (v : Word) : (c.setReg r v).dom3 = c.dom3 := by simp only [Core.setReg]; split <;> rfl
@[simp] theorem Core.setReg_dom4 (c : Core) (r : Reg) (v : Word) : (c.setReg r v).dom4 = c.dom4 := by simp only [Core.setReg]; split <;> rfl
@[simp] theorem Core.setReg_tvec (c : Core) (r : Reg) (v : Word) : (c.setReg r v).tvec = c.tvec := by simp only [Core.setReg]; split <;> rfl
@[simp] theorem Core.setReg_tcause (c : Core) (r : Reg) (v : Word) : (c.setReg r v).tcause = c.tcause := by simp only [Core.setReg]; split <;> rfl
@[simp] theorem Core.setReg_tpc (c : Core) (r : Reg) (v : Word) : (c.setReg r v).tpc = c.tpc := by simp only [Core.setReg]; split <;> rfl
@[simp] theorem Core.setReg_tval (c : Core) (r : Reg) (v : Word) : (c.setReg r v).tval = c.tval := by simp only [Core.setReg]; split <;> rfl
@[simp] theorem Core.setReg_tinfo (c : Core) (r : Reg) (v : Word) : (c.setReg r v).tinfo = c.tinfo := by simp only [Core.setReg]; split <;> rfl
@[simp] theorem Core.setReg_tsave (c : Core) (r : Reg) (v : Word) : (c.setReg r v).tsave = c.tsave := by simp only [Core.setReg]; split <;> rfl
@[simp] theorem Core.setReg_scom (c : Core) (r : Reg) (v : Word) : (c.setReg r v).scom = c.scom := by simp only [Core.setReg]; split <;> rfl
@[simp] theorem Core.setReg_shbase (c : Core) (r : Reg) (v : Word) : (c.setReg r v).shbase = c.shbase := by simp only [Core.setReg]; split <;> rfl
@[simp] theorem Core.setReg_shlim (c : Core) (r : Reg) (v : Word) : (c.setReg r v).shlim = c.shlim := by simp only [Core.setReg]; split <;> rfl
@[simp] theorem Core.setReg_dbgc (c : Core) (r : Reg) (v : Word) : (c.setReg r v).dbgc = c.dbgc := by simp only [Core.setReg]; split <;> rfl
@[simp] theorem Core.setReg_dbga (c : Core) (r : Reg) (v : Word) : (c.setReg r v).dbga = c.dbga := by simp only [Core.setReg]; split <;> rfl
@[simp] theorem Core.setReg_vrb (c : Core) (r : Reg) (v : Word) : (c.setReg r v).vrb = c.vrb := by simp only [Core.setReg]; split <;> rfl
@[simp] theorem Core.setReg_fmtq (c : Core) (r : Reg) (v : Word) : (c.setReg r v).fmtq = c.fmtq := by simp only [Core.setReg]; split <;> rfl
@[simp] theorem Core.setReg_spill (c : Core) (r : Reg) (v : Word) : (c.setReg r v).spill = c.spill := by simp only [Core.setReg]; split <;> rfl
@[simp] theorem Core.setReg_tile (c : Core) (r : Reg) (v : Word) : (c.setReg r v).tile = c.tile := by simp only [Core.setReg]; split <;> rfl
@[simp] theorem Core.setReg_batt (c : Core) (r : Reg) (v : Word) : (c.setReg r v).batt = c.batt := by simp only [Core.setReg]; split <;> rfl
@[simp] theorem Core.setReg_im (c : Core) (r : Reg) (v : Word) : (c.setReg r v).im = c.im := by simp only [Core.setReg]; split <;> rfl
@[simp] theorem Core.setReg_codebooks (c : Core) (r : Reg) (v : Word) : (c.setReg r v).codebooks = c.codebooks := by simp only [Core.setReg]; split <;> rfl
@[simp] theorem Core.setReg_carder (c : Core) (r : Reg) (v : Word) : (c.setReg r v).carder = c.carder := by simp only [Core.setReg]; split <;> rfl
@[simp] theorem Core.setReg_planes (c : Core) (r : Reg) (v : Word) : (c.setReg r v).planes = c.planes := by simp only [Core.setReg]; split <;> rfl
@[simp] theorem Core.setReg_planeScales (c : Core) (r : Reg) (v : Word) : (c.setReg r v).planeScales = c.planeScales := by simp only [Core.setReg]; split <;> rfl
@[simp] theorem Core.setReg_active (c : Core) (r : Reg) (v : Word) : (c.setReg r v).active = c.active := by simp only [Core.setReg]; split <;> rfl
@[simp] theorem Core.setReg_planeUse (c : Core) (r : Reg) (v : Word) : (c.setReg r v).planeUse = c.planeUse := by simp only [Core.setReg]; split <;> rfl
@[simp] theorem Core.setReg_stream (c : Core) (r : Reg) (v : Word) : (c.setReg r v).stream = c.stream := by simp only [Core.setReg]; split <;> rfl
@[simp] theorem Core.setReg_used (c : Core) (r : Reg) (v : Word) : (c.setReg r v).used = c.used := by simp only [Core.setReg]; split <;> rfl
@[simp] theorem Core.setReg_east (c : Core) (r : Reg) (v : Word) : (c.setReg r v).east = c.east := by simp only [Core.setReg]; split <;> rfl
@[simp] theorem Core.setReg_south (c : Core) (r : Reg) (v : Word) : (c.setReg r v).south = c.south := by simp only [Core.setReg]; split <;> rfl
@[simp] theorem Core.setReg_mrf (c : Core) (r : Reg) (v : Word) : (c.setReg r v).mrf = c.mrf := by simp only [Core.setReg]; split <;> rfl
@[simp] theorem Core.setReg_vrf (c : Core) (r : Reg) (v : Word) : (c.setReg r v).vrf = c.vrf := by simp only [Core.setReg]; split <;> rfl
@[simp] theorem Core.setReg_preds (c : Core) (r : Reg) (v : Word) : (c.setReg r v).preds = c.preds := by simp only [Core.setReg]; split <;> rfl
@[simp] theorem Core.setReg_mstatus (c : Core) (r : Reg) (v : Word) : (c.setReg r v).mstatus = c.mstatus := by simp only [Core.setReg]; split <;> rfl
@[simp] theorem Core.setReg_vstatus (c : Core) (r : Reg) (v : Word) : (c.setReg r v).vstatus = c.vstatus := by simp only [Core.setReg]; split <;> rfl
@[simp] theorem Core.setReg_queues (c : Core) (r : Reg) (v : Word) : (c.setReg r v).queues = c.queues := by simp only [Core.setReg]; split <;> rfl
@[simp] theorem Core.setReg_flights (c : Core) (r : Reg) (v : Word) : (c.setReg r v).flights = c.flights := by simp only [Core.setReg]; split <;> rfl
@[simp] theorem Core.setReg_tokens (c : Core) (r : Reg) (v : Word) : (c.setReg r v).tokens = c.tokens := by simp only [Core.setReg]; split <;> rfl
@[simp] theorem Core.setReg_busy (c : Core) (r : Reg) (v : Word) : (c.setReg r v).busy = c.busy := by simp only [Core.setReg]; split <;> rfl
@[simp] theorem Core.setReg_sets (c : Core) (r : Reg) (v : Word) : (c.setReg r v).sets = c.sets := by simp only [Core.setReg]; split <;> rfl
@[simp] theorem Core.setReg_timed (c : Core) (r : Reg) (v : Word) : (c.setReg r v).timed = c.timed := by simp only [Core.setReg]; split <;> rfl
@[simp] theorem Core.setReg_starts (c : Core) (r : Reg) (v : Word) : (c.setReg r v).starts = c.starts := by simp only [Core.setReg]; split <;> rfl
@[simp] theorem Core.setReg_yields (c : Core) (r : Reg) (v : Word) : (c.setReg r v).yields = c.yields := by simp only [Core.setReg]; split <;> rfl
@[simp] theorem Core.setReg_yieldPcs (c : Core) (r : Reg) (v : Word) : (c.setReg r v).yieldPcs = c.yieldPcs := by simp only [Core.setReg]; split <;> rfl
@[simp] theorem Core.setReg_seq (c : Core) (r : Reg) (v : Word) : (c.setReg r v).seq = c.seq := by simp only [Core.setReg]; split <;> rfl
@[simp] theorem Core.setReg_fetched (c : Core) (r : Reg) (v : Word) : (c.setReg r v).fetched = c.fetched := by simp only [Core.setReg]; split <;> rfl
@[simp] theorem Core.setReg_fetching (c : Core) (r : Reg) (v : Word) : (c.setReg r v).fetching = c.fetching := by simp only [Core.setReg]; split <;> rfl
@[simp] theorem Core.setReg_replayable (c : Core) (r : Reg) (v : Word) : (c.setReg r v).replayable = c.replayable := by simp only [Core.setReg]; split <;> rfl
@[simp] theorem Core.setReg_restart (c : Core) (r : Reg) (v : Word) : (c.setReg r v).restart = c.restart := by simp only [Core.setReg]; split <;> rfl
@[simp] theorem Core.setReg_tlb (c : Core) (r : Reg) (v : Word) : (c.setReg r v).tlb = c.tlb := by simp only [Core.setReg]; split <;> rfl
@[simp] theorem Core.setReg_accesses (c : Core) (r : Reg) (v : Word) : (c.setReg r v).accesses = c.accesses := by simp only [Core.setReg]; split <;> rfl
@[simp] theorem Core.setReg_wfe (c : Core) (r : Reg) (v : Word) : (c.setReg r v).wfe = c.wfe := by simp only [Core.setReg]; split <;> rfl
@[simp] theorem Core.setReg_pending (c : Core) (r : Reg) (v : Word) : (c.setReg r v).pending = c.pending := by simp only [Core.setReg]; split <;> rfl
@[simp] theorem Core.setReg_dbgEvent (c : Core) (r : Reg) (v : Word) : (c.setReg r v).dbgEvent = c.dbgEvent := by simp only [Core.setReg]; split <;> rfl
@[simp] theorem Core.setReg_bars (c : Core) (r : Reg) (v : Word) : (c.setReg r v).bars = c.bars := by simp only [Core.setReg]; split <;> rfl
@[simp] theorem Core.setReg_signals (c : Core) (r : Reg) (v : Word) : (c.setReg r v).signals = c.signals := by simp only [Core.setReg]; split <;> rfl
@[simp] theorem Core.setReg_segments (c : Core) (r : Reg) (v : Word) : (c.setReg r v).segments = c.segments := by simp only [Core.setReg]; split <;> rfl
@[simp] theorem Core.setReg_scanTicks (c : Core) (r : Reg) (v : Word) : (c.setReg r v).scanTicks = c.scanTicks := by simp only [Core.setReg]; split <;> rfl
@[simp] theorem Core.setReg_scan (c : Core) (r : Reg) (v : Word) : (c.setReg r v).scan = c.scan := by simp only [Core.setReg]; split <;> rfl
@[simp] theorem Core.setReg_ports (c : Core) (r : Reg) (v : Word) : (c.setReg r v).ports = c.ports := by simp only [Core.setReg]; split <;> rfl
@[simp] theorem Core.setReg_moving (c : Core) (r : Reg) (v : Word) : (c.setReg r v).moving = c.moving := by simp only [Core.setReg]; split <;> rfl
@[simp] theorem Core.setReg_lacked (c : Core) (r : Reg) (v : Word) : (c.setReg r v).lacked = c.lacked := by simp only [Core.setReg]; split <;> rfl
@[simp] theorem Core.setReg_brkHit (c : Core) (r : Reg) (v : Word) : (c.setReg r v).brkHit = c.brkHit := by simp only [Core.setReg]; split <;> rfl
@[simp] theorem Core.setReg_haltIn (c : Core) (r : Reg) (v : Word) : (c.setReg r v).haltIn = c.haltIn := by simp only [Core.setReg]; split <;> rfl
@[simp] theorem Core.setReg_wrote (c : Core) (r : Reg) (v : Word) : (c.setReg r v).wrote = c.wrote := by simp only [Core.setReg]; split <;> rfl
@[simp] theorem Core.setReg_opens (c : Core) (r : Reg) (v : Word) : (c.setReg r v).opens = c.opens := by simp only [Core.setReg]; split <;> rfl
@[simp] theorem Core.setReg_inbox (c : Core) (r : Reg) (v : Word) : (c.setReg r v).inbox = c.inbox := by simp only [Core.setReg]; split <;> rfl
@[simp] theorem Core.setReg_portTime (c : Core) (r : Reg) (v : Word) : (c.setReg r v).portTime = c.portTime := by simp only [Core.setReg]; split <;> rfl
@[simp] theorem Core.setBreg_tag (c : Core) (r : BitVec 3) (v : Word) : (c.setBreg r v).tag = c.tag := rfl
@[simp] theorem Core.setBreg_rope (c : Core) (r : BitVec 3) (v : Word) : (c.setBreg r v).rope = c.rope := rfl
@[simp] theorem Core.setBreg_run (c : Core) (r : BitVec 3) (v : Word) : (c.setBreg r v).run = c.run := rfl
@[simp] theorem Core.setBreg_fenced (c : Core) (r : BitVec 3) (v : Word) : (c.setBreg r v).fenced = c.fenced := rfl
@[simp] theorem Core.setBreg_halted (c : Core) (r : BitVec 3) (v : Word) : (c.setBreg r v).halted = c.halted := rfl
@[simp] theorem Core.setBreg_stopped (c : Core) (r : BitVec 3) (v : Word) : (c.setBreg r v).stopped = c.stopped := rfl
@[simp] theorem Core.setBreg_s (c : Core) (r : BitVec 3) (v : Word) : (c.setBreg r v).s = c.s := rfl
@[simp] theorem Core.setBreg_pc (c : Core) (r : BitVec 3) (v : Word) : (c.setBreg r v).pc = c.pc := rfl
@[simp] theorem Core.setBreg_level (c : Core) (r : BitVec 3) (v : Word) : (c.setBreg r v).level = c.level := rfl
@[simp] theorem Core.setBreg_prev (c : Core) (r : BitVec 3) (v : Word) : (c.setBreg r v).prev = c.prev := rfl
@[simp] theorem Core.setBreg_handler (c : Core) (r : BitVec 3) (v : Word) : (c.setBreg r v).handler = c.handler := rfl
@[simp] theorem Core.setBreg_holdc (c : Core) (r : BitVec 3) (v : Word) : (c.setBreg r v).holdc = c.holdc := rfl
@[simp] theorem Core.setBreg_stallc (c : Core) (r : BitVec 3) (v : Word) : (c.setBreg r v).stallc = c.stallc := rfl
@[simp] theorem Core.setBreg_katc (c : Core) (r : BitVec 3) (v : Word) : (c.setBreg r v).katc = c.katc := rfl
@[simp] theorem Core.setBreg_dom1 (c : Core) (r : BitVec 3) (v : Word) : (c.setBreg r v).dom1 = c.dom1 := rfl
@[simp] theorem Core.setBreg_dom2 (c : Core) (r : BitVec 3) (v : Word) : (c.setBreg r v).dom2 = c.dom2 := rfl
@[simp] theorem Core.setBreg_dom3 (c : Core) (r : BitVec 3) (v : Word) : (c.setBreg r v).dom3 = c.dom3 := rfl
@[simp] theorem Core.setBreg_dom4 (c : Core) (r : BitVec 3) (v : Word) : (c.setBreg r v).dom4 = c.dom4 := rfl
@[simp] theorem Core.setBreg_tvec (c : Core) (r : BitVec 3) (v : Word) : (c.setBreg r v).tvec = c.tvec := rfl
@[simp] theorem Core.setBreg_tcause (c : Core) (r : BitVec 3) (v : Word) : (c.setBreg r v).tcause = c.tcause := rfl
@[simp] theorem Core.setBreg_tpc (c : Core) (r : BitVec 3) (v : Word) : (c.setBreg r v).tpc = c.tpc := rfl
@[simp] theorem Core.setBreg_tval (c : Core) (r : BitVec 3) (v : Word) : (c.setBreg r v).tval = c.tval := rfl
@[simp] theorem Core.setBreg_tinfo (c : Core) (r : BitVec 3) (v : Word) : (c.setBreg r v).tinfo = c.tinfo := rfl
@[simp] theorem Core.setBreg_tsave (c : Core) (r : BitVec 3) (v : Word) : (c.setBreg r v).tsave = c.tsave := rfl
@[simp] theorem Core.setBreg_scom (c : Core) (r : BitVec 3) (v : Word) : (c.setBreg r v).scom = c.scom := rfl
@[simp] theorem Core.setBreg_shbase (c : Core) (r : BitVec 3) (v : Word) : (c.setBreg r v).shbase = c.shbase := rfl
@[simp] theorem Core.setBreg_shlim (c : Core) (r : BitVec 3) (v : Word) : (c.setBreg r v).shlim = c.shlim := rfl
@[simp] theorem Core.setBreg_dbgc (c : Core) (r : BitVec 3) (v : Word) : (c.setBreg r v).dbgc = c.dbgc := rfl
@[simp] theorem Core.setBreg_dbga (c : Core) (r : BitVec 3) (v : Word) : (c.setBreg r v).dbga = c.dbga := rfl
@[simp] theorem Core.setBreg_vrb (c : Core) (r : BitVec 3) (v : Word) : (c.setBreg r v).vrb = c.vrb := rfl
@[simp] theorem Core.setBreg_fmtq (c : Core) (r : BitVec 3) (v : Word) : (c.setBreg r v).fmtq = c.fmtq := rfl
@[simp] theorem Core.setBreg_spill (c : Core) (r : BitVec 3) (v : Word) : (c.setBreg r v).spill = c.spill := rfl
@[simp] theorem Core.setBreg_tile (c : Core) (r : BitVec 3) (v : Word) : (c.setBreg r v).tile = c.tile := rfl
@[simp] theorem Core.setBreg_batt (c : Core) (r : BitVec 3) (v : Word) : (c.setBreg r v).batt = c.batt := rfl
@[simp] theorem Core.setBreg_im (c : Core) (r : BitVec 3) (v : Word) : (c.setBreg r v).im = c.im := rfl
@[simp] theorem Core.setBreg_codebooks (c : Core) (r : BitVec 3) (v : Word) : (c.setBreg r v).codebooks = c.codebooks := rfl
@[simp] theorem Core.setBreg_carder (c : Core) (r : BitVec 3) (v : Word) : (c.setBreg r v).carder = c.carder := rfl
@[simp] theorem Core.setBreg_planes (c : Core) (r : BitVec 3) (v : Word) : (c.setBreg r v).planes = c.planes := rfl
@[simp] theorem Core.setBreg_planeScales (c : Core) (r : BitVec 3) (v : Word) : (c.setBreg r v).planeScales = c.planeScales := rfl
@[simp] theorem Core.setBreg_active (c : Core) (r : BitVec 3) (v : Word) : (c.setBreg r v).active = c.active := rfl
@[simp] theorem Core.setBreg_planeUse (c : Core) (r : BitVec 3) (v : Word) : (c.setBreg r v).planeUse = c.planeUse := rfl
@[simp] theorem Core.setBreg_stream (c : Core) (r : BitVec 3) (v : Word) : (c.setBreg r v).stream = c.stream := rfl
@[simp] theorem Core.setBreg_used (c : Core) (r : BitVec 3) (v : Word) : (c.setBreg r v).used = c.used := rfl
@[simp] theorem Core.setBreg_east (c : Core) (r : BitVec 3) (v : Word) : (c.setBreg r v).east = c.east := rfl
@[simp] theorem Core.setBreg_south (c : Core) (r : BitVec 3) (v : Word) : (c.setBreg r v).south = c.south := rfl
@[simp] theorem Core.setBreg_mrf (c : Core) (r : BitVec 3) (v : Word) : (c.setBreg r v).mrf = c.mrf := rfl
@[simp] theorem Core.setBreg_vrf (c : Core) (r : BitVec 3) (v : Word) : (c.setBreg r v).vrf = c.vrf := rfl
@[simp] theorem Core.setBreg_preds (c : Core) (r : BitVec 3) (v : Word) : (c.setBreg r v).preds = c.preds := rfl
@[simp] theorem Core.setBreg_mstatus (c : Core) (r : BitVec 3) (v : Word) : (c.setBreg r v).mstatus = c.mstatus := rfl
@[simp] theorem Core.setBreg_vstatus (c : Core) (r : BitVec 3) (v : Word) : (c.setBreg r v).vstatus = c.vstatus := rfl
@[simp] theorem Core.setBreg_queues (c : Core) (r : BitVec 3) (v : Word) : (c.setBreg r v).queues = c.queues := rfl
@[simp] theorem Core.setBreg_flights (c : Core) (r : BitVec 3) (v : Word) : (c.setBreg r v).flights = c.flights := rfl
@[simp] theorem Core.setBreg_tokens (c : Core) (r : BitVec 3) (v : Word) : (c.setBreg r v).tokens = c.tokens := rfl
@[simp] theorem Core.setBreg_busy (c : Core) (r : BitVec 3) (v : Word) : (c.setBreg r v).busy = c.busy := rfl
@[simp] theorem Core.setBreg_sets (c : Core) (r : BitVec 3) (v : Word) : (c.setBreg r v).sets = c.sets := rfl
@[simp] theorem Core.setBreg_timed (c : Core) (r : BitVec 3) (v : Word) : (c.setBreg r v).timed = c.timed := rfl
@[simp] theorem Core.setBreg_starts (c : Core) (r : BitVec 3) (v : Word) : (c.setBreg r v).starts = c.starts := rfl
@[simp] theorem Core.setBreg_yields (c : Core) (r : BitVec 3) (v : Word) : (c.setBreg r v).yields = c.yields := rfl
@[simp] theorem Core.setBreg_yieldPcs (c : Core) (r : BitVec 3) (v : Word) : (c.setBreg r v).yieldPcs = c.yieldPcs := rfl
@[simp] theorem Core.setBreg_seq (c : Core) (r : BitVec 3) (v : Word) : (c.setBreg r v).seq = c.seq := rfl
@[simp] theorem Core.setBreg_fetched (c : Core) (r : BitVec 3) (v : Word) : (c.setBreg r v).fetched = c.fetched := rfl
@[simp] theorem Core.setBreg_fetching (c : Core) (r : BitVec 3) (v : Word) : (c.setBreg r v).fetching = c.fetching := rfl
@[simp] theorem Core.setBreg_replayable (c : Core) (r : BitVec 3) (v : Word) : (c.setBreg r v).replayable = c.replayable := rfl
@[simp] theorem Core.setBreg_restart (c : Core) (r : BitVec 3) (v : Word) : (c.setBreg r v).restart = c.restart := rfl
@[simp] theorem Core.setBreg_tlb (c : Core) (r : BitVec 3) (v : Word) : (c.setBreg r v).tlb = c.tlb := rfl
@[simp] theorem Core.setBreg_accesses (c : Core) (r : BitVec 3) (v : Word) : (c.setBreg r v).accesses = c.accesses := rfl
@[simp] theorem Core.setBreg_wfe (c : Core) (r : BitVec 3) (v : Word) : (c.setBreg r v).wfe = c.wfe := rfl
@[simp] theorem Core.setBreg_pending (c : Core) (r : BitVec 3) (v : Word) : (c.setBreg r v).pending = c.pending := rfl
@[simp] theorem Core.setBreg_dbgEvent (c : Core) (r : BitVec 3) (v : Word) : (c.setBreg r v).dbgEvent = c.dbgEvent := rfl
@[simp] theorem Core.setBreg_bars (c : Core) (r : BitVec 3) (v : Word) : (c.setBreg r v).bars = c.bars := rfl
@[simp] theorem Core.setBreg_signals (c : Core) (r : BitVec 3) (v : Word) : (c.setBreg r v).signals = c.signals := rfl
@[simp] theorem Core.setBreg_segments (c : Core) (r : BitVec 3) (v : Word) : (c.setBreg r v).segments = c.segments := rfl
@[simp] theorem Core.setBreg_scanTicks (c : Core) (r : BitVec 3) (v : Word) : (c.setBreg r v).scanTicks = c.scanTicks := rfl
@[simp] theorem Core.setBreg_scan (c : Core) (r : BitVec 3) (v : Word) : (c.setBreg r v).scan = c.scan := rfl
@[simp] theorem Core.setBreg_ports (c : Core) (r : BitVec 3) (v : Word) : (c.setBreg r v).ports = c.ports := rfl
@[simp] theorem Core.setBreg_moving (c : Core) (r : BitVec 3) (v : Word) : (c.setBreg r v).moving = c.moving := rfl
@[simp] theorem Core.setBreg_lacked (c : Core) (r : BitVec 3) (v : Word) : (c.setBreg r v).lacked = c.lacked := rfl
@[simp] theorem Core.setBreg_brkHit (c : Core) (r : BitVec 3) (v : Word) : (c.setBreg r v).brkHit = c.brkHit := rfl
@[simp] theorem Core.setBreg_b (c : Core) (r : BitVec 3) (v : Word) : (c.setBreg r v).b = c.b.set r.toNat v r.isLt := rfl
@[simp] theorem Core.setBreg_haltIn (c : Core) (r : BitVec 3) (v : Word) : (c.setBreg r v).haltIn = c.haltIn := rfl
@[simp] theorem Core.setBreg_wrote (c : Core) (r : BitVec 3) (v : Word) : (c.setBreg r v).wrote = c.wrote := rfl
@[simp] theorem Core.setBreg_opens (c : Core) (r : BitVec 3) (v : Word) : (c.setBreg r v).opens = c.opens := rfl
@[simp] theorem Core.setBreg_inbox (c : Core) (r : BitVec 3) (v : Word) : (c.setBreg r v).inbox = c.inbox := rfl
@[simp] theorem Core.setBreg_portTime (c : Core) (r : BitVec 3) (v : Word) : (c.setBreg r v).portTime = c.portTime := rfl
@[simp] theorem Core.retire_tag (c : Core)  : (c.retire).tag = c.tag := rfl
@[simp] theorem Core.retire_rope (c : Core)  : (c.retire).rope = c.rope := rfl
@[simp] theorem Core.retire_run (c : Core)  : (c.retire).run = c.run := rfl
@[simp] theorem Core.retire_fenced (c : Core)  : (c.retire).fenced = c.fenced := rfl
@[simp] theorem Core.retire_halted (c : Core)  : (c.retire).halted = c.halted := rfl
@[simp] theorem Core.retire_stopped (c : Core)  : (c.retire).stopped = c.stopped := rfl
@[simp] theorem Core.retire_s (c : Core)  : (c.retire).s = c.s := rfl
@[simp] theorem Core.retire_b (c : Core)  : (c.retire).b = c.b := rfl
@[simp] theorem Core.retire_level (c : Core)  : (c.retire).level = c.level := rfl
@[simp] theorem Core.retire_prev (c : Core)  : (c.retire).prev = c.prev := rfl
@[simp] theorem Core.retire_handler (c : Core)  : (c.retire).handler = c.handler := rfl
@[simp] theorem Core.retire_holdc (c : Core)  : (c.retire).holdc = c.holdc := rfl
@[simp] theorem Core.retire_stallc (c : Core)  : (c.retire).stallc = c.stallc := rfl
@[simp] theorem Core.retire_katc (c : Core)  : (c.retire).katc = c.katc := rfl
@[simp] theorem Core.retire_dom1 (c : Core)  : (c.retire).dom1 = c.dom1 := rfl
@[simp] theorem Core.retire_dom2 (c : Core)  : (c.retire).dom2 = c.dom2 := rfl
@[simp] theorem Core.retire_dom3 (c : Core)  : (c.retire).dom3 = c.dom3 := rfl
@[simp] theorem Core.retire_dom4 (c : Core)  : (c.retire).dom4 = c.dom4 := rfl
@[simp] theorem Core.retire_tvec (c : Core)  : (c.retire).tvec = c.tvec := rfl
@[simp] theorem Core.retire_tcause (c : Core)  : (c.retire).tcause = c.tcause := rfl
@[simp] theorem Core.retire_tpc (c : Core)  : (c.retire).tpc = c.tpc := rfl
@[simp] theorem Core.retire_tval (c : Core)  : (c.retire).tval = c.tval := rfl
@[simp] theorem Core.retire_tinfo (c : Core)  : (c.retire).tinfo = c.tinfo := rfl
@[simp] theorem Core.retire_tsave (c : Core)  : (c.retire).tsave = c.tsave := rfl
@[simp] theorem Core.retire_scom (c : Core)  : (c.retire).scom = c.scom := rfl
@[simp] theorem Core.retire_shbase (c : Core)  : (c.retire).shbase = c.shbase := rfl
@[simp] theorem Core.retire_shlim (c : Core)  : (c.retire).shlim = c.shlim := rfl
@[simp] theorem Core.retire_dbga (c : Core)  : (c.retire).dbga = c.dbga := rfl
@[simp] theorem Core.retire_vrb (c : Core)  : (c.retire).vrb = c.vrb := rfl
@[simp] theorem Core.retire_fmtq (c : Core)  : (c.retire).fmtq = c.fmtq := rfl
@[simp] theorem Core.retire_spill (c : Core)  : (c.retire).spill = c.spill := rfl
@[simp] theorem Core.retire_tile (c : Core)  : (c.retire).tile = c.tile := rfl
@[simp] theorem Core.retire_batt (c : Core)  : (c.retire).batt = c.batt := rfl
@[simp] theorem Core.retire_im (c : Core)  : (c.retire).im = c.im := rfl
@[simp] theorem Core.retire_codebooks (c : Core)  : (c.retire).codebooks = c.codebooks := rfl
@[simp] theorem Core.retire_carder (c : Core)  : (c.retire).carder = c.carder := rfl
@[simp] theorem Core.retire_planes (c : Core)  : (c.retire).planes = c.planes := rfl
@[simp] theorem Core.retire_planeScales (c : Core)  : (c.retire).planeScales = c.planeScales := rfl
@[simp] theorem Core.retire_active (c : Core)  : (c.retire).active = c.active := rfl
@[simp] theorem Core.retire_planeUse (c : Core)  : (c.retire).planeUse = c.planeUse := rfl
@[simp] theorem Core.retire_stream (c : Core)  : (c.retire).stream = c.stream := rfl
@[simp] theorem Core.retire_used (c : Core)  : (c.retire).used = c.used := rfl
@[simp] theorem Core.retire_east (c : Core)  : (c.retire).east = c.east := rfl
@[simp] theorem Core.retire_south (c : Core)  : (c.retire).south = c.south := rfl
@[simp] theorem Core.retire_mrf (c : Core)  : (c.retire).mrf = c.mrf := rfl
@[simp] theorem Core.retire_vrf (c : Core)  : (c.retire).vrf = c.vrf := rfl
@[simp] theorem Core.retire_preds (c : Core)  : (c.retire).preds = c.preds := rfl
@[simp] theorem Core.retire_mstatus (c : Core)  : (c.retire).mstatus = c.mstatus := rfl
@[simp] theorem Core.retire_vstatus (c : Core)  : (c.retire).vstatus = c.vstatus := rfl
@[simp] theorem Core.retire_queues (c : Core)  : (c.retire).queues = c.queues := rfl
@[simp] theorem Core.retire_flights (c : Core)  : (c.retire).flights = c.flights := rfl
@[simp] theorem Core.retire_tokens (c : Core)  : (c.retire).tokens = c.tokens := rfl
@[simp] theorem Core.retire_busy (c : Core)  : (c.retire).busy = c.busy := rfl
@[simp] theorem Core.retire_sets (c : Core)  : (c.retire).sets = c.sets := rfl
@[simp] theorem Core.retire_timed (c : Core)  : (c.retire).timed = c.timed := rfl
@[simp] theorem Core.retire_starts (c : Core)  : (c.retire).starts = c.starts := rfl
@[simp] theorem Core.retire_yields (c : Core)  : (c.retire).yields = c.yields := rfl
@[simp] theorem Core.retire_yieldPcs (c : Core)  : (c.retire).yieldPcs = c.yieldPcs := rfl
@[simp] theorem Core.retire_seq (c : Core)  : (c.retire).seq = c.seq := rfl
@[simp] theorem Core.retire_fetched (c : Core)  : (c.retire).fetched = c.fetched := rfl
@[simp] theorem Core.retire_fetching (c : Core)  : (c.retire).fetching = c.fetching := rfl
@[simp] theorem Core.retire_replayable (c : Core)  : (c.retire).replayable = c.replayable := rfl
@[simp] theorem Core.retire_restart (c : Core)  : (c.retire).restart = c.restart := rfl
@[simp] theorem Core.retire_tlb (c : Core)  : (c.retire).tlb = c.tlb := rfl
@[simp] theorem Core.retire_accesses (c : Core)  : (c.retire).accesses = c.accesses := rfl
@[simp] theorem Core.retire_wfe (c : Core)  : (c.retire).wfe = c.wfe := rfl
@[simp] theorem Core.retire_pending (c : Core)  : (c.retire).pending = c.pending := rfl
@[simp] theorem Core.retire_dbgEvent (c : Core)  : (c.retire).dbgEvent = c.dbgEvent := rfl
@[simp] theorem Core.retire_bars (c : Core)  : (c.retire).bars = c.bars := rfl
@[simp] theorem Core.retire_signals (c : Core)  : (c.retire).signals = c.signals := rfl
@[simp] theorem Core.retire_segments (c : Core)  : (c.retire).segments = c.segments := rfl
@[simp] theorem Core.retire_scanTicks (c : Core)  : (c.retire).scanTicks = c.scanTicks := rfl
@[simp] theorem Core.retire_scan (c : Core)  : (c.retire).scan = c.scan := rfl
@[simp] theorem Core.retire_ports (c : Core)  : (c.retire).ports = c.ports := rfl
@[simp] theorem Core.retire_moving (c : Core)  : (c.retire).moving = c.moving := rfl
@[simp] theorem Core.retire_lacked (c : Core)  : (c.retire).lacked = c.lacked := rfl
@[simp] theorem Core.retire_brkHit (c : Core)  : (c.retire).brkHit = c.brkHit := rfl
@[simp] theorem Core.retire_pc (c : Core) : c.retire.pc = (c.pc + 8) &&& 0xFFFF := rfl
@[simp] theorem Core.retire_dbgc (c : Core)  : (c.retire).dbgc = c.skipped := rfl
@[simp] theorem Core.retire_haltIn (c : Core)  : (c.retire).haltIn = c.haltIn := rfl
@[simp] theorem Core.retire_wrote (c : Core)  : (c.retire).wrote = c.wrote := rfl
@[simp] theorem Core.retire_opens (c : Core)  : (c.retire).opens = c.opens := rfl
@[simp] theorem Core.retire_inbox (c : Core)  : (c.retire).inbox = c.inbox := rfl
@[simp] theorem Core.retire_portTime (c : Core)  : (c.retire).portTime = c.portTime := rfl
@[simp] theorem Core.goto_tag (c : Core) (t : Word) : (c.goto t).tag = c.tag := rfl
@[simp] theorem Core.goto_rope (c : Core) (t : Word) : (c.goto t).rope = c.rope := rfl
@[simp] theorem Core.goto_run (c : Core) (t : Word) : (c.goto t).run = c.run := rfl
@[simp] theorem Core.goto_fenced (c : Core) (t : Word) : (c.goto t).fenced = c.fenced := rfl
@[simp] theorem Core.goto_halted (c : Core) (t : Word) : (c.goto t).halted = c.halted := rfl
@[simp] theorem Core.goto_stopped (c : Core) (t : Word) : (c.goto t).stopped = c.stopped := rfl
@[simp] theorem Core.goto_s (c : Core) (t : Word) : (c.goto t).s = c.s := rfl
@[simp] theorem Core.goto_b (c : Core) (t : Word) : (c.goto t).b = c.b := rfl
@[simp] theorem Core.goto_level (c : Core) (t : Word) : (c.goto t).level = c.level := rfl
@[simp] theorem Core.goto_prev (c : Core) (t : Word) : (c.goto t).prev = c.prev := rfl
@[simp] theorem Core.goto_handler (c : Core) (t : Word) : (c.goto t).handler = c.handler := rfl
@[simp] theorem Core.goto_holdc (c : Core) (t : Word) : (c.goto t).holdc = c.holdc := rfl
@[simp] theorem Core.goto_stallc (c : Core) (t : Word) : (c.goto t).stallc = c.stallc := rfl
@[simp] theorem Core.goto_katc (c : Core) (t : Word) : (c.goto t).katc = c.katc := rfl
@[simp] theorem Core.goto_dom1 (c : Core) (t : Word) : (c.goto t).dom1 = c.dom1 := rfl
@[simp] theorem Core.goto_dom2 (c : Core) (t : Word) : (c.goto t).dom2 = c.dom2 := rfl
@[simp] theorem Core.goto_dom3 (c : Core) (t : Word) : (c.goto t).dom3 = c.dom3 := rfl
@[simp] theorem Core.goto_dom4 (c : Core) (t : Word) : (c.goto t).dom4 = c.dom4 := rfl
@[simp] theorem Core.goto_tvec (c : Core) (t : Word) : (c.goto t).tvec = c.tvec := rfl
@[simp] theorem Core.goto_tcause (c : Core) (t : Word) : (c.goto t).tcause = c.tcause := rfl
@[simp] theorem Core.goto_tpc (c : Core) (t : Word) : (c.goto t).tpc = c.tpc := rfl
@[simp] theorem Core.goto_tval (c : Core) (t : Word) : (c.goto t).tval = c.tval := rfl
@[simp] theorem Core.goto_tinfo (c : Core) (t : Word) : (c.goto t).tinfo = c.tinfo := rfl
@[simp] theorem Core.goto_tsave (c : Core) (t : Word) : (c.goto t).tsave = c.tsave := rfl
@[simp] theorem Core.goto_scom (c : Core) (t : Word) : (c.goto t).scom = c.scom := rfl
@[simp] theorem Core.goto_shbase (c : Core) (t : Word) : (c.goto t).shbase = c.shbase := rfl
@[simp] theorem Core.goto_shlim (c : Core) (t : Word) : (c.goto t).shlim = c.shlim := rfl
@[simp] theorem Core.goto_dbga (c : Core) (t : Word) : (c.goto t).dbga = c.dbga := rfl
@[simp] theorem Core.goto_vrb (c : Core) (t : Word) : (c.goto t).vrb = c.vrb := rfl
@[simp] theorem Core.goto_fmtq (c : Core) (t : Word) : (c.goto t).fmtq = c.fmtq := rfl
@[simp] theorem Core.goto_spill (c : Core) (t : Word) : (c.goto t).spill = c.spill := rfl
@[simp] theorem Core.goto_tile (c : Core) (t : Word) : (c.goto t).tile = c.tile := rfl
@[simp] theorem Core.goto_batt (c : Core) (t : Word) : (c.goto t).batt = c.batt := rfl
@[simp] theorem Core.goto_im (c : Core) (t : Word) : (c.goto t).im = c.im := rfl
@[simp] theorem Core.goto_codebooks (c : Core) (t : Word) : (c.goto t).codebooks = c.codebooks := rfl
@[simp] theorem Core.goto_carder (c : Core) (t : Word) : (c.goto t).carder = c.carder := rfl
@[simp] theorem Core.goto_planes (c : Core) (t : Word) : (c.goto t).planes = c.planes := rfl
@[simp] theorem Core.goto_planeScales (c : Core) (t : Word) : (c.goto t).planeScales = c.planeScales := rfl
@[simp] theorem Core.goto_active (c : Core) (t : Word) : (c.goto t).active = c.active := rfl
@[simp] theorem Core.goto_planeUse (c : Core) (t : Word) : (c.goto t).planeUse = c.planeUse := rfl
@[simp] theorem Core.goto_stream (c : Core) (t : Word) : (c.goto t).stream = c.stream := rfl
@[simp] theorem Core.goto_used (c : Core) (t : Word) : (c.goto t).used = c.used := rfl
@[simp] theorem Core.goto_east (c : Core) (t : Word) : (c.goto t).east = c.east := rfl
@[simp] theorem Core.goto_south (c : Core) (t : Word) : (c.goto t).south = c.south := rfl
@[simp] theorem Core.goto_mrf (c : Core) (t : Word) : (c.goto t).mrf = c.mrf := rfl
@[simp] theorem Core.goto_vrf (c : Core) (t : Word) : (c.goto t).vrf = c.vrf := rfl
@[simp] theorem Core.goto_preds (c : Core) (t : Word) : (c.goto t).preds = c.preds := rfl
@[simp] theorem Core.goto_mstatus (c : Core) (t : Word) : (c.goto t).mstatus = c.mstatus := rfl
@[simp] theorem Core.goto_vstatus (c : Core) (t : Word) : (c.goto t).vstatus = c.vstatus := rfl
@[simp] theorem Core.goto_queues (c : Core) (t : Word) : (c.goto t).queues = c.queues := rfl
@[simp] theorem Core.goto_flights (c : Core) (t : Word) : (c.goto t).flights = c.flights := rfl
@[simp] theorem Core.goto_tokens (c : Core) (t : Word) : (c.goto t).tokens = c.tokens := rfl
@[simp] theorem Core.goto_busy (c : Core) (t : Word) : (c.goto t).busy = c.busy := rfl
@[simp] theorem Core.goto_sets (c : Core) (t : Word) : (c.goto t).sets = c.sets := rfl
@[simp] theorem Core.goto_timed (c : Core) (t : Word) : (c.goto t).timed = c.timed := rfl
@[simp] theorem Core.goto_starts (c : Core) (t : Word) : (c.goto t).starts = c.starts := rfl
@[simp] theorem Core.goto_yields (c : Core) (t : Word) : (c.goto t).yields = c.yields := rfl
@[simp] theorem Core.goto_yieldPcs (c : Core) (t : Word) : (c.goto t).yieldPcs = c.yieldPcs := rfl
@[simp] theorem Core.goto_seq (c : Core) (t : Word) : (c.goto t).seq = c.seq := rfl
@[simp] theorem Core.goto_fetched (c : Core) (t : Word) : (c.goto t).fetched = c.fetched := rfl
@[simp] theorem Core.goto_fetching (c : Core) (t : Word) : (c.goto t).fetching = c.fetching := rfl
@[simp] theorem Core.goto_replayable (c : Core) (t : Word) : (c.goto t).replayable = c.replayable := rfl
@[simp] theorem Core.goto_restart (c : Core) (t : Word) : (c.goto t).restart = c.restart := rfl
@[simp] theorem Core.goto_tlb (c : Core) (t : Word) : (c.goto t).tlb = c.tlb := rfl
@[simp] theorem Core.goto_accesses (c : Core) (t : Word) : (c.goto t).accesses = c.accesses := rfl
@[simp] theorem Core.goto_wfe (c : Core) (t : Word) : (c.goto t).wfe = c.wfe := rfl
@[simp] theorem Core.goto_pending (c : Core) (t : Word) : (c.goto t).pending = c.pending := rfl
@[simp] theorem Core.goto_dbgEvent (c : Core) (t : Word) : (c.goto t).dbgEvent = c.dbgEvent := rfl
@[simp] theorem Core.goto_bars (c : Core) (t : Word) : (c.goto t).bars = c.bars := rfl
@[simp] theorem Core.goto_signals (c : Core) (t : Word) : (c.goto t).signals = c.signals := rfl
@[simp] theorem Core.goto_segments (c : Core) (t : Word) : (c.goto t).segments = c.segments := rfl
@[simp] theorem Core.goto_scanTicks (c : Core) (t : Word) : (c.goto t).scanTicks = c.scanTicks := rfl
@[simp] theorem Core.goto_scan (c : Core) (t : Word) : (c.goto t).scan = c.scan := rfl
@[simp] theorem Core.goto_ports (c : Core) (t : Word) : (c.goto t).ports = c.ports := rfl
@[simp] theorem Core.goto_moving (c : Core) (t : Word) : (c.goto t).moving = c.moving := rfl
@[simp] theorem Core.goto_lacked (c : Core) (t : Word) : (c.goto t).lacked = c.lacked := rfl
@[simp] theorem Core.goto_brkHit (c : Core) (t : Word) : (c.goto t).brkHit = c.brkHit := rfl
@[simp] theorem Core.goto_pc (c : Core) (t : Word) : (c.goto t).pc = t := rfl
@[simp] theorem Core.goto_dbgc (c : Core) (t : Word) : (c.goto t).dbgc = c.skipped := rfl
@[simp] theorem Core.goto_haltIn (c : Core) (t : Word) : (c.goto t).haltIn = c.haltIn := rfl
@[simp] theorem Core.goto_wrote (c : Core) (t : Word) : (c.goto t).wrote = c.wrote := rfl
@[simp] theorem Core.goto_opens (c : Core) (t : Word) : (c.goto t).opens = c.opens := rfl
@[simp] theorem Core.goto_inbox (c : Core) (t : Word) : (c.goto t).inbox = c.inbox := rfl
@[simp] theorem Core.goto_portTime (c : Core) (t : Word) : (c.goto t).portTime = c.portTime := rfl

end Sys2Proof.Machine
end

