-- ==== Sys2Proof/Laws/Ops.lean ====
section
/-! SUPPORT. What the shared operations of the control core do, once each: writes of the acting core, waiting for registers, register
instructions, faults and their entry. -/
namespace Sys2Proof.Machine

open Sys2Proof.Safety

/-! ## The acting core -/

@[simp] theorem core_setCore_self (s : State) (i : Nat) (c : Core) : (s.setCore i c).core i = c := by
  simp [State.core, State.setCore, find_insert_self]
theorem core_setCore_ne (s : State) (i j : Nat) (c : Core) (h : j ≠ i) : (s.setCore i c).core j = s.core j := by
  simp [State.core, State.setCore, find_insert_ne _ _ _ _ h]
@[simp] theorem here_setHere (s : State) (c : Core) : (s.setHere c).here = c := core_setCore_self s s.cur.core c
theorem core_setHere_ne (s : State) (j : Nat) (c : Core) (h : j ≠ s.cur.core) : (s.setHere c).core j = s.core j :=
  core_setCore_ne s _ j c h
theorem insert_insert {α : Type} (m : List (Nat × α)) (k : Nat) (a b : α) : insert (insert m k a) k b = insert m k b := by
  induction m with
  | nil => simp [insert]
  | cons e m ih =>
    rcases e with ⟨x, y⟩
    by_cases h1 : k < x
    · simp [insert, h1]
    · by_cases h2 : k = x
      · simp [insert, h2]
      · simp [insert, h1, h2, ih]
@[simp] theorem setCore_setCore (s : State) (i : Nat) (c d : Core) : (s.setCore i c).setCore i d = s.setCore i d := by
  simp [State.setCore, insert_insert]
@[simp] theorem setHere_setHere (s : State) (c d : Core) : (s.setHere c).setHere d = s.setHere d := setCore_setCore s _ c d
@[simp] theorem readByte_setCore (s : State) (i : Nat) (c : Core) (k : KeyTag) (a : Nat) : (s.setCore i c).readByte k a = s.readByte k a := rfl
@[simp] theorem readByte_setHere (s : State) (c : Core) (k : KeyTag) (a : Nat) : (s.setHere c).readByte k a = s.readByte k a := rfl
theorem sameMem_setHere (s : State) (c : Core) : SameMem s (s.setHere c) := fun _ _ => rfl
theorem onlyHere_setHere (s : State) (c : Core) : OnlyHere s (s.setHere c) := by simp [OnlyHere]
theorem sameMem_of_eq {s t : State} (hm : t.mem = s.mem) (hk : t.keys = s.keys) (hf : t.free = s.free) : SameMem s t :=
  fun _ _ => by simp [State.readByte, hm, hk, hf]
theorem sameMem_trans {s t u : State} (h : SameMem s t) (g : SameMem t u) : SameMem s u := fun k a => (g k a).trans (h k a)

/-! ## Registers -/

theorem reg_setReg (c : Core) (d r : Reg) (v : Word) : (c.setReg d v).reg r = if r = d ∧ r ≠ 0 then v else c.reg r := by
  by_cases h0 : r = 0
  · rw [if_neg fun h => h.2 h0]
    simp [Core.reg, h0]
  · by_cases hd : d = 0
    · rw [if_neg fun h => h0 (h.1.trans hd), hd]
      simp [Core.setReg]
    · unfold Core.reg
      rw [if_neg h0, if_neg h0]
      simp only [Core.setReg, if_neg hd]
      by_cases h : r = d
      · rw [if_pos ⟨h, h0⟩]; subst h; simp
      · have hn : d.toNat ≠ r.toNat := fun e => h (BitVec.eq_of_toNat_eq e.symm)
        rw [if_neg fun x => h x.1]
        simp [hn]
@[simp] theorem reg_retire (c : Core) (r : Reg) : c.retire.reg r = c.reg r := rfl
@[simp] theorem reg_goto (c : Core) (t : Word) (r : Reg) : (c.goto t).reg r = c.reg r := rfl
@[simp] theorem setReg_zero (c : Core) (v : Word) : c.setReg 0 v = c := by simp [Core.setReg]

theorem ready_iff (s : State) (rs : List Reg) : s.here.ready rs = true ↔ Written s rs := by
  unfold Core.ready Written
  simp only [List.all_eq_true, Bool.or_eq_true, beq_iff_eq, bne_iff_ne, ne_eq]
theorem waitFor_ready {s : State} {rs : List Reg} (h : Written s rs) (go : State) : s.waitFor rs go = .next go := by
  simp [State.waitFor, (ready_iff s rs).2 h]
theorem waitFor_waits {s : State} {rs : List Reg} (h : ¬ Written s rs) (go : State) : s.waitFor rs go = .next s := by
  unfold State.waitFor
  rw [if_neg fun h' => h ((ready_iff s rs).1 h')]
theorem written_sub {s : State} {rs qs : List Reg} (h : Written s rs) (hs : ∀ r ∈ qs, r ∈ rs) : Written s qs := fun r hr => h r (hs r hr)

/-- A register written and the pc moved: all that a register instruction changes. -/
theorem moves_setReg (s : State) (d : Reg) (v pc : Word) :
    Moves s (s.setHere ((s.here.setReg d v).goto pc)) d v pc := by
  refine ⟨fun r => by simp [reg_setReg], by simp [Core.goto], ?_, ?_, onlyHere_setHere _ _, sameMem_setHere _ _⟩
  · simp [Core.goto, Core.skipped]
  · simp only [here_setHere, Core.goto, Core.setReg]
    split <;> rfl
theorem retire_eq_goto (c : Core) : c.retire = c.goto ((c.pc + 8) &&& 0xFFFF) := rfl
theorem setReg_retire_eq (c : Core) (d : Reg) (v : Word) : (c.setReg d v).retire = (c.setReg d v).goto ((c.pc + 8) &&& 0xFFFF) := by
  simp [Core.retire, Core.goto]
theorem alu_gives {s : State} {d : Reg} {srcs : List Reg} (h : Written s (d :: srcs)) (v : Word) :
    ∃ t, s.alu d srcs v = .next t ∧ Moves s t d v (pcAfter s) :=
  ⟨_, waitFor_ready h _, by rw [setReg_retire_eq]; exact moves_setReg s d v _⟩

/-! ## Faults -/

@[simp] theorem core_setRope (s : State) (r : Rope) (i : Nat) : (s.setRope r).core i = s.core i := rfl
@[simp] theorem core_onRope (s : State) (k : RopeKey) (f : Rope → Rope) (i : Nat) : (s.onRope k f).core i = s.core i := by
  unfold State.onRope; split <;> rfl
@[simp] theorem readByte_onRope (s : State) (k : RopeKey) (f : Rope → Rope) (j : KeyTag) (a : Nat) :
    (s.onRope k f).readByte j a = s.readByte j a := by
  unfold State.onRope; split <;> rfl
@[simp] theorem core_noteFault (s : State) (id code sub i : Nat) : (s.noteFault id code sub).core i = s.core i := by
  unfold State.noteFault; split <;> rfl
@[simp] theorem cur_noteFault (s : State) (id code sub : Nat) : (s.noteFault id code sub).cur = s.cur := by
  unfold State.noteFault; split <;> rfl
@[simp] theorem readByte_noteFault (s : State) (id code sub : Nat) (k : KeyTag) (a : Nat) :
    (s.noteFault id code sub).readByte k a = s.readByte k a := by
  unfold State.noteFault; split <;> rfl
@[simp] theorem core_hold (s : State) (c : Nat) (k : HoldKind) (t : Nat) (l : Option Nat) (b : Bool) (i : Nat) :
    (s.hold c k t l b).core i = s.core i := by
  unfold State.hold; split <;> rfl
@[simp] theorem cur_hold (s : State) (c : Nat) (k : HoldKind) (t : Nat) (l : Option Nat) (b : Bool) : (s.hold c k t l b).cur = s.cur := by
  unfold State.hold; split <;> rfl
@[simp] theorem readByte_hold (s : State) (c : Nat) (k : HoldKind) (t : Nat) (l : Option Nat) (b : Bool) (j : KeyTag) (a : Nat) :
    (s.hold c k t l b).readByte j a = s.readByte j a := by
  unfold State.hold; split <;> rfl
@[simp] theorem core_onCore_self (s : State) (i : Nat) (f : Core → Core) : (s.onCore i f).core i = f (s.core i) := core_setCore_self ..
theorem core_onCore_ne (s : State) (i j : Nat) (f : Core → Core) (h : j ≠ i) : (s.onCore i f).core j = s.core j := core_setCore_ne _ _ _ _ h
@[simp] theorem readByte_onCore (s : State) (i : Nat) (f : Core → Core) (k : KeyTag) (a : Nat) : (s.onCore i f).readByte k a = s.readByte k a := rfl

theorem cur_onRope (s : State) (k : RopeKey) (f : Rope → Rope) : (s.onRope k f).cur = s.cur := by
  unfold State.onRope; split <;> rfl
/-- Where no freeze waits, a trap takes none back. -/
theorem cancelFrz_eq (s : State) (id : Nat) (h : asksFreeze (s.core id) = false) : s.cancelFrz id = s := by
  unfold State.cancelFrz
  split
  · rename_i hs
    simp [asksFreeze, hs] at h
  · rfl

/-- TAKING A TRAP at a core where nothing is outstanding and the fault enters the handler (R203): its registers, and what stays. -/
theorem trap_core (s : State) (id : Nat) (f : PendingFault) (tpc : Word) (ha : (s.core id).accesses = [])
    (hf : (s.core id).fatal f.code = false) (hc : asksFreeze (s.core id) = false) :
    (s.trap id f tpc).core id = (s.core id).enterTrap f tpc ∧ (∀ j, j ≠ id → (s.trap id f tpc).core j = s.core j)
      ∧ SameMem s (s.trap id f tpc) := by
  unfold State.trap
  rw [if_neg (by simp [ha]), if_neg (by simp [hf])]
  dsimp only
  rw [cancelFrz_eq _ _ (by simpa using hc)]
  split
  · exact ⟨by simp, fun j hj => by simp [core_onCore_ne _ _ _ _ hj], fun k a => by simp⟩
  · exact ⟨by simp, fun j hj => by simp [core_onCore_ne _ _ _ _ hj], fun k a => by simp⟩
theorem cur_trap (s : State) (id : Nat) (f : PendingFault) (tpc : Word) (ha : (s.core id).accesses = [])
    (hf : (s.core id).fatal f.code = false) (hc : asksFreeze (s.core id) = false) : (s.trap id f tpc).cur = s.cur := by
  unfold State.trap
  rw [if_neg (by simp [ha]), if_neg (by simp [hf])]
  dsimp only
  rw [cancelFrz_eq _ _ (by simpa using hc)]
  split <;> simp [State.onCore, State.setCore]

/-- A fault of the control core where traps are taken (R203). -/
theorem fault_enters {s : State} (h : TakesTraps s) {code : Nat} (hc : code ∉ [0x28, 0x29, 0x2A]) (value tpc : Word) :
    Enters s (s.fault code 0 value tpc) (BitVec.ofNat 64 code) value (BitVec.ofNat 64 (s.rtick s.cur.core % 2 ^ 32 * 2 ^ 32)) tpc := by
  have hf : (s.core s.cur.core).fatal code = false := by
    have h1 := h.2.1; have h2 := h.2.2.1
    simp only [State.here] at h1 h2
    simp only [List.mem_cons, List.not_mem_nil, or_false, not_or] at hc
    simp [Core.fatal, h1, h2, hc]
  have ht := trap_core s s.cur.core ⟨code, 0, value, 0, 0, 0, s.rtick s.cur.core, false, none⟩ tpc h.1 hf h.2.2.2
  have hcur := cur_trap s s.cur.core ⟨code, 0, value, 0, 0, 0, s.rtick s.cur.core, false, none⟩ tpc h.1 hf h.2.2.2
  refine ⟨?_, ht.2.1, ht.2.2⟩
  show (State.trap _ _ _ _).core (State.trap _ _ _ _).cur.core = _
  rw [hcur, ht.1]
  simp [Core.enterTrap, State.here] <;> rfl
theorem faultHere_traps {s : State} (h : TakesTraps s) {code : Nat} (hc : code ∉ [0x28, 0x29, 0x2A]) (value : Word) :
    Enters s (s.faultHere code value) (BitVec.ofNat 64 code) value (BitVec.ofNat 64 (s.rtick s.cur.core % 2 ^ 32 * 2 ^ 32)) s.here.pc :=
  fault_enters h hc value s.here.pc

/-- An instruction that writes the acting core and retires. -/
theorem retires_of {i : Instr} {s : State} {f : Core → Core} {c : Core} (h : exec i s = .next (s.setHere c))
    (hc : c = { f s.here with pc := pcAfter s, dbgc := s.here.skipped }) : Retires i s f :=
  ⟨_, h, by simp [hc], onlyHere_setHere _ _, sameMem_setHere _ _⟩

end Sys2Proof.Machine
end

