-- ==== Sys2Proof/Laws/Access.lean ====
section
/-! SUPPORT. What leaving the core does to a control-core access (R128, R265): it joins the outstanding ones, or its fault is taken. -/
namespace Sys2Proof.Machine

open Sys2Proof.Safety

theorem core_fillTlb_ne (s : State) (c va : Nat) (e : TlbEntry) (j : Nat) (h : j ≠ c) : (s.fillTlb c va e).core j = s.core j := by
  unfold State.fillTlb
  dsimp only
  split
  · rfl
  · rw [core_onCore_ne _ _ _ _ h]
    split <;> rfl

theorem cur_fillTlb (s : State) (c va : Nat) (e : TlbEntry) : (s.fillTlb c va e).cur = s.cur := by
  unfold State.fillTlb
  dsimp only
  split
  · rfl
  · split <;> rfl
theorem sameMem_fillTlb (s : State) (c va : Nat) (e : TlbEntry) : SameMem s (s.fillTlb c va e) := by
  unfold State.fillTlb
  dsimp only
  split
  · exact fun _ _ => rfl
  · split <;> exact fun _ _ => rfl

/-- Filling the TLBs changes a core in its core TLB only (R132). -/
theorem here_fillTlb (s : State) (va : Nat) (e : TlbEntry) :
    (s.fillTlb s.cur.core va e).here = { s.here with tlb := (s.fillTlb s.cur.core va e).here.tlb } := by
  unfold State.fillTlb
  dsimp only
  split
  · rfl
  · split <;> simp [State.here, State.onCore, State.core, State.setCore, find_insert_self]

/-- What leaving does where the checks pass and the place is in this package. -/
theorem issueAccess_leaves {s : State} {rs : List Reg} (h : MayLeave s rs) {cls : Nat} {p : Word} {n : Nat} {want : Want}
    {kind : AccessKind} {pl : Place} {e : Option TlbEntry}
    (hp : s.placeOf p n want kind.atomic = .ok (pl, e)) (hr : pl.remote = false) :
    ∃ t, s.waitFor rs (s.issueAccess cls p n want kind) = .next t
      ∧ t.here = { s.here with pc := pcAfter s, dbgc := s.here.skipped, tlb := t.here.tlb,
                               accesses := s.here.accesses ++ [{ id := s.serial, cls := cls, place := pl, kind := kind,
                                                                 gen := s.gen (s.worldOf s.cur.core), sent := none, bad := false,
                                                                 pc := s.here.pc, tick := s.rtick s.cur.core,
                                                                 asid := if e.isSome then s.asidOf s.cur.core else none }] }
      ∧ (∀ c, c ≠ s.cur.core → t.core c = s.core c) ∧ SameMem s t := by
  refine ⟨_, waitFor_ready h.1 _, ?_⟩
  have h1 : ¬ (16 ≤ s.here.accesses.length ∨ (s.here.accesses.any fun a => a.place.remote && a.kind.returns) = true) := by
    rintro (h' | h')
    · have := h.2.1; omega
    · simp only [List.any_eq_true, Bool.and_eq_true] at h'
      obtain ⟨a, ha, hb⟩ := h'
      exact h.2.2 a ha hb
  unfold State.issueAccess
  rw [if_neg h1]
  split
  · rename_i he
    rw [hp] at he
    cases he
  · rename_i pl' e' he
    rw [hp] at he
    cases he
    dsimp only
    rw [if_neg (by simp [hr])]
    have hstep : ∀ (u : State) (c : Core), u.cur = s.cur → (∀ i, i ≠ s.cur.core → u.core i = s.core i) → (∀ i, i ≠ s.cur.core →
        ((u.setHere c).setHere (u.setHere c).here.retire).core i = s.core i) ∧
        ((u.setHere c).setHere (u.setHere c).here.retire).here = c.retire := fun u c hu hne =>
      ⟨fun i hi => by
        rw [core_setHere_ne _ _ _ (by show i ≠ u.cur.core; rw [hu]; exact hi), core_setHere_ne _ _ _ (by rw [hu]; exact hi), hne i hi],
       by simp⟩
    cases e with
    | none =>
      obtain ⟨h2, h3⟩ := hstep { s with serial := s.serial + 1 } { s.here with accesses := s.here.accesses ++ [_] } rfl fun _ _ => rfl
      exact ⟨h3.trans (by rw [h3]; rfl), h2, fun k a => rfl⟩
    | some e =>
      obtain ⟨h2, h3⟩ := hstep { s.fillTlb s.cur.core p.toNat e with serial := (s.fillTlb s.cur.core p.toNat e).serial + 1 }
        { (s.fillTlb s.cur.core p.toNat e).here with accesses := (s.fillTlb s.cur.core p.toNat e).here.accesses ++ [_] } (cur_fillTlb ..)
        fun i hi => core_fillTlb_ne s _ _ e i hi
      exact ⟨h3.trans (by rw [h3, here_fillTlb]; rfl), h2, fun k a => sameMem_fillTlb s s.cur.core p.toNat e k a⟩

/-- What leaving does where a check fails: the fault is taken, and nothing has been written (R271). -/
theorem issueAccess_traps {s : State} {rs : List Reg} (hw : Written s rs) (ht : TakesTraps s) {cls : Nat} {p : Word} {n : Nat}
    {want : Want} {kind : AccessKind} {c : Nat} {v : Word}
    (hp : s.placeOf p n want kind.atomic = .error (c, v)) (hc : c ∉ [0x28, 0x29, 0x2A]) :
    ∃ t, s.waitFor rs (s.issueAccess cls p n want kind) = .next t
      ∧ Enters s t (BitVec.ofNat 64 c) v (BitVec.ofNat 64 (s.rtick s.cur.core % 2 ^ 32 * 2 ^ 32)) s.here.pc := by
  refine ⟨_, waitFor_ready hw _, ?_⟩
  unfold State.issueAccess
  rw [if_neg (by simp [ht.1])]
  split
  · rename_i he
    rw [hp] at he
    cases he
    exact faultHere_traps ht hc _
  · rename_i he
    rw [hp] at he
    cases he

end Sys2Proof.Machine
end

