-- ==== Sys2Proof/Laws/Command.lean ====
section
/-! SUPPORT. What the shared course of a command does, and what the turn of a control core comes to. -/
namespace Sys2Proof.Machine
open Sys2Proof.Safety

/-- The first startable command of an interface is startable. -/
theorem firstOf_startable {s : State} {cls n : Nat} {c : Cmd} (h : s.firstOf cls n = some c) : s.startable c = true := by
  have key : ∀ (l : List Pending) (m : Option Cmd), (∀ x, m = some x → s.startable x = true) → (∀ p ∈ l, s.startable p.cmd = true) →
      ∀ x, l.foldl (fun (m : Option Cmd) p => match m with
        | none => some p.cmd
        | some x => if p.cmd.pos < x.pos then some p.cmd else some x) m = some x → s.startable x = true := by
    intro l
    induction l with
    | nil => exact fun m hm _ x hx => hm x hx
    | cons p l ih =>
      intro m hm hl
      refine ih _ (fun x hx => ?_) fun q hq => hl q (List.mem_cons_of_mem _ hq)
      cases m with
      | none => cases hx; exact hl p (List.mem_cons_self ..)
      | some y =>
        dsimp only at hx
        split at hx <;> cases hx
        · exact hl p (List.mem_cons_self ..)
        · exact hm _ rfl
  refine key _ none (by simp) (fun p hp => ?_) c h
  have := (List.mem_filter.1 hp).2
  simp only [Bool.and_eq_true] at this
  exact this.2
/-- A pick is that of one of the three classes (R84). -/
theorem firstClass {s : State} {c : Cmd} {cls : Nat} {r : Rotation} (h : s.pick = some (c, cls, r)) :
    (∃ r, s.pickIn 1 = some (c, r)) ∨ (∃ r, s.pickIn 2 = some (c, r)) ∨ ∃ r, s.pickIn 3 = some (c, r) := by
  have pure_ : ∀ (g : Bool) (a b d : Option (Cmd × Rotation)),
      (if g = true then none else match a with
        | some (c, r) => some (c, 1, r)
        | none => match b with
          | some (c, r) => some (c, 2, r)
          | none => d.map fun x => (x.1, 3, x.2)) = some (c, cls, r) →
      (∃ r, a = some (c, r)) ∨ (∃ r, b = some (c, r)) ∨ ∃ r, d = some (c, r) := by
    intro g a b d h
    cases g
    · rcases a with - | ⟨x, r1⟩
      · rcases b with - | ⟨y, r2⟩
        · rcases d with - | ⟨z, r3⟩
          · simp at h
          · simp at h; simp [h.1]
        · simp at h; simp [h.1]
      · simp at h; simp [h.1]
    · simp at h
  exact pure_ _ _ _ _ h
/-- What the dispatcher picks is startable, so no timeout of it has passed (R45, R49). -/
theorem pick_startable {s : State} {c : Cmd} {cls : Nat} {r : Rotation} (h : s.pick = some (c, cls, r)) : s.startable c = true := by
  have key : ∀ k x, s.pickIn k = some x → s.startable x.1 = true := by
    intro k x hx
    unfold State.pickIn at hx
    dsimp only at hx
    split at hx
    · cases hx
    · simp only [Option.map_eq_some_iff] at hx
      obtain ⟨a, ha, rfl⟩ := hx
      exact firstOf_startable ha
  rcases firstClass h with ⟨r, h⟩ | ⟨r, h⟩ | ⟨r, h⟩
  · exact key 1 (c, r) h
  · exact key 2 (c, r) h
  · exact key 3 (c, r) h

/-- A command that the dispatcher picks, and that no other holds back, takes its effect (R45, R46, R84). -/
theorem advance_begins {s u : State} {c : Cmd} {op : Nat} (h : Begins s c op u) (body : State → Option State) {t : State}
    (hb : body u = some t) : s.advance c op body = .next t := by
  obtain ⟨h1, ⟨p, hp, hps, hpe⟩, hcl, ho, hun, cls, r, hpick, hh, rfl⟩ := h
  unfold State.advance
  rw [if_neg (by unfold cmdOp; simp [h1]), hp]
  simp only [ho, hpe, hps, hcl, hun, hpick, Option.isSome_none, if_true, Bool.false_eq_true, if_false]
  unfold State.startNow
  simp only [hh, Bool.false_eq_true, if_false, State.effectOf, hb]
/-- A command of another opcode changes nothing. -/
theorem advance_other {s : State} {c : Cmd} {op : Nat} (h : cmdOp c ≠ op) (body : State → Option State) : s.advance c op body = .next s := by
  unfold State.advance; rw [if_pos h]
/-- A command that is not pending changes nothing. -/
theorem advance_gone {s : State} {c : Cmd} {op : Nat} (h : s.pending c = none) (body : State → Option State) : s.advance c op body = .next s := by
  unfold State.advance; split <;> simp [h]

/-- The turn of a control core that runs, has no fault to take, is not over and stands at no breakpoint runs the word at its pc (R108). -/
theorem step_runs {s : State} {c : Nat} {rest : List Actor} (ha : s.agenda = .core c :: rest) (hp : s.powered = true) (hs : s.started = true)
    (hr : s.runs c = true) (hm : (s.core c).mustTrap = false) (ho : (s.core c).over = false) (hb : (s.core c).breaks = false) :
    let u : State := { s with agenda := rest, free := s.free + freePerStep, cur := { s.cur with core := c, rope := ((s.core c).rope).getD s.cur.rope } }
    step s = runWord exec u.fetch u := by
  intro u
  have e1 : u.runs c = s.runs c := rfl
  have hc : u.core c = s.core c := rfl
  have : step s = coreTurn exec c { s with agenda := rest, free := s.free + freePerStep } := by
    simp only [step, oneStep, State.nextActor, ha, hp, hs]
    simp [turn]
  rw [this]
  unfold coreTurn
  dsimp only
  rw [if_neg (by show ¬ (!u.runs c) = true; rw [e1, hr]; simp), if_neg (by show ¬ (u.core c).mustTrap = true; rw [hc, hm]; simp),
    if_neg (by show ¬ (u.core c).over = true; rw [hc, ho]; simp), if_neg (by show ¬ (u.core c).breaks = true; rw [hc, hb]; simp)]
  rfl

end Sys2Proof.Machine
end

