-- ==== Sys2Proof/Laws/Engine.lean ====
section
/-! SUPPORT. What issuing does (R290, R316, R336): the flights that join a core, the checks of each engine where they pass, and a fault at the
issue. -/
namespace Sys2Proof.Machine

open Sys2Proof.Safety

/-! ## Flights -/

/-- The flights of an instance's effects, numbered from a serial number; those that write beyond the core keep the ASID. -/
def flightsOf (id : Nat) (j : Job) (asid : Option Nat) : List (Nat × Effect) → List Flight
  | [] => []
  | e :: es => (({ tick := e.1, id := id, job := j, upc := 0, effect := e.2, late := false, spots := [], served := [], bad := false,
                   waited := 0, resent := false, asid := if e.2.leavesCore then asid else none } : Flight)) :: flightsOf (id + 1) j asid es
theorem flightsOf_map (id : Nat) (j : Job) (a : Option Nat) (es : List (Nat × Effect)) : (flightsOf id j a es).map (fun x => (x.tick, x.effect)) = es := by
  induction es generalizing id with
  | nil => rfl
  | cons e es ih => simp [flightsOf, ih]
theorem flightsOf_mem (id : Nat) (j : Job) (a : Option Nat) (es : List (Nat × Effect)) (x : Flight) (h : x ∈ flightsOf id j a es) :
    x.job = j ∧ x.upc = 0 ∧ x.late = false := by
  induction es generalizing id with
  | nil => simp [flightsOf] at h
  | cons e es ih =>
    simp only [flightsOf, List.mem_cons] at h
    rcases h with rfl | h
    · exact ⟨rfl, rfl, rfl⟩
    · exact ih _ h

theorem asidOf_onCore (s : State) (n core : Nat) (f : Core → Core) (h : ∀ c, (f c).rope = c.rope) :
    (State.onCore { s with serial := n } core f).asidOf core = s.asidOf core := by
  have h1 : ((State.onCore { s with serial := n } core f).core core).rope = (s.core core).rope := by
    rw [core_onCore_self]
    exact h _
  have h2 : (State.onCore { s with serial := n } core f).ropeOf core = s.ropeOf core := by
    unfold State.ropeOf
    rw [h1]
    rfl
  unfold State.asidOf
  rw [h2]
  rfl
/-- One flight of an instance. -/
theorem fly_eq (s : State) (core : Nat) (j : Job) (tick : Nat) (e : Effect) :
    s.fly core j tick e = State.onCore { s with serial := s.serial + 1 } core fun c => { c with flights := c.flights ++ flightsOf s.serial j (s.asidOf core) [(tick, e)] } := by
  unfold State.fly State.flyFrom State.flySpots flightsOf
  cases e.leavesCore <;> rfl
/-- Several effects of one instance: all that changes is the core's flights and the serial number. -/
theorem flyAll_eq (s : State) (core : Nat) (j : Job) (es : List (Nat × Effect)) :
    s.flyAll core j es = if es = [] then s else
      ({ s with serial := s.serial + es.length } : State).setCore core
        { s.core core with flights := (s.core core).flights ++ flightsOf s.serial j (s.asidOf core) es } := by
  induction es generalizing s with
  | nil => rfl
  | cons e es ih =>
    rw [if_neg (by simp)]
    show (s.fly core j e.1 e.2).flyAll core j es = _
    rw [ih]
    by_cases hn : es = []
    · subst hn
      rw [if_pos rfl, fly_eq]
      rfl
    · rw [if_neg hn]
      have h1 : (s.fly core j e.1 e.2).core core = { s.core core with flights := (s.core core).flights ++ flightsOf s.serial j (s.asidOf core) [e] } := by
        rw [fly_eq, core_onCore_self]
        rfl
      have h2 : (s.fly core j e.1 e.2).serial = s.serial + 1 := rfl
      have h3 : (s.fly core j e.1 e.2).asidOf core = s.asidOf core := by
        rw [fly_eq]
        exact asidOf_onCore _ _ _ _ fun _ => rfl
      rw [h1, h2, h3, fly_eq]
      show State.mk .. = State.mk ..
      congr 1
      · show s.serial + 1 + es.length = s.serial + (es.length + 1)
        omega
      · show insert (insert s.cores core _) core _ = insert s.cores core _
        rw [insert_insert]
        simp [flightsOf, List.append_assoc]

theorem setCore_after (s : State) (c d : Core) (n : Nat) :
    ({ s.setHere c with serial := n } : State).setCore s.cur.core d = ({ s with serial := n } : State).setHere d := by
  simp only [State.setHere, State.setCore, insert_insert]

/-- An instruction that counts ports, changes its core by f, and puts effects on their ticks, issues. -/
theorem issues_of {i : Instr} {s : State} {f : Core → Core} {es : List (Nat × Effect)} {p : List (Nat × Nat)}
    (h : exec i s = .next ((s.setHere { f s.here with ports := p }).flyAll s.cur.core s.cur.job es)) (hn : es ≠ []) : Issues i s es f := by
  have e : (s.setHere { f s.here with ports := p }).core s.cur.core = { f s.here with ports := p } := here_setHere _ _
  rw [flyAll_eq, if_neg hn, e, setCore_after] at h
  refine ⟨_, flightsOf s.serial s.cur.job ((s.setHere { f s.here with ports := p }).asidOf s.cur.core) es, h, flightsOf_map ..,
    fun x hx => flightsOf_mem _ _ _ _ _ hx, ?_, fun _ _ => rfl⟩
  rw [here_setHere]
  rfl

/-- The issue of a vector instruction that writes lanes. -/
theorem vWrite_eq (s : State) (reads : List Nat) (phys lat : Nat) (rs : List (Nat × LaneResult)) :
    s.vWrite reads phys lat rs = (s.setHere (s.here.touch reads)).flyAll s.cur.core s.cur.job
      ((s.cur.job.t + lat, .vrf (rs.map fun r => (phys * 64 + r.1, r.2.1)))
        :: if laneStatus rs = .none then [] else [(s.cur.job.t + lat, .vflags (laneStatus rs))]) := by
  unfold State.vWrite
  dsimp only
  split <;> rfl
theorem writesThese_of {i : Instr} {s : State} {d : BitVec 8} {reads : List Nat} {lat : Nat} {rs : List (Nat × LaneResult)}
    (h : exec i s = .next (s.vWrite reads (physReg s.here.vrb d.toNat) lat rs)) : WritesThese i s d lat rs := by
  rw [vWrite_eq] at h
  exact issues_of (f := id) h (by simp)

/-! ## Later steps -/

/-- A flight with its data in time is all that changes. -/
theorem flies_flyFrom (s : State) (core : Nat) (j : Job) (upc tick : Nat) (e : Effect) :
    Flies s (s.flyFrom core j upc tick false e) core j [(tick, upc, e)] id := by
  refine ⟨[{ tick := tick, id := s.serial, job := j, upc := upc, effect := e, late := false, spots := [], served := [], bad := false,
             waited := 0, resent := false, asid := if ([] : List Mapped).isEmpty && !e.leavesCore then none else s.asidOf core }], rfl, fun x hx => ?_, ?_,
          fun c hc => core_onCore_ne _ _ _ _ hc, fun _ _ => rfl⟩
  · rw [List.mem_singleton.1 hx]
    exact ⟨rfl, rfl⟩
  · rw [show (s.flyFrom core j upc tick false e).core core = _ from core_onCore_self _ _ _]
    rfl
/-- Steps follow one another. -/
theorem flies_trans {s t u : State} {core : Nat} {j : Job} {a b : List (Nat × Nat × Effect)} {f : Core → Core} (h : Flies s t core j a f)
    (g : Flies t u core j b id) : Flies s u core j (a ++ b) f := by
  obtain ⟨fs, h1, h2, h3, h4, h5⟩ := h
  obtain ⟨gs, g1, g2, g3, g4, g5⟩ := g
  refine ⟨fs ++ gs, by simp [h1, g1], fun x hx => (List.mem_append.1 hx).elim (h2 x) (g2 x), by rw [g3, h3]; simp, fun c hc => ?_, fun k a => ?_⟩
  · rw [g4 _ hc, h4 _ hc]
  · rw [g5, h5]

/-! ## Faults at the issue -/

theorem core_engineFault_ne (s : State) (id code sub : Nat) (v : Word) (q slot upc tick i : Nat) (h : i ≠ id) :
    (s.engineFault id code sub v q slot upc tick).core i = s.core i := by
  unfold State.engineFault
  dsimp only
  rw [core_setCore_ne _ _ _ _ h, core_hold]
theorem suspends_of {i : Instr} {s : State} {code sub : Nat} {v : Word}
    (h : exec i s = .next (s.suspend s.cur.core s.cur.job 0 .none code sub v s.cur.job.t)) : Suspends i s code sub v := by
  have hcur : (s.suspend s.cur.core s.cur.job 0 .none code sub v s.cur.job.t).cur = s.cur := by
    simp [State.suspend, State.suspendAt, State.engineFault, State.onCore, State.setCore]
  have hhere : (s.suspend s.cur.core s.cur.job 0 .none code sub v s.cur.job.t).here
      = { s.here with pending := s.here.pending ++ [issueFaultOf s code sub v],
                      queues := alter s.here.queues s.cur.job.q fun q => { q with susp := some (suspendedAtIssue s) } } := by
    show State.core _ (State.cur _).core = _
    rw [hcur]
    simp only [State.suspend, State.suspendAt, core_onCore_self, State.engineFault, core_setCore_self]
    rfl
  refine ⟨_, h, by rw [hhere], by rw [hhere], by rw [hhere], fun c hc => ?_, fun k a => ?_⟩
  · simp only [State.suspend, State.suspendAt]
    rw [core_onCore_ne _ _ _ _ hc, core_engineFault_ne _ _ _ _ _ _ _ _ _ _ hc]
  · simp [State.suspend, State.suspendAt, State.engineFault]

end Sys2Proof.Machine
end

