-- ==== Sys2Proof/Laws/Keeps.lean ====
section
/-! SUPPORT. Every operation of the machine keeps memory in its canonical form: one lemma for each definition that answers a state or an
outcome, each from the lemmas of what it calls, up to one step of the machine for any meaning of the instructions that keeps it. -/
namespace Sys2Proof.Machine
/-- Every next state keeps the canonical form. -/
def OutWf (o : Out) : Prop := ∀ t, o = .next t → MemWf t
/-- The state that is there keeps the canonical form. -/
def OptWf (o : Option State) : Prop := ∀ t, o = some t → MemWf t

@[simp] theorem memWf_mk (s : State) (powered : Bool) (started : Bool) (pwrgd : Bool) (alert : Bool) (degraded : Bool) (gtc : Word) (free : Nat) (serial : Nat) (agenda : List Actor) (cur : Current) (poison : List Nat) (durable : List DurableWrite) (durableBase : List (Nat × UnitWrite)) (hdm : List HdmRange) (present : List Nat) (closedPorts : List Nat) (downLinks : List (Nat × Word)) (resetCause : Nat) (crossings : List Crossing) (formats : BitVec 13) (fuses : List KeySlot) (rollback : Nat) (firmware : Firmware) (worlds : List (Nat × World)) (identities : List (Nat × Nat)) (asids : List (Nat × Asid)) (peers : List (Nat × PeerEntry)) (clusterTlb : List (Nat × List TlbEntry)) (wheels : List (Nat × SlotKind)) (moved : List (Nat × Nat)) (scanSlots : List (Cmd × List Nat)) (classHolders : List (Nat × RopeKey)) (steps : List Nat) (mode : Nat) (ifaces : List (Nat × Iface)) (rotations : Rotation × Rotation × Rotation) (ropes : List Rope) (cores : List (Nat × Core)) (store : List (Nat × Byte)) (regionTags : List (Nat × Nat × BitVec 24)) (allocNext : BitVec 16) (errors : List ErrorRecord) (outgoing : List Outgoing) (replies : List Reply) (hostReplies : List HostReply) (signalRecords : List (SignalSource × BitVec 16 × Nat)) (waitingSignals : List Waiting) (applied : List (Nat × Nat)) (requests : List (Instr × List Nat)) (captures : List Capture) (stepGtc : List Word) (ownWrites : List OwnWrite) (phaseWrites : List (RopeKey × Nat × List Nat)) (tainted : List Taint) (boots : Nat) (disabled : List (Nat × Nat)) (i3c : List I3cReport) :
    MemWf (State.mk powered started pwrgd alert degraded gtc free serial agenda cur s.mem s.keys poison durable durableBase hdm present closedPorts downLinks resetCause crossings formats fuses rollback firmware worlds identities asids peers clusterTlb wheels moved scanSlots classHolders steps mode ifaces rotations ropes cores store regionTags allocNext errors outgoing replies hostReplies signalRecords waitingSignals applied requests captures stepGtc ownWrites phaseWrites tainted boots disabled i3c) ↔ MemWf s := Iff.rfl

@[simp] theorem outWf_next (s : State) : OutWf (.next s) ↔ MemWf s := ⟨fun h => h s rfl, fun h _ e => by cases e; exact h⟩
@[simp] theorem outWf_fault (r : Fault) : OutWf (.fault r) := fun _ e => by cases e
@[simp] theorem outWf_refused (r : Refusal) : OutWf (.refused r) := fun _ e => by cases e
@[simp] theorem optWf_some (s : State) : OptWf (some s) ↔ MemWf s := ⟨fun h => h s rfl, fun h _ e => by cases e; exact h⟩
theorem OptWf.map {o : Option State} {f : State → State} (h : OptWf o) (hf : ∀ s, MemWf s → MemWf (f s)) : OptWf (o.map f) := by
  intro t e
  obtain ⟨p, hp, rfl⟩ := Option.map_eq_some_iff.1 e
  exact hf _ (h p hp)
@[simp] theorem optWf_none : OptWf none := fun _ e => by cases e

@[simp] theorem memWf_setHere (s : State) (c : Core) : MemWf (s.setHere c) ↔ MemWf s := Iff.rfl
@[simp] theorem memWf_setCore (s : State) (i : Nat) (c : Core) : MemWf (s.setCore i c) ↔ MemWf s := Iff.rfl
@[simp] theorem memWf_onCore (s : State) (i : Nat) (f : Core → Core) : MemWf (s.onCore i f) ↔ MemWf s := Iff.rfl
@[simp] theorem memWf_setIface (s : State) (n : Nat) (i : Iface) : MemWf (s.setIface n i) ↔ MemWf s := Iff.rfl
@[simp] theorem memWf_onIface (s : State) (n : Nat) (f : Iface → Iface) : MemWf (s.onIface n f) ↔ MemWf s := Iff.rfl
@[simp] theorem memWf_setRope (s : State) (r : Rope) : MemWf (s.setRope r) ↔ MemWf s := Iff.rfl
@[simp] theorem memWf_setWorld (s : State) (w : Nat) (x : World) : MemWf (s.setWorld w x) ↔ MemWf s := Iff.rfl
@[simp] theorem memWf_onRope (s : State) (k : RopeKey) (f : Rope → Rope) : MemWf (s.onRope k f) ↔ MemWf s := by
  unfold State.onRope; split <;> rfl
theorem memWf_fst {β : Type} {p : State × β} {t : State} {b : β} (e : p = (t, b)) (h : MemWf p.1) : MemWf t := by
  subst e; exact h
theorem memWf_of_some {β : Type} {x y : State × β} (h : some x = some y) (hx : MemWf x.1) : MemWf y.1 := by
  cases h; exact hx
theorem outWf_ite {c : Prop} [Decidable c] {a b : Out} (ha : OutWf a) (hb : OutWf b) : OutWf (if c then a else b) := by
  split
  · exact ha
  · exact hb
theorem optWf_ite {c : Prop} [Decidable c] {a b : Option State} (ha : OptWf a) (hb : OptWf b) : OptWf (if c then a else b) := by
  split
  · exact ha
  · exact hb
theorem memWf_foldl_pair {α β : Type} (f : State × β → α → State × β) (hf : ∀ a x, MemWf a.1 → MemWf (f a x).1) (l : List α)
    (a : State × β) (h : MemWf a.1) : MemWf (l.foldl f a).1 := by
  induction l generalizing a with
  | nil => exact h
  | cons x l ih => exact ih _ (hf _ _ h)

@[simp] theorem memWf_logDurable (s : State) (o : Origin) (k : KeyTag) (cells : List (Nat × Byte)) (u : Nat) (hs : MemWf s) :
    MemWf (State.logDurable s o k cells u) := by
  unfold State.logDurable; simp [*]
@[simp] theorem memWf_coverUpTo (s : State) (u id : Nat) (hs : MemWf s) :
    MemWf (State.coverUpTo s u id) := by
  unfold State.coverUpTo; simp [*]
@[simp] theorem memWf_cover (s : State) (p : DurableWrite → Bool) (hs : MemWf s) :
    MemWf (State.cover s p) := by
  unfold State.cover; simp +contextual [*, memWf_foldl]
@[simp] theorem memWf_writeFor (s : State) (w va : Nat) (bytes : List Byte) (hs : MemWf s) :
    MemWf (State.writeFor s w va bytes) := by
  unfold State.writeFor
  refine memWf_foldl _ (fun t p ht => ?_) _ _ hs
  split <;> simp [ht]
@[simp] theorem memWf_moveUnit (s : State) (pc : Nat) (hs : MemWf s) :
    MemWf (State.moveUnit s pc) := by
  unfold State.moveUnit; (try dsimp only); (repeat' split) <;> simp +contextual [*, memWf_foldl]
@[simp] theorem memWf_moveSome (s : State) (q : Nat → Requester) (us : List Nat) (hs : MemWf s) : MemWf (s.moveSome q us).1 := by
  induction us generalizing s with
  | nil => exact hs
  | cons u r ih =>
    unfold State.moveSome
    dsimp only
    split
    · exact ih _ (hs.congr rfl rfl)
    · exact ih _ hs
@[simp] theorem memWf_waitFor (s : State) (srcs : List Reg) (go : State) (hs : MemWf s) (hgo : MemWf go) :
    OutWf (State.waitFor s srcs go) := by
  unfold State.waitFor; split <;> simp [*]
@[simp] theorem memWf_alu (s : State) (d : Reg) (srcs : List Reg) (v : Word) (hs : MemWf s) :
    OutWf (State.alu s d srcs v) := by
  unfold State.alu; simp [*]
@[simp] theorem memWf_respond (s : State) (c : Cmd) (status result : Nat) (hs : MemWf s) :
    MemWf (State.respond s c status result) := by
  unfold State.respond; simp [*]
@[simp] theorem memWf_openSlots (s : State) (c : Cmd) (hs : MemWf s) :
    MemWf (State.openSlots s c) := by
  unfold State.openSlots; simp [*]
@[simp] theorem memWf_complete (s : State) (c : Cmd) (status result : Nat) (hs : MemWf s) :
    MemWf (State.complete s c status result) := by
  unfold State.complete; simp [*]
@[simp] theorem memWf_onPending (s : State) (c : Cmd) (f : Pending → Pending) (hs : MemWf s) :
    MemWf (State.onPending s c f) := by
  unfold State.onPending; simp [*]
@[simp] theorem memWf_haulFor (s : State) (c : Cmd) (effect : Bool) (q : Nat → Requester) (units : List Nat) (go : State → State)
    (hs : MemWf s) (hgo : ∀ t, MemWf t → MemWf (go t)) : MemWf (s.haulFor c effect q units go) := by
  unfold State.haulFor
  dsimp only
  split
  · exact hgo _ ((memWf_onIface ..).2 (memWf_moveSome _ _ _ hs))
  · exact (memWf_onIface ..).2 (memWf_moveSome _ _ _ hs)
theorem memWf_eventOp (s : State) (w e : Nat) (want : Want) (f : Word → Word) (p : State × Word) (hs : MemWf s)
    (h : s.eventOp w e want f = some p) : MemWf p.1 := by
  unfold State.eventOp at h
  cases hm : s.mapFor w ((s.iface w).events + 8 * e) 8 want with
  | error c => simp [hm] at h
  | ok m =>
    simp only [hm] at h
    by_cases hp : s.poisoned m.pa 8 = true
    · simp [hp] at h
    · rw [if_neg hp] at h
      refine memWf_of_some h ?_
      dsimp only
      with_reducible exact memWf_store _ _ _ _ _ hs
@[simp] theorem memWf_reply (s : State) (r : Reply) (hs : MemWf s) :
    MemWf (State.reply s r) := by
  unfold State.reply; simp [*]
@[simp] theorem memWf_logError (s : State) (kind store core world addr rtick : Nat) (hs : MemWf s) :
    MemWf (State.logError s kind store core world addr rtick) := by
  unfold State.logError; simp [*]
@[simp] theorem memWf_hold (s : State) (core : Nat) (kind : HoldKind) (tick : Nat) (left : Option Nat) (stall : Bool) (hs : MemWf s) :
    MemWf (State.hold s core kind tick left stall) := by
  unfold State.hold; split <;> simp [*]
@[simp] theorem memWf_send (s : State) (core : Nat) (cls issued entry offset : Nat) (kind : PeerKind) (sig : Option (BitVec 16 × Nat)) (late : Option Reg) (flight : Option (Nat × Nat × Nat)) (va : Nat) (after : List Nat) (hs : MemWf s) :
    MemWf (State.send s core cls issued entry offset kind sig late flight va after) := by
  unfold State.send; simp [*]
@[simp] theorem memWf_noteOwn (s : State) (core at_ : Nat) (cells : List (Nat × Byte)) (hs : MemWf s) : MemWf (s.noteOwn core at_ cells) := by
  unfold State.noteOwn; split <;> simpa using hs
@[simp] theorem memWf_performOut (s : State) (core : Nat) (j : Job) (issued : Nat) (x0 : Effect) (hs : MemWf s) :
    MemWf (State.performOut s core j issued x0) := by
  unfold State.performOut; (try dsimp only); with_reducible (repeat' (first | assumption | (refine outWf_next _ |>.2 ?_) | (refine optWf_some _ |>.2 ?_) | exact optWf_none | (refine memWf_onCore .. |>.2 ?_) | (refine memWf_setHere .. |>.2 ?_) | (refine memWf_setCore .. |>.2 ?_) | (refine memWf_onRope .. |>.2 ?_) | (refine memWf_setRope .. |>.2 ?_) | (refine memWf_onIface .. |>.2 ?_) | (refine memWf_setIface .. |>.2 ?_) | (refine memWf_setWorld .. |>.2 ?_) | apply memWf_store | apply memWf_send | apply memWf_noteOwn | apply memWf_amo | (refine memWf_foldl _ (fun _ _ _ => ?_) _ _ ?_) | simp only [memWf_mk] | split | (intro _ _)))
@[simp] theorem memWf_dropFlight (s : State) (core id : Nat) (hs : MemWf s) :
    MemWf (State.dropFlight s core id) := by
  unfold State.dropFlight; (try dsimp only); with_reducible (repeat' (first | assumption | (refine outWf_next _ |>.2 ?_) | (refine optWf_some _ |>.2 ?_) | exact optWf_none | (refine memWf_onCore .. |>.2 ?_) | (refine memWf_setHere .. |>.2 ?_) | (refine memWf_setCore .. |>.2 ?_) | (refine memWf_onRope .. |>.2 ?_) | (refine memWf_setRope .. |>.2 ?_) | (refine memWf_onIface .. |>.2 ?_) | (refine memWf_setIface .. |>.2 ?_) | (refine memWf_setWorld .. |>.2 ?_) | (refine memWf_foldl _ (fun _ _ _ => ?_) _ _ ?_) | simp only [memWf_mk] | split | (intro _ _)))
@[simp] theorem memWf_flushFrom (s : State) (core : Nat) (fs : List Flight) (hs : MemWf s) : MemWf (s.flushFrom core fs) := by
  induction fs generalizing s with
  | nil => exact hs
  | cons f r ih =>
    unfold State.flushFrom
    dsimp only
    split
    · exact ih _ hs
    · split
      · exact ih _ (memWf_performOut _ _ _ _ _ (memWf_dropFlight _ _ _ (memWf_moveSome _ _ _ hs)))
      · exact (memWf_onCore _ _ _).2 (memWf_moveSome _ _ _ hs)
@[simp] theorem memWf_flushWrites (s : State) (id : Nat) (hs : MemWf s) :
    MemWf (State.flushWrites s id) := by
  unfold State.flushWrites; (try dsimp only); with_reducible (repeat' (first | assumption | (refine outWf_next _ |>.2 ?_) | (refine optWf_some _ |>.2 ?_) | exact optWf_none | (refine memWf_onCore .. |>.2 ?_) | (refine memWf_setHere .. |>.2 ?_) | (refine memWf_setCore .. |>.2 ?_) | (refine memWf_onRope .. |>.2 ?_) | (refine memWf_setRope .. |>.2 ?_) | (refine memWf_onIface .. |>.2 ?_) | (refine memWf_setIface .. |>.2 ?_) | (refine memWf_setWorld .. |>.2 ?_) | apply memWf_flushFrom | (refine memWf_foldl _ (fun _ _ _ => ?_) _ _ ?_) | simp only [memWf_mk] | split | (intro _ _)))
@[simp] theorem memWf_writePlace (s : State) (core cls : Nat) (gen : BitVec 24) (pl : Place) (bs : List Byte) (hs : MemWf s) :
    MemWf (State.writePlace s core cls gen pl bs) := by
  unfold State.writePlace; (repeat' split) <;> simp [*]
@[simp] theorem memWf_dropAccess (s : State) (core id : Nat) (hs : MemWf s) :
    MemWf (State.dropAccess s core id) := by
  unfold State.dropAccess; simp [*]
@[simp] theorem memWf_unreplayable (s : State) (core : Nat) (hs : MemWf s) :
    MemWf (State.unreplayable s core) := by
  unfold State.unreplayable; (repeat' split) <;> simp +contextual [*, memWf_foldl]
@[simp] theorem memWf_serveAccess (s : State) (core : Nat) (a : Access) (hs : MemWf s) :
    MemWf (State.serveAccess s core a) := by
  unfold State.serveAccess; (try dsimp only); with_reducible (repeat' (first | assumption | (refine outWf_next _ |>.2 ?_) | (refine optWf_some _ |>.2 ?_) | exact optWf_none | (refine memWf_onCore .. |>.2 ?_) | (refine memWf_setHere .. |>.2 ?_) | (refine memWf_setCore .. |>.2 ?_) | (refine memWf_onRope .. |>.2 ?_) | (refine memWf_setRope .. |>.2 ?_) | (refine memWf_onIface .. |>.2 ?_) | (refine memWf_setIface .. |>.2 ?_) | (refine memWf_setWorld .. |>.2 ?_) | apply memWf_moveSome | (refine memWf_foldl _ (fun _ _ _ => ?_) _ _ ?_) | simp only [memWf_mk] | split | (intro _ _)))
@[simp] theorem memWf_badAccess (s : State) (core : Nat) (a : Access) (hs : MemWf s) :
    MemWf (State.badAccess s core a) := by
  unfold State.badAccess; (try dsimp only); with_reducible (repeat' (first | assumption | (refine outWf_next _ |>.2 ?_) | (refine optWf_some _ |>.2 ?_) | exact optWf_none | (refine memWf_onCore .. |>.2 ?_) | (refine memWf_setHere .. |>.2 ?_) | (refine memWf_setCore .. |>.2 ?_) | (refine memWf_onRope .. |>.2 ?_) | (refine memWf_setRope .. |>.2 ?_) | (refine memWf_onIface .. |>.2 ?_) | (refine memWf_setIface .. |>.2 ?_) | (refine memWf_setWorld .. |>.2 ?_) | apply memWf_dropAccess | (refine memWf_foldl _ (fun _ _ _ => ?_) _ _ ?_) | simp only [memWf_mk] | split | (intro _ _)))
@[simp] theorem memWf_performAccess (s0 : State) (core : Nat) (a : Access) (hs0 : MemWf s0) :
    MemWf (State.performAccess s0 core a) := by
  unfold State.performAccess; (try dsimp only); with_reducible (repeat' (first | assumption | (refine outWf_next _ |>.2 ?_) | (refine optWf_some _ |>.2 ?_) | exact optWf_none | (refine memWf_onCore .. |>.2 ?_) | (refine memWf_setHere .. |>.2 ?_) | (refine memWf_setCore .. |>.2 ?_) | (refine memWf_onRope .. |>.2 ?_) | (refine memWf_setRope .. |>.2 ?_) | (refine memWf_onIface .. |>.2 ?_) | (refine memWf_setIface .. |>.2 ?_) | (refine memWf_setWorld .. |>.2 ?_) | apply memWf_send | apply memWf_writePlace | apply memWf_dropAccess | apply memWf_unreplayable | apply memWf_serveAccess | apply memWf_badAccess | apply memWf_load | apply memWf_amo | (refine memWf_foldl _ (fun _ _ _ => ?_) _ _ ?_) | simp only [memWf_mk] | split | (intro _ _)))
@[simp] theorem memWf_finishFrom (s : State) (core n : Nat) (hs : MemWf s) : MemWf (State.finishFrom s core n) := by
  induction n generalizing s with
  | zero => exact hs
  | succ n ih =>
    unfold State.finishFrom
    split
    · exact ih _ (memWf_performAccess _ _ _ hs)
    · exact hs
@[simp] theorem memWf_finishAccesses (s : State) (core : Nat) (hs : MemWf s) :
    MemWf (State.finishAccesses s core) := by
  unfold State.finishAccesses; simp +contextual [*, memWf_foldl]
@[simp] theorem memWf_settleCores (s : State) (cores : List Nat) (hs : MemWf s) :
    MemWf (State.settleCores s cores) := by
  unfold State.settleCores; (try dsimp only); with_reducible (repeat' (first | assumption | (refine outWf_next _ |>.2 ?_) | (refine optWf_some _ |>.2 ?_) | exact optWf_none | (refine memWf_onCore .. |>.2 ?_) | (refine memWf_setHere .. |>.2 ?_) | (refine memWf_setCore .. |>.2 ?_) | (refine memWf_onRope .. |>.2 ?_) | (refine memWf_setRope .. |>.2 ?_) | (refine memWf_onIface .. |>.2 ?_) | (refine memWf_setIface .. |>.2 ?_) | (refine memWf_setWorld .. |>.2 ?_) | apply memWf_flushWrites | apply memWf_finishAccesses | (refine memWf_foldl _ (fun _ _ _ => ?_) _ _ ?_) | simp only [memWf_mk] | split | (intro _ _)))
@[simp] theorem memWf_writeRecord (s : State) (r : Rope) (l : Launch) (status : Nat) (hs : MemWf s) :
    MemWf (State.writeRecord s r l status).1 := by
  unfold State.writeRecord; dsimp only; (repeat' split) <;> simp +contextual [*, memWf_foldl]
@[simp] theorem memWf_finishLaunch (s : State) (r : Rope) (l : Launch) (faulted : Bool) (hs : MemWf s) :
    MemWf (State.finishLaunch s r l faulted) := by
  have h1 := memWf_writeRecord s r l (if faulted then 1 else 0) hs
  unfold State.finishLaunch
  split
  · exact hs
  · dsimp only
    refine memWf_complete _ _ _ _ ?_
    cases he : (s.writeRecord r l (if faulted then 1 else 0)).1.eventOp r.key.world l.event .write (· + 1) with
    | none => exact h1
    | some p => exact memWf_eventOp _ _ _ _ _ _ h1 he
@[simp] theorem memWf_noteFault (s : State) (id code sub : Nat) (hs : MemWf s) :
    MemWf (State.noteFault s id code sub) := by
  unfold State.noteFault; split <;> simp [*]
@[simp] theorem memWf_unseal (s : State) (k : RopeKey) (hs : MemWf s) :
    MemWf (State.unseal s k) := by
  unfold State.unseal; (try dsimp only); with_reducible (repeat' (first | assumption | (refine outWf_next _ |>.2 ?_) | (refine optWf_some _ |>.2 ?_) | exact optWf_none | (refine memWf_onCore .. |>.2 ?_) | (refine memWf_setHere .. |>.2 ?_) | (refine memWf_setCore .. |>.2 ?_) | (refine memWf_onRope .. |>.2 ?_) | (refine memWf_setRope .. |>.2 ?_) | (refine memWf_onIface .. |>.2 ?_) | (refine memWf_setIface .. |>.2 ?_) | (refine memWf_setWorld .. |>.2 ?_) | (refine memWf_foldl _ (fun _ _ _ => ?_) _ _ ?_) | simp only [memWf_mk] | split | (intro _ _)))
@[simp] theorem memWf_cancelFrz (s : State) (id : Nat) (hs : MemWf s) :
    MemWf (State.cancelFrz s id) := by
  unfold State.cancelFrz; (try dsimp only); with_reducible (repeat' (first | assumption | (refine outWf_next _ |>.2 ?_) | (refine optWf_some _ |>.2 ?_) | exact optWf_none | (refine memWf_onCore .. |>.2 ?_) | (refine memWf_setHere .. |>.2 ?_) | (refine memWf_setCore .. |>.2 ?_) | (refine memWf_onRope .. |>.2 ?_) | (refine memWf_setRope .. |>.2 ?_) | (refine memWf_onIface .. |>.2 ?_) | (refine memWf_setIface .. |>.2 ?_) | (refine memWf_setWorld .. |>.2 ?_) | apply memWf_unseal | (refine memWf_foldl _ (fun _ _ _ => ?_) _ _ ?_) | simp only [memWf_mk] | split | (intro _ _)))
@[simp] theorem memWf_quitLaunch (s : State) (r : Rope) (run : Nat) (hs : MemWf s) :
    MemWf (State.quitLaunch s r run) := by
  unfold State.quitLaunch; (try dsimp only); with_reducible (repeat' (first | assumption | (refine outWf_next _ |>.2 ?_) | (refine optWf_some _ |>.2 ?_) | exact optWf_none | (refine memWf_onCore .. |>.2 ?_) | (refine memWf_setHere .. |>.2 ?_) | (refine memWf_setCore .. |>.2 ?_) | (refine memWf_onRope .. |>.2 ?_) | (refine memWf_setRope .. |>.2 ?_) | (refine memWf_onIface .. |>.2 ?_) | (refine memWf_setIface .. |>.2 ?_) | (refine memWf_setWorld .. |>.2 ?_) | apply memWf_cancelFrz | (refine memWf_foldl _ (fun _ _ _ => ?_) _ _ ?_) | simp only [memWf_mk] | split | (intro _ _)))
@[simp] theorem memWf_leaveRope (s : State) (k : RopeKey) (l : Launch) (table : Option (List Byte)) (hs : MemWf s) :
    MemWf (State.leaveRope s k l table) := by
  unfold State.leaveRope; (try dsimp only); with_reducible (repeat' (first | assumption | (refine outWf_next _ |>.2 ?_) | (refine optWf_some _ |>.2 ?_) | exact optWf_none | (refine memWf_onCore .. |>.2 ?_) | (refine memWf_setHere .. |>.2 ?_) | (refine memWf_setCore .. |>.2 ?_) | (refine memWf_onRope .. |>.2 ?_) | (refine memWf_setRope .. |>.2 ?_) | (refine memWf_onIface .. |>.2 ?_) | (refine memWf_setIface .. |>.2 ?_) | (refine memWf_setWorld .. |>.2 ?_) | apply memWf_complete | (refine memWf_foldl _ (fun _ _ _ => ?_) _ _ ?_) | simp only [memWf_mk] | split | (intro _ _)))
@[simp] theorem memWf_settleEnd (s : State) (k : RopeKey) (hs : MemWf s) :
    MemWf (State.settleEnd s k) := by
  unfold State.settleEnd; (try dsimp only); with_reducible (repeat' (first | assumption | (refine outWf_next _ |>.2 ?_) | (refine optWf_some _ |>.2 ?_) | exact optWf_none | (refine memWf_onCore .. |>.2 ?_) | (refine memWf_setHere .. |>.2 ?_) | (refine memWf_setCore .. |>.2 ?_) | (refine memWf_onRope .. |>.2 ?_) | (refine memWf_setRope .. |>.2 ?_) | (refine memWf_onIface .. |>.2 ?_) | (refine memWf_setIface .. |>.2 ?_) | (refine memWf_setWorld .. |>.2 ?_) | apply memWf_settleCores | apply memWf_finishLaunch | apply memWf_leaveRope | (refine memWf_foldl _ (fun _ _ _ => ?_) _ _ ?_) | simp only [memWf_mk] | split | (intro _ _)))
@[simp] theorem memWf_endFaulted (s : State) (id code sub : Nat) (hs : MemWf s) :
    MemWf (State.endFaulted s id code sub) := by
  unfold State.endFaulted; (try dsimp only); with_reducible (repeat' (first | assumption | (refine outWf_next _ |>.2 ?_) | (refine optWf_some _ |>.2 ?_) | exact optWf_none | (refine memWf_onCore .. |>.2 ?_) | (refine memWf_setHere .. |>.2 ?_) | (refine memWf_setCore .. |>.2 ?_) | (refine memWf_onRope .. |>.2 ?_) | (refine memWf_setRope .. |>.2 ?_) | (refine memWf_onIface .. |>.2 ?_) | (refine memWf_setIface .. |>.2 ?_) | (refine memWf_setWorld .. |>.2 ?_) | apply memWf_quitLaunch | apply memWf_settleEnd | (refine memWf_foldl _ (fun _ _ _ => ?_) _ _ ?_) | simp only [memWf_mk] | split | (intro _ _)))
@[simp] theorem memWf_trap (s : State) (id : Nat) (f : PendingFault) (tpc : Word) (hs : MemWf s) :
    MemWf (State.trap s id f tpc) := by
  unfold State.trap; (try dsimp only); with_reducible (repeat' (first | assumption | (refine outWf_next _ |>.2 ?_) | (refine optWf_some _ |>.2 ?_) | exact optWf_none | (refine memWf_onCore .. |>.2 ?_) | (refine memWf_setHere .. |>.2 ?_) | (refine memWf_onRope .. |>.2 ?_) | (refine memWf_setRope .. |>.2 ?_) | (refine memWf_onIface .. |>.2 ?_) | apply memWf_cancelFrz | apply memWf_endFaulted | apply memWf_hold | apply memWf_noteFault | (refine memWf_foldl _ (fun _ _ _ => ?_) _ _ ?_) | simp only [memWf_mk] | split))
@[simp] theorem memWf_fault (s : State) (code sub : Nat) (value : Word) (tpc : Word) (hs : MemWf s) :
    MemWf (State.fault s code sub value tpc) := by
  unfold State.fault; (try dsimp only); with_reducible (repeat' (first | assumption | (refine outWf_next _ |>.2 ?_) | (refine optWf_some _ |>.2 ?_) | exact optWf_none | (refine memWf_onCore .. |>.2 ?_) | (refine memWf_setHere .. |>.2 ?_) | (refine memWf_setCore .. |>.2 ?_) | (refine memWf_onRope .. |>.2 ?_) | (refine memWf_setRope .. |>.2 ?_) | (refine memWf_onIface .. |>.2 ?_) | (refine memWf_setIface .. |>.2 ?_) | (refine memWf_setWorld .. |>.2 ?_) | apply memWf_trap | (refine memWf_foldl _ (fun _ _ _ => ?_) _ _ ?_) | simp only [memWf_mk] | split | (intro _ _)))
@[simp] theorem memWf_faultHere (s : State) (code : Nat) (value : Word) (hs : MemWf s) :
    MemWf (State.faultHere s code value) := by
  unfold State.faultHere; simp [*]
@[simp] theorem memWf_faultWord (s : State) (code : Nat) (hs : MemWf s) :
    MemWf (State.faultWord s code) := by
  unfold State.faultWord; simp [*]
@[simp] theorem memWf_engineFault (s : State) (id : Nat) (code sub : Nat) (value : Word) (q slot upc tick : Nat) (hs : MemWf s) :
    MemWf (State.engineFault s id code sub value q slot upc tick) := by
  unfold State.engineFault; (try dsimp only); with_reducible (repeat' (first | assumption | (refine outWf_next _ |>.2 ?_) | (refine optWf_some _ |>.2 ?_) | exact optWf_none | (refine memWf_onCore .. |>.2 ?_) | (refine memWf_setHere .. |>.2 ?_) | (refine memWf_setCore .. |>.2 ?_) | (refine memWf_onRope .. |>.2 ?_) | (refine memWf_setRope .. |>.2 ?_) | (refine memWf_onIface .. |>.2 ?_) | (refine memWf_setIface .. |>.2 ?_) | (refine memWf_setWorld .. |>.2 ?_) | apply memWf_hold | apply memWf_trap | (refine memWf_foldl _ (fun _ _ _ => ?_) _ _ ?_) | simp only [memWf_mk] | split | (intro _ _)))
@[simp] theorem memWf_execCAdd (d a b : Reg) (s : State) (hs : MemWf s) :
    OutWf (execCAdd d a b s) := by
  unfold execCAdd; simp [*]
@[simp] theorem memWf_execCSub (d a b : Reg) (s : State) (hs : MemWf s) :
    OutWf (execCSub d a b s) := by
  unfold execCSub; simp [*]
@[simp] theorem memWf_execCAnd (d a b : Reg) (s : State) (hs : MemWf s) :
    OutWf (execCAnd d a b s) := by
  unfold execCAnd; simp [*]
@[simp] theorem memWf_execCOr (d a b : Reg) (s : State) (hs : MemWf s) :
    OutWf (execCOr d a b s) := by
  unfold execCOr; simp [*]
@[simp] theorem memWf_execCXor (d a b : Reg) (s : State) (hs : MemWf s) :
    OutWf (execCXor d a b s) := by
  unfold execCXor; simp [*]
@[simp] theorem memWf_execCAndn (d a b : Reg) (s : State) (hs : MemWf s) :
    OutWf (execCAndn d a b s) := by
  unfold execCAndn; simp [*]
@[simp] theorem memWf_execCShl (d a b : Reg) (s : State) (hs : MemWf s) :
    OutWf (execCShl d a b s) := by
  unfold execCShl; simp [*]
@[simp] theorem memWf_execCShr (d a b : Reg) (s : State) (hs : MemWf s) :
    OutWf (execCShr d a b s) := by
  unfold execCShr; simp [*]
@[simp] theorem memWf_execCSar (d a b : Reg) (s : State) (hs : MemWf s) :
    OutWf (execCSar d a b s) := by
  unfold execCSar; simp [*]
@[simp] theorem memWf_execCFshl (d a b x : Reg) (s : State) (hs : MemWf s) :
    OutWf (execCFshl d a b x s) := by
  unfold execCFshl; simp [*]
@[simp] theorem memWf_execCFshr (d a b x : Reg) (s : State) (hs : MemWf s) :
    OutWf (execCFshr d a b x s) := by
  unfold execCFshr; simp [*]
@[simp] theorem memWf_execCMul (d a b : Reg) (s : State) (hs : MemWf s) :
    OutWf (execCMul d a b s) := by
  unfold execCMul; simp [*]
@[simp] theorem memWf_execCMulh (d a b : Reg) (s : State) (hs : MemWf s) :
    OutWf (execCMulh d a b s) := by
  unfold execCMulh; simp [*]
@[simp] theorem memWf_execCMulhn (d a b : Reg) (s : State) (hs : MemWf s) :
    OutWf (execCMulhn d a b s) := by
  unfold execCMulhn; simp [*]
@[simp] theorem memWf_execCDivn (d a b : Reg) (s : State) (hs : MemWf s) :
    OutWf (execCDivn d a b s) := by
  unfold execCDivn; simp [*]
@[simp] theorem memWf_execCRemn (d a b : Reg) (s : State) (hs : MemWf s) :
    OutWf (execCRemn d a b s) := by
  unfold execCRemn; simp [*]
@[simp] theorem memWf_execCMin (d a b : Reg) (s : State) (hs : MemWf s) :
    OutWf (execCMin d a b s) := by
  unfold execCMin; simp [*]
@[simp] theorem memWf_execCMax (d a b : Reg) (s : State) (hs : MemWf s) :
    OutWf (execCMax d a b s) := by
  unfold execCMax; simp [*]
@[simp] theorem memWf_execCMinn (d a b : Reg) (s : State) (hs : MemWf s) :
    OutWf (execCMinn d a b s) := by
  unfold execCMinn; simp [*]
@[simp] theorem memWf_execCMaxn (d a b : Reg) (s : State) (hs : MemWf s) :
    OutWf (execCMaxn d a b s) := by
  unfold execCMaxn; simp [*]
@[simp] theorem memWf_execCSeq (d a b : Reg) (s : State) (hs : MemWf s) :
    OutWf (execCSeq d a b s) := by
  unfold execCSeq; simp [*]
@[simp] theorem memWf_execCSne (d a b : Reg) (s : State) (hs : MemWf s) :
    OutWf (execCSne d a b s) := by
  unfold execCSne; simp [*]
@[simp] theorem memWf_execCSlt (d a b : Reg) (s : State) (hs : MemWf s) :
    OutWf (execCSlt d a b s) := by
  unfold execCSlt; simp [*]
@[simp] theorem memWf_execCSle (d a b : Reg) (s : State) (hs : MemWf s) :
    OutWf (execCSle d a b s) := by
  unfold execCSle; simp [*]
@[simp] theorem memWf_execCSltn (d a b : Reg) (s : State) (hs : MemWf s) :
    OutWf (execCSltn d a b s) := by
  unfold execCSltn; simp [*]
@[simp] theorem memWf_execCSlen (d a b : Reg) (s : State) (hs : MemWf s) :
    OutWf (execCSlen d a b s) := by
  unfold execCSlen; simp [*]
@[simp] theorem memWf_execCSel (d a b x : Reg) (s : State) (hs : MemWf s) :
    OutWf (execCSel d a b x s) := by
  unfold execCSel; simp [*]
@[simp] theorem memWf_execCClz (d a : Reg) (s : State) (hs : MemWf s) :
    OutWf (execCClz d a s) := by
  unfold execCClz; simp [*]
@[simp] theorem memWf_execCCtz (d a : Reg) (s : State) (hs : MemWf s) :
    OutWf (execCCtz d a s) := by
  unfold execCCtz; simp [*]
@[simp] theorem memWf_execCPopc (d a : Reg) (s : State) (hs : MemWf s) :
    OutWf (execCPopc d a s) := by
  unfold execCPopc; simp [*]
@[simp] theorem memWf_execCBext (d a : Reg) (pos len1 : BitVec 6) (sx : Bool) (s : State) (hs : MemWf s) :
    OutWf (execCBext d a pos len1 sx s) := by
  unfold execCBext; simp [*]
@[simp] theorem memWf_execCBins (d a : Reg) (pos len1 : BitVec 6) (s : State) (hs : MemWf s) :
    OutWf (execCBins d a pos len1 s) := by
  unfold execCBins; simp [*]
@[simp] theorem memWf_execCAddi (d a : Reg) (imm : BitVec 32) (s : State) (hs : MemWf s) :
    OutWf (execCAddi d a imm s) := by
  unfold execCAddi; simp [*]
@[simp] theorem memWf_execCAndi (d a : Reg) (imm : BitVec 32) (s : State) (hs : MemWf s) :
    OutWf (execCAndi d a imm s) := by
  unfold execCAndi; simp [*]
@[simp] theorem memWf_execCOri (d a : Reg) (imm : BitVec 32) (s : State) (hs : MemWf s) :
    OutWf (execCOri d a imm s) := by
  unfold execCOri; simp [*]
@[simp] theorem memWf_execCXori (d a : Reg) (imm : BitVec 32) (s : State) (hs : MemWf s) :
    OutWf (execCXori d a imm s) := by
  unfold execCXori; simp [*]
@[simp] theorem memWf_execCMuli (d a : Reg) (imm : BitVec 32) (s : State) (hs : MemWf s) :
    OutWf (execCMuli d a imm s) := by
  unfold execCMuli; simp [*]
@[simp] theorem memWf_execCSeqi (d a : Reg) (imm : BitVec 32) (s : State) (hs : MemWf s) :
    OutWf (execCSeqi d a imm s) := by
  unfold execCSeqi; simp [*]
@[simp] theorem memWf_execCSlti (d a : Reg) (imm : BitVec 32) (s : State) (hs : MemWf s) :
    OutWf (execCSlti d a imm s) := by
  unfold execCSlti; simp [*]
@[simp] theorem memWf_execCSltni (d a : Reg) (imm : BitVec 32) (s : State) (hs : MemWf s) :
    OutWf (execCSltni d a imm s) := by
  unfold execCSltni; simp [*]
@[simp] theorem memWf_execCMini (d a : Reg) (imm : BitVec 32) (s : State) (hs : MemWf s) :
    OutWf (execCMini d a imm s) := by
  unfold execCMini; simp [*]
@[simp] theorem memWf_execCMaxi (d a : Reg) (imm : BitVec 32) (s : State) (hs : MemWf s) :
    OutWf (execCMaxi d a imm s) := by
  unfold execCMaxi; simp [*]
@[simp] theorem memWf_execCShli (d a : Reg) (sh : BitVec 6) (s : State) (hs : MemWf s) :
    OutWf (execCShli d a sh s) := by
  unfold execCShli; simp [*]
@[simp] theorem memWf_execCShri (d a : Reg) (sh : BitVec 6) (s : State) (hs : MemWf s) :
    OutWf (execCShri d a sh s) := by
  unfold execCShri; simp [*]
@[simp] theorem memWf_execCSari (d a : Reg) (sh : BitVec 6) (s : State) (hs : MemWf s) :
    OutWf (execCSari d a sh s) := by
  unfold execCSari; simp [*]
@[simp] theorem memWf_execCLi (d : Reg) (imm : BitVec 32) (s : State) (hs : MemWf s) :
    OutWf (execCLi d imm s) := by
  unfold execCLi; simp [*]
@[simp] theorem memWf_execCLih (d : Reg) (imm : BitVec 32) (s : State) (hs : MemWf s) :
    OutWf (execCLih d imm s) := by
  unfold execCLih; simp [*]
@[simp] theorem memWf_execCSpt (d a : Reg) (s : State) (hs : MemWf s) :
    OutWf (execCSpt d a s) := by
  unfold execCSpt; simp [*]
@[simp] theorem memWf_execCSpc (d a : Reg) (space : BitVec 2) (s : State) (hs : MemWf s) :
    OutWf (execCSpc d a space s) := by
  unfold execCSpc; dsimp only; (repeat' split) <;> simp +contextual [*, memWf_foldl]
@[simp] theorem memWf_execCSpg (d a : Reg) (space : BitVec 2) (s : State) (hs : MemWf s) :
    OutWf (execCSpg d a space s) := by
  unfold execCSpg; dsimp only; (repeat' split) <;> simp +contextual [*, memWf_foldl]
@[simp] theorem memWf_fillTlb (s : State) (core va : Nat) (e : TlbEntry) (hs : MemWf s) :
    MemWf (State.fillTlb s core va e) := by
  unfold State.fillTlb; (try dsimp only); (repeat' split) <;> simp +contextual [*, memWf_foldl]
@[simp] theorem memWf_invalidate (s : State) (p : TlbEntry → Bool) (hs : MemWf s) :
    MemWf (State.invalidate s p) := by
  unfold State.invalidate; simp [*]
@[simp] theorem memWf_issueAccess (s : State) (cls : Nat) (p : Word) (n : Nat) (want : Want) (kind : AccessKind) (hs : MemWf s) :
    MemWf (State.issueAccess s cls p n want kind) := by
  unfold State.issueAccess; (try dsimp only); with_reducible (repeat' (first | assumption | (refine outWf_next _ |>.2 ?_) | (refine optWf_some _ |>.2 ?_) | exact optWf_none | (refine memWf_onCore .. |>.2 ?_) | (refine memWf_setHere .. |>.2 ?_) | (refine memWf_setCore .. |>.2 ?_) | (refine memWf_onRope .. |>.2 ?_) | (refine memWf_setRope .. |>.2 ?_) | (refine memWf_onIface .. |>.2 ?_) | (refine memWf_setIface .. |>.2 ?_) | (refine memWf_setWorld .. |>.2 ?_) | apply memWf_faultHere | apply memWf_fillTlb | (refine memWf_foldl _ (fun _ _ _ => ?_) _ _ ?_) | simp only [memWf_mk] | split | (intro _ _)))
@[simp] theorem memWf_load (s : State) (d a : Reg) (cls : BitVec 4) (imm : BitVec 32) (n : Nat) (sx : Bool) (hs : MemWf s) :
    OutWf (State.load s d a cls imm n sx) := by
  unfold State.load; simp [*]
@[simp] theorem memWf_storeReg (s : State) (b a : Reg) (cls : BitVec 4) (imm : BitVec 32) (n : Nat) (hs : MemWf s) :
    OutWf (State.storeReg s b a cls imm n) := by
  unfold State.storeReg; simp [*]
@[simp] theorem memWf_amo (s : State) (op : AmoOp) (d a b : Reg) (wide : Bool) (cls : BitVec 4) (hs : MemWf s) :
    OutWf (State.amo s op d a b wide cls) := by
  unfold State.amo; simp [*]
@[simp] theorem memWf_execCLdI8 (d a : Reg) (cls : BitVec 4) (imm : BitVec 32) (s : State) (hs : MemWf s) :
    OutWf (execCLdI8 d a cls imm s) := by
  unfold execCLdI8; simp [*]
@[simp] theorem memWf_execCLdN8 (d a : Reg) (cls : BitVec 4) (imm : BitVec 32) (s : State) (hs : MemWf s) :
    OutWf (execCLdN8 d a cls imm s) := by
  unfold execCLdN8; simp [*]
@[simp] theorem memWf_execCLdI16 (d a : Reg) (cls : BitVec 4) (imm : BitVec 32) (s : State) (hs : MemWf s) :
    OutWf (execCLdI16 d a cls imm s) := by
  unfold execCLdI16; simp [*]
@[simp] theorem memWf_execCLdN16 (d a : Reg) (cls : BitVec 4) (imm : BitVec 32) (s : State) (hs : MemWf s) :
    OutWf (execCLdN16 d a cls imm s) := by
  unfold execCLdN16; simp [*]
@[simp] theorem memWf_execCLdI32 (d a : Reg) (cls : BitVec 4) (imm : BitVec 32) (s : State) (hs : MemWf s) :
    OutWf (execCLdI32 d a cls imm s) := by
  unfold execCLdI32; simp [*]
@[simp] theorem memWf_execCLdN32 (d a : Reg) (cls : BitVec 4) (imm : BitVec 32) (s : State) (hs : MemWf s) :
    OutWf (execCLdN32 d a cls imm s) := by
  unfold execCLdN32; simp [*]
@[simp] theorem memWf_execCLd64 (d a : Reg) (cls : BitVec 4) (imm : BitVec 32) (s : State) (hs : MemWf s) :
    OutWf (execCLd64 d a cls imm s) := by
  unfold execCLd64; simp [*]
@[simp] theorem memWf_execCSt8 (b a : Reg) (cls : BitVec 4) (imm : BitVec 32) (s : State) (hs : MemWf s) :
    OutWf (execCSt8 b a cls imm s) := by
  unfold execCSt8; simp [*]
@[simp] theorem memWf_execCSt16 (b a : Reg) (cls : BitVec 4) (imm : BitVec 32) (s : State) (hs : MemWf s) :
    OutWf (execCSt16 b a cls imm s) := by
  unfold execCSt16; simp [*]
@[simp] theorem memWf_execCSt32 (b a : Reg) (cls : BitVec 4) (imm : BitVec 32) (s : State) (hs : MemWf s) :
    OutWf (execCSt32 b a cls imm s) := by
  unfold execCSt32; simp [*]
@[simp] theorem memWf_execCSt64 (b a : Reg) (cls : BitVec 4) (imm : BitVec 32) (s : State) (hs : MemWf s) :
    OutWf (execCSt64 b a cls imm s) := by
  unfold execCSt64; simp [*]
@[simp] theorem memWf_execCAmoAdd (d a b : Reg) (wide : Bool) (cls : BitVec 4) (s : State) (hs : MemWf s) :
    OutWf (execCAmoAdd d a b wide cls s) := by
  unfold execCAmoAdd; simp [*]
@[simp] theorem memWf_execCAmoSwap (d a b : Reg) (wide : Bool) (cls : BitVec 4) (s : State) (hs : MemWf s) :
    OutWf (execCAmoSwap d a b wide cls s) := by
  unfold execCAmoSwap; simp [*]
@[simp] theorem memWf_execCAmoCas (d a b : Reg) (wide : Bool) (cls : BitVec 4) (s : State) (hs : MemWf s) :
    OutWf (execCAmoCas d a b wide cls s) := by
  unfold execCAmoCas; simp [*]
@[simp] theorem memWf_execCAmoAnd (d a b : Reg) (wide : Bool) (cls : BitVec 4) (s : State) (hs : MemWf s) :
    OutWf (execCAmoAnd d a b wide cls s) := by
  unfold execCAmoAnd; simp [*]
@[simp] theorem memWf_execCAmoOr (d a b : Reg) (wide : Bool) (cls : BitVec 4) (s : State) (hs : MemWf s) :
    OutWf (execCAmoOr d a b wide cls s) := by
  unfold execCAmoOr; simp [*]
@[simp] theorem memWf_execCAmoXor (d a b : Reg) (wide : Bool) (cls : BitVec 4) (s : State) (hs : MemWf s) :
    OutWf (execCAmoXor d a b wide cls s) := by
  unfold execCAmoXor; simp [*]
@[simp] theorem memWf_execCAmoMin (d a b : Reg) (wide : Bool) (cls : BitVec 4) (s : State) (hs : MemWf s) :
    OutWf (execCAmoMin d a b wide cls s) := by
  unfold execCAmoMin; simp [*]
@[simp] theorem memWf_execCAmoMax (d a b : Reg) (wide : Bool) (cls : BitVec 4) (s : State) (hs : MemWf s) :
    OutWf (execCAmoMax d a b wide cls s) := by
  unfold execCAmoMax; simp [*]
@[simp] theorem memWf_execCAmoMinn (d a b : Reg) (wide : Bool) (cls : BitVec 4) (s : State) (hs : MemWf s) :
    OutWf (execCAmoMinn d a b wide cls s) := by
  unfold execCAmoMinn; simp [*]
@[simp] theorem memWf_execCAmoMaxn (d a b : Reg) (wide : Bool) (cls : BitVec 4) (s : State) (hs : MemWf s) :
    OutWf (execCAmoMaxn d a b wide cls s) := by
  unfold execCAmoMaxn; simp [*]
@[simp] theorem memWf_execEvControlCoreAccessPerform (core id : Nat) (s : State) (hs : MemWf s) :
    OutWf (execEvControlCoreAccessPerform core id s) := by
  unfold execEvControlCoreAccessPerform; (try dsimp only); with_reducible (repeat' (first | assumption | (refine outWf_next _ |>.2 ?_) | (refine optWf_some _ |>.2 ?_) | exact optWf_none | (refine memWf_onCore .. |>.2 ?_) | (refine memWf_setHere .. |>.2 ?_) | (refine memWf_setCore .. |>.2 ?_) | (refine memWf_onRope .. |>.2 ?_) | (refine memWf_setRope .. |>.2 ?_) | (refine memWf_onIface .. |>.2 ?_) | (refine memWf_setIface .. |>.2 ?_) | (refine memWf_setWorld .. |>.2 ?_) | apply memWf_performAccess | (refine memWf_foldl _ (fun _ _ _ => ?_) _ _ ?_) | simp only [memWf_mk] | split | (intro _ _)))
@[simp] theorem memWf_execCSplLd (d : Reg) (off : BitVec 32) (s : State) (hs : MemWf s) :
    OutWf (execCSplLd d off s) := by
  unfold execCSplLd; split <;> simp [*]
@[simp] theorem memWf_execCSplSt (a : Reg) (off : BitVec 32) (s : State) (hs : MemWf s) :
    OutWf (execCSplSt a off s) := by
  unfold execCSplSt; split <;> simp [*]
@[simp] theorem memWf_lapse (s : State) (p : DurableWrite → Bool) (hs : MemWf s) :
    MemWf (State.lapse s p) := by
  unfold State.lapse; (try dsimp only); (repeat' split) <;> simp +contextual [*, memWf_foldl]
@[simp] theorem memWf_persistFault (s : State) (p : DurableWrite → Bool) (va : Nat) (hs : MemWf s) :
    MemWf (State.persistFault s p va) := by
  unfold State.persistFault; (try dsimp only); with_reducible (repeat' (first | assumption | (refine outWf_next _ |>.2 ?_) | (refine optWf_some _ |>.2 ?_) | exact optWf_none | (refine memWf_onCore .. |>.2 ?_) | (refine memWf_setHere .. |>.2 ?_) | (refine memWf_setCore .. |>.2 ?_) | (refine memWf_onRope .. |>.2 ?_) | (refine memWf_setRope .. |>.2 ?_) | (refine memWf_onIface .. |>.2 ?_) | (refine memWf_setIface .. |>.2 ?_) | (refine memWf_setWorld .. |>.2 ?_) | apply memWf_faultHere | apply memWf_lapse | (refine memWf_foldl _ (fun _ _ _ => ?_) _ _ ?_) | simp only [memWf_mk] | split | (intro _ _)))
@[simp] theorem memWf_execCFence (mask : BitVec 16) (scope : BitVec 3) (s : State) (hs : MemWf s) :
    OutWf (execCFence mask scope s) := by
  unfold execCFence; dsimp only; (repeat' split) <;> simp +contextual [*, memWf_foldl]
@[simp] theorem memWf_execCPbar (mask : BitVec 16) (s : State) (hs : MemWf s) :
    OutWf (execCPbar mask s) := by
  unfold execCPbar; (try dsimp only); with_reducible (repeat' (first | assumption | (refine outWf_next _ |>.2 ?_) | (refine optWf_some _ |>.2 ?_) | exact optWf_none | (refine memWf_onCore .. |>.2 ?_) | (refine memWf_setHere .. |>.2 ?_) | (refine memWf_setCore .. |>.2 ?_) | (refine memWf_onRope .. |>.2 ?_) | (refine memWf_setRope .. |>.2 ?_) | (refine memWf_onIface .. |>.2 ?_) | (refine memWf_setIface .. |>.2 ?_) | (refine memWf_setWorld .. |>.2 ?_) | apply memWf_cover | apply memWf_persistFault | (refine memWf_foldl _ (fun _ _ _ => ?_) _ _ ?_) | simp only [memWf_mk] | split | (intro _ _)))
@[simp] theorem memWf_withPieces (s : State) (cls level : Nat) (ps : List (Nat × Nat)) (go : State) (hs : MemWf s) (hgo : MemWf go) :
    MemWf (State.withPieces s cls level ps go) := by
  unfold State.withPieces; (try dsimp only); with_reducible (repeat' (first | assumption | (refine outWf_next _ |>.2 ?_) | (refine optWf_some _ |>.2 ?_) | exact optWf_none | (refine memWf_onCore .. |>.2 ?_) | (refine memWf_setHere .. |>.2 ?_) | (refine memWf_setCore .. |>.2 ?_) | (refine memWf_onRope .. |>.2 ?_) | (refine memWf_setRope .. |>.2 ?_) | (refine memWf_onIface .. |>.2 ?_) | (refine memWf_setIface .. |>.2 ?_) | (refine memWf_setWorld .. |>.2 ?_) | (refine memWf_foldl _ (fun _ _ _ => ?_) _ _ ?_) | simp only [memWf_mk] | split | (intro _ _)))
@[simp] theorem memWf_haulHere (s : State) (q : Nat → Requester) (units : List Nat) (go : State → State)
    (hs : MemWf s) (hgo : ∀ t, MemWf t → MemWf (go t)) : MemWf (s.haulHere q units go) := by
  unfold State.haulHere
  dsimp only
  split
  · exact hgo _ ((memWf_setHere ..).2 (memWf_moveSome _ _ _ hs))
  · exact (memWf_setHere ..).2 (memWf_moveSome _ _ _ hs)
@[simp] theorem memWf_wfeDone (s : State) (d : Reg) (v : Word) (hs : MemWf s) :
    MemWf (State.wfeDone s d v) := by
  unfold State.wfeDone; simp [*]
@[simp] theorem memWf_wfeRead (s : State) (start : Word) (p : Word) (cls n : Nat) (hs : MemWf s) :
    MemWf (State.wfeRead s start p cls n) := by
  unfold State.wfeRead; (try dsimp only); with_reducible (repeat' (first | assumption | (refine outWf_next _ |>.2 ?_) | (refine optWf_some _ |>.2 ?_) | exact optWf_none | (refine memWf_onCore .. |>.2 ?_) | (refine memWf_setHere .. |>.2 ?_) | (refine memWf_setCore .. |>.2 ?_) | (refine memWf_onRope .. |>.2 ?_) | (refine memWf_setRope .. |>.2 ?_) | (refine memWf_onIface .. |>.2 ?_) | (refine memWf_setIface .. |>.2 ?_) | (refine memWf_setWorld .. |>.2 ?_) | apply memWf_faultHere | apply memWf_fillTlb | (refine memWf_foldl _ (fun _ _ _ => ?_) _ _ ?_) | simp only [memWf_mk] | split | (intro _ _)))
@[simp] theorem memWf_wfeStep (s : State) (d a b : Reg) (narrow : Bool) (cls : BitVec 4) (timeout : BitVec 24) (hs : MemWf s) :
    MemWf (State.wfeStep s d a b narrow cls timeout) := by
  unfold State.wfeStep; dsimp only; (repeat' split) <;> simp +contextual [*, memWf_foldl]
@[simp] theorem memWf_execKWfe (d a b : Reg) (narrow : Bool) (cls : BitVec 4) (timeout : BitVec 24) (s : State) (hs : MemWf s) :
    OutWf (execKWfe d a b narrow cls timeout s) := by
  unfold execKWfe; simp [*]
@[simp] theorem memWf_execKWfePoll (s : State) (hs : MemWf s) :
    OutWf (execKWfePoll s) := by
  unfold execKWfePoll; (repeat' split) <;> simp [*]
@[simp] theorem memWf_execCMfs (d : Reg) (num : BitVec 8) (s : State) (hs : MemWf s) :
    OutWf (execCMfs d num s) := by
  unfold execCMfs; simp [*]
@[simp] theorem memWf_execCMts (a : Reg) (num : BitVec 8) (s : State) (hs : MemWf s) :
    OutWf (execCMts a num s) := by
  unfold execCMts; split <;> simp [*]
@[simp] theorem memWf_execCFmt (a : Reg) (s : State) (hs : MemWf s) :
    OutWf (execCFmt a s) := by
  unfold execCFmt; split <;> simp [*]
@[simp] theorem memWf_execKPbr (d : BitVec 3) (off : BitVec 32) (s : State) (hs : MemWf s) :
    OutWf (execKPbr d off s) := by
  unfold execKPbr; simp [*]
@[simp] theorem memWf_execKPbrr (d : BitVec 3) (a : Reg) (s : State) (hs : MemWf s) :
    OutWf (execKPbrr d a s) := by
  unfold execKPbrr; dsimp only; (repeat' split) <;> simp +contextual [*, memWf_foldl]
@[simp] theorem memWf_execKBr (b : BitVec 3) (a : Reg) (cond : BitVec 3) (s : State) (hs : MemWf s) :
    OutWf (execKBr b a cond s) := by
  unfold execKBr; simp [*]
@[simp] theorem memWf_execKJmp (b : BitVec 3) (s : State) (hs : MemWf s) :
    OutWf (execKJmp b s) := by
  unfold execKJmp; simp [*]
@[simp] theorem memWf_execKCall (b : BitVec 3) (s : State) (hs : MemWf s) :
    OutWf (execKCall b s) := by
  unfold execKCall; simp [*]
@[simp] theorem memWf_execKRet (s : State) (hs : MemWf s) :
    OutWf (execKRet s) := by
  unfold execKRet; simp [*]
@[simp] theorem memWf_execKTsb (b : BitVec 3) (a : Reg) (none : Bool) (mask : BitVec 32) (s : State) (hs : MemWf s) :
    OutWf (execKTsb b a none mask s) := by
  unfold execKTsb; simp [*]
@[simp] theorem memWf_execKTrap (imm : BitVec 32) (s : State) (hs : MemWf s) :
    OutWf (execKTrap imm s) := by
  unfold execKTrap; simp [*]
@[simp] theorem memWf_execKBrk (s : State) (hs : MemWf s) :
    OutWf (execKBrk s) := by
  unfold execKBrk; split <;> simp [*]
@[simp] theorem memWf_execKNop (s : State) (hs : MemWf s) :
    OutWf (execKNop s) := by
  unfold execKNop; simp [*]
@[simp] theorem memWf_execKRett (fin squash : Bool) (s : State) (hs : MemWf s) :
    OutWf (execKRett fin squash s) := by
  unfold execKRett; (try dsimp only); with_reducible (repeat' (first | assumption | (refine outWf_next _ |>.2 ?_) | (refine optWf_some _ |>.2 ?_) | exact optWf_none | (refine memWf_onCore .. |>.2 ?_) | (refine memWf_setHere .. |>.2 ?_) | (refine memWf_setCore .. |>.2 ?_) | (refine memWf_onRope .. |>.2 ?_) | (refine memWf_setRope .. |>.2 ?_) | (refine memWf_onIface .. |>.2 ?_) | (refine memWf_setIface .. |>.2 ?_) | (refine memWf_setWorld .. |>.2 ?_) | apply memWf_endFaulted | apply memWf_faultWord | (refine memWf_foldl _ (fun _ _ _ => ?_) _ _ ?_) | simp only [memWf_mk] | split | (intro _ _)))
@[simp] theorem memWf_execEvTrapEntry (s : State) (hs : MemWf s) :
    OutWf (execEvTrapEntry s) := by
  unfold execEvTrapEntry; (try dsimp only); with_reducible (repeat' (first | assumption | (refine outWf_next _ |>.2 ?_) | (refine optWf_some _ |>.2 ?_) | exact optWf_none | (refine memWf_onCore .. |>.2 ?_) | (refine memWf_setHere .. |>.2 ?_) | (refine memWf_setCore .. |>.2 ?_) | (refine memWf_onRope .. |>.2 ?_) | (refine memWf_setRope .. |>.2 ?_) | (refine memWf_onIface .. |>.2 ?_) | (refine memWf_setIface .. |>.2 ?_) | (refine memWf_setWorld .. |>.2 ?_) | apply memWf_trap | (refine memWf_foldl _ (fun _ _ _ => ?_) _ _ ?_) | simp only [memWf_mk] | split | (intro _ _)))
@[simp] theorem memWf_execEvIllegalInstruction (w : Word) (s : State) (hs : MemWf s) :
    OutWf (execEvIllegalInstruction w s) := by
  unfold execEvIllegalInstruction; simp [*]
@[simp] theorem memWf_copyIn (s : State) (x0 : List (Nat × Nat)) (y0 : Nat) (hs : MemWf s) :
    MemWf (State.copyIn s x0 y0).1 := by
  induction x0 generalizing s y0 with
  | nil => exact hs
  | cons e r ih =>
    unfold State.copyIn
    split
    · exact hs
    · exact ih _ _ (by simpa using hs)
@[simp] theorem memWf_execKOvl (a b : Reg) (s : State) (hs : MemWf s) : OutWf (execKOvl a b s) := by
  unfold execKOvl
  refine memWf_waitFor _ _ _ hs ?_
  dsimp only
  split
  · exact memWf_faultHere _ _ _ hs
  · split
    · exact memWf_faultHere _ _ _ hs
    · split
      · exact memWf_faultHere _ _ _ hs
      · split
        · exact hs
        · refine memWf_withPieces _ _ _ _ _ hs (memWf_haulHere _ _ _ _ hs fun t ht => ?_)
          split
          · rename_i e
            split
            · exact memWf_faultHere _ _ _ (memWf_fst e (memWf_copyIn t _ _ ht))
            · exact (memWf_setHere _ _).2 ht
          · rename_i e
            exact (memWf_setHere _ _).2 (memWf_fst e (memWf_copyIn t _ _ ht))
@[simp] theorem memWf_flySpots (s : State) (core : Nat) (j : Job) (upc tick : Nat) (late : Bool) (spots : List Mapped) (e : Effect) (hs : MemWf s) :
    MemWf (State.flySpots s core j upc tick late spots e) := by
  unfold State.flySpots; (try dsimp only); with_reducible (repeat' (first | assumption | (refine outWf_next _ |>.2 ?_) | (refine optWf_some _ |>.2 ?_) | exact optWf_none | (refine memWf_onCore .. |>.2 ?_) | (refine memWf_setHere .. |>.2 ?_) | (refine memWf_setCore .. |>.2 ?_) | (refine memWf_onRope .. |>.2 ?_) | (refine memWf_setRope .. |>.2 ?_) | (refine memWf_onIface .. |>.2 ?_) | (refine memWf_setIface .. |>.2 ?_) | (refine memWf_setWorld .. |>.2 ?_) | (refine memWf_foldl _ (fun _ _ _ => ?_) _ _ ?_) | simp only [memWf_mk] | split | (intro _ _)))
@[simp] theorem memWf_flyWaited (s : State) (core : Nat) (j : Job) (upc tick waited : Nat) (e : Effect) (hs : MemWf s) :
    MemWf (State.flyWaited s core j upc tick waited e) := by
  unfold State.flyWaited; (try dsimp only); with_reducible (repeat' (first | assumption | (refine outWf_next _ |>.2 ?_) | (refine optWf_some _ |>.2 ?_) | exact optWf_none | (refine memWf_onCore .. |>.2 ?_) | (refine memWf_setHere .. |>.2 ?_) | (refine memWf_setCore .. |>.2 ?_) | (refine memWf_onRope .. |>.2 ?_) | (refine memWf_setRope .. |>.2 ?_) | (refine memWf_onIface .. |>.2 ?_) | (refine memWf_setIface .. |>.2 ?_) | (refine memWf_setWorld .. |>.2 ?_) | (refine memWf_foldl _ (fun _ _ _ => ?_) _ _ ?_) | simp only [memWf_mk] | split | (intro _ _)))
@[simp] theorem memWf_flyFrom (s : State) (core : Nat) (j : Job) (upc tick : Nat) (late : Bool) (e : Effect) (hs : MemWf s) :
    MemWf (State.flyFrom s core j upc tick late e) := by
  unfold State.flyFrom; simp [*]
@[simp] theorem memWf_fly (s : State) (core : Nat) (j : Job) (tick : Nat) (e : Effect) (hs : MemWf s) :
    MemWf (State.fly s core j tick e) := by
  unfold State.fly; simp [*]
@[simp] theorem memWf_flyAll (s : State) (core : Nat) (j : Job) (es : List (Nat × Effect)) (hs : MemWf s) :
    MemWf (State.flyAll s core j es) := by
  unfold State.flyAll; simp +contextual [*, memWf_foldl]
@[simp] theorem memWf_suspendAt (s : State) (again : Again) (core : Nat) (j : Job) (upc : Nat) (carry : Status) (code sub : Nat) (value : Word) (tick : Nat) (hs : MemWf s) :
    MemWf (State.suspendAt s again core j upc carry code sub value tick) := by
  unfold State.suspendAt; simp [*]
@[simp] theorem memWf_keep (s : State) (core : Nat) (f : Flight) (hs : MemWf s) :
    MemWf (State.keep s core f) := by
  unfold State.keep; simp [*]
@[simp] theorem memWf_suspend (s : State) (core : Nat) (j : Job) (upc : Nat) (carry : Status) (code sub : Nat) (value : Word) (tick : Nat) (hs : MemWf s) :
    MemWf (State.suspend s core j upc carry code sub value tick) := by
  unfold State.suspend; simp [*]
@[simp] theorem memWf_issueFault (s : State) (code sub value : Nat) (hs : MemWf s) :
    MemWf (State.issueFault s code sub value) := by
  unfold State.issueFault; simp [*]
@[simp] theorem memWf_driveEast (s : State) (core : Nat) (j : Job) (tick k half : Nat) (code : BitVec 16) (sa0 sa1 : Nat) (hs : MemWf s) :
    MemWf (State.driveEast s core j tick k half code sa0 sa1) := by
  unfold State.driveEast; (try dsimp only); with_reducible (repeat' (first | assumption | (refine outWf_next _ |>.2 ?_) | (refine optWf_some _ |>.2 ?_) | exact optWf_none | (refine memWf_onCore .. |>.2 ?_) | (refine memWf_setHere .. |>.2 ?_) | (refine memWf_setCore .. |>.2 ?_) | (refine memWf_onRope .. |>.2 ?_) | (refine memWf_setRope .. |>.2 ?_) | (refine memWf_onIface .. |>.2 ?_) | (refine memWf_setIface .. |>.2 ?_) | (refine memWf_setWorld .. |>.2 ?_) | (refine memWf_foldl _ (fun _ _ _ => ?_) _ _ ?_) | simp only [memWf_mk] | split | (intro _ _)))
@[simp] theorem memWf_driveSouth (s : State) (core : Nat) (j : Job) (tick col half : Nat) (v : Lane) (hs : MemWf s) :
    MemWf (State.driveSouth s core j tick col half v) := by
  unfold State.driveSouth; (try dsimp only); with_reducible (repeat' (first | assumption | (refine outWf_next _ |>.2 ?_) | (refine optWf_some _ |>.2 ?_) | exact optWf_none | (refine memWf_onCore .. |>.2 ?_) | (refine memWf_setHere .. |>.2 ?_) | (refine memWf_setCore .. |>.2 ?_) | (refine memWf_onRope .. |>.2 ?_) | (refine memWf_setRope .. |>.2 ?_) | (refine memWf_onIface .. |>.2 ?_) | (refine memWf_setIface .. |>.2 ?_) | (refine memWf_setWorld .. |>.2 ?_) | (refine memWf_foldl _ (fun _ _ _ => ?_) _ _ ?_) | simp only [memWf_mk] | split | (intro _ _)))
@[simp] theorem memWf_vWrite (s : State) (reads : List Nat) (phys lat : Nat) (rs : List (Nat × LaneResult)) (hs : MemWf s) :
    MemWf (State.vWrite s reads phys lat rs) := by
  unfold State.vWrite; dsimp only; (repeat' split) <;> simp +contextual [*, memWf_foldl]
@[simp] theorem memWf_vLanes (s : State) (o : VR) (lat : Nat) (readB readD : Bool) (f : Lane → Lane → Lane → LaneResult) (hs : MemWf s) :
    OutWf (State.vLanes s o lat readB readD f) := by
  unfold State.vLanes; simp [*]
@[simp] theorem memWf_vGather (s : State) (o : VR) (lat : Nat) (readB : Bool) (f : Nat → List Lane → List Lane → LaneResult) (hs : MemWf s) :
    OutWf (State.vGather s o lat readB f) := by
  unfold State.vGather; simp [*]
@[simp] theorem memWf_execVAdd (o : VR) (s : State) (hs : MemWf s) :
    OutWf (execVAdd o s) := by
  unfold execVAdd; simp [*]
@[simp] theorem memWf_execVSub (o : VR) (s : State) (hs : MemWf s) :
    OutWf (execVSub o s) := by
  unfold execVSub; simp [*]
@[simp] theorem memWf_execVMul (o : VR) (s : State) (hs : MemWf s) :
    OutWf (execVMul o s) := by
  unfold execVMul; simp [*]
@[simp] theorem memWf_execVMulh (o : VR) (s : State) (hs : MemWf s) :
    OutWf (execVMulh o s) := by
  unfold execVMulh; simp [*]
@[simp] theorem memWf_execVFma (o : VR) (s : State) (hs : MemWf s) :
    OutWf (execVFma o s) := by
  unfold execVFma; simp [*]
@[simp] theorem memWf_execVMad (o : VR) (s : State) (hs : MemWf s) :
    OutWf (execVMad o s) := by
  unfold execVMad; simp [*]
@[simp] theorem memWf_execVMin (o : VR) (s : State) (hs : MemWf s) :
    OutWf (execVMin o s) := by
  unfold execVMin; simp [*]
@[simp] theorem memWf_execVMax (o : VR) (s : State) (hs : MemWf s) :
    OutWf (execVMax o s) := by
  unfold execVMax; simp [*]
@[simp] theorem memWf_execVAbs (o : VR) (s : State) (hs : MemWf s) :
    OutWf (execVAbs o s) := by
  unfold execVAbs; simp [*]
@[simp] theorem memWf_execVNeg (o : VR) (s : State) (hs : MemWf s) :
    OutWf (execVNeg o s) := by
  unfold execVNeg; simp [*]
@[simp] theorem memWf_execVAdds (o : VR) (s : State) (hs : MemWf s) :
    OutWf (execVAdds o s) := by
  unfold execVAdds; simp [*]
@[simp] theorem memWf_execVSubs (o : VR) (s : State) (hs : MemWf s) :
    OutWf (execVSubs o s) := by
  unfold execVSubs; simp [*]
@[simp] theorem memWf_execVAnd (o : VR) (s : State) (hs : MemWf s) :
    OutWf (execVAnd o s) := by
  unfold execVAnd; simp [*]
@[simp] theorem memWf_execVOr (o : VR) (s : State) (hs : MemWf s) :
    OutWf (execVOr o s) := by
  unfold execVOr; simp [*]
@[simp] theorem memWf_execVXor (o : VR) (s : State) (hs : MemWf s) :
    OutWf (execVXor o s) := by
  unfold execVXor; simp [*]
@[simp] theorem memWf_execVAndn (o : VR) (s : State) (hs : MemWf s) :
    OutWf (execVAndn o s) := by
  unfold execVAndn; simp [*]
@[simp] theorem memWf_execVNot (o : VR) (s : State) (hs : MemWf s) :
    OutWf (execVNot o s) := by
  unfold execVNot; simp [*]
@[simp] theorem memWf_execVShl (o : VR) (s : State) (hs : MemWf s) :
    OutWf (execVShl o s) := by
  unfold execVShl; simp [*]
@[simp] theorem memWf_execVShr (o : VR) (s : State) (hs : MemWf s) :
    OutWf (execVShr o s) := by
  unfold execVShr; simp [*]
@[simp] theorem memWf_execVSar (o : VR) (s : State) (hs : MemWf s) :
    OutWf (execVSar o s) := by
  unfold execVSar; simp [*]
@[simp] theorem memWf_execVFshl (o : VR) (s : State) (hs : MemWf s) :
    OutWf (execVFshl o s) := by
  unfold execVFshl; simp [*]
@[simp] theorem memWf_execVFshr (o : VR) (s : State) (hs : MemWf s) :
    OutWf (execVFshr o s) := by
  unfold execVFshr; simp [*]
@[simp] theorem memWf_execVClz (o : VR) (s : State) (hs : MemWf s) :
    OutWf (execVClz o s) := by
  unfold execVClz; simp [*]
@[simp] theorem memWf_execVPopc (o : VR) (s : State) (hs : MemWf s) :
    OutWf (execVPopc o s) := by
  unfold execVPopc; simp [*]
@[simp] theorem memWf_execVBext (o : VR) (s : State) (hs : MemWf s) :
    OutWf (execVBext o s) := by
  unfold execVBext; simp [*]
@[simp] theorem memWf_vCompare (s : State) (o : VR) (ri : Int → Int → Bool) (rf : Val → Val → Bool) (onNan : Bool) (hs : MemWf s) :
    OutWf (State.vCompare s o ri rf onNan) := by
  unfold State.vCompare; dsimp only; (repeat' split) <;> simp +contextual [*, memWf_foldl]
@[simp] theorem memWf_execVCeq (o : VR) (s : State) (hs : MemWf s) :
    OutWf (execVCeq o s) := by
  unfold execVCeq; simp [*]
@[simp] theorem memWf_execVCne (o : VR) (s : State) (hs : MemWf s) :
    OutWf (execVCne o s) := by
  unfold execVCne; simp [*]
@[simp] theorem memWf_execVClt (o : VR) (s : State) (hs : MemWf s) :
    OutWf (execVClt o s) := by
  unfold execVClt; simp [*]
@[simp] theorem memWf_execVCle (o : VR) (s : State) (hs : MemWf s) :
    OutWf (execVCle o s) := by
  unfold execVCle; simp [*]
@[simp] theorem memWf_execVSel (o : VR) (s : State) (hs : MemWf s) :
    OutWf (execVSel o s) := by
  unfold execVSel; simp [*]
@[simp] theorem memWf_execVCvt (o : VR) (s : State) (hs : MemWf s) :
    OutWf (execVCvt o s) := by
  unfold execVCvt; simp [*]
@[simp] theorem memWf_execVRshq (o : VR) (s : State) (hs : MemWf s) :
    OutWf (execVRshq o s) := by
  unfold execVRshq; simp [*]
@[simp] theorem memWf_execVPack (o : VR) (s : State) (hs : MemWf s) :
    OutWf (execVPack o s) := by
  unfold execVPack; simp [*]
@[simp] theorem memWf_execVUnpk (o : VR) (s : State) (hs : MemWf s) :
    OutWf (execVUnpk o s) := by
  unfold execVUnpk; simp [*]
@[simp] theorem memWf_vReduce {α : Type} (s : State) (o : VR) (lat : Nat) (elem : Option Lane → α) (op : α → α → α) (fin : α → LaneResult) (hs : MemWf s) :
    OutWf (State.vReduce s o lat elem op fin) := by
  unfold State.vReduce; simp [*]
@[simp] theorem memWf_execVRsum (o : VR) (s : State) (hs : MemWf s) :
    OutWf (execVRsum o s) := by
  unfold execVRsum; split <;> simp [*]
@[simp] theorem memWf_execVRmax (o : VR) (s : State) (hs : MemWf s) :
    OutWf (execVRmax o s) := by
  unfold execVRmax; simp [*]
@[simp] theorem memWf_execVRmin (o : VR) (s : State) (hs : MemWf s) :
    OutWf (execVRmin o s) := by
  unfold execVRmin; simp [*]
@[simp] theorem memWf_execVPerm (o : VR) (s : State) (hs : MemWf s) :
    OutWf (execVPerm o s) := by
  unfold execVPerm; simp [*]
@[simp] theorem memWf_execVShfl (o : VR) (s : State) (hs : MemWf s) :
    OutWf (execVShfl o s) := by
  unfold execVShfl; simp [*]
@[simp] theorem memWf_execVBcst (o : VR) (s : State) (hs : MemWf s) :
    OutWf (execVBcst o s) := by
  unfold execVBcst; simp [*]
@[simp] theorem memWf_execVRdx (o : VR) (s : State) (hs : MemWf s) :
    OutWf (execVRdx o s) := by
  unfold execVRdx; simp [*]
@[simp] theorem memWf_execVWrx (o : VR) (s : State) (hs : MemWf s) :
    OutWf (execVWrx o s) := by
  unfold execVWrx; simp [*]
@[simp] theorem memWf_execVMov (o : VR) (s : State) (hs : MemWf s) :
    OutWf (execVMov o s) := by
  unfold execVMov; simp [*]
@[simp] theorem memWf_execVLi (o : VI) (s : State) (hs : MemWf s) :
    OutWf (execVLi o s) := by
  unfold execVLi; simp [*]
@[simp] theorem memWf_execVLane (o : VR) (s : State) (hs : MemWf s) :
    OutWf (execVLane o s) := by
  unfold execVLane; simp [*]
@[simp] theorem memWf_execVFrs (o : VR) (s : State) (hs : MemWf s) :
    OutWf (execVFrs o s) := by
  unfold execVFrs; simp [*]
@[simp] theorem memWf_execVLut (o : VR) (s : State) (hs : MemWf s) :
    OutWf (execVLut o s) := by
  unfold execVLut; simp [*]
@[simp] theorem memWf_vCheck (s : State) (o : VM) (write : Bool) (align n : Nat) (addrs : List Int) (go : State) (hs : MemWf s) (hgo : MemWf go) :
    OutWf (State.vCheck s o write align n addrs go) := by
  unfold State.vCheck; (repeat' split) <;> simp [*]
@[simp] theorem memWf_vLoad (s : State) (o : VM) (addrs : List Int) (reads : List Nat) (hs : MemWf s) :
    OutWf (State.vLoad s o addrs reads) := by
  unfold State.vLoad; simp [*]
@[simp] theorem memWf_vStore (s : State) (o : VM) (align : Nat) (lanes : List (Nat × Int)) (reads : List Nat) (hs : MemWf s) :
    OutWf (State.vStore s o align lanes reads) := by
  unfold State.vStore; simp [*]
@[simp] theorem memWf_execVLd (o : VM) (s : State) (hs : MemWf s) :
    OutWf (execVLd o s) := by
  unfold execVLd; simp [*]
@[simp] theorem memWf_execVLds (o : VM) (s : State) (hs : MemWf s) :
    OutWf (execVLds o s) := by
  unfold execVLds; simp [*]
@[simp] theorem memWf_execVLdx (o : VM) (s : State) (hs : MemWf s) :
    OutWf (execVLdx o s) := by
  unfold execVLdx; simp [*]
@[simp] theorem memWf_execVSt (o : VM) (s : State) (hs : MemWf s) :
    OutWf (execVSt o s) := by
  unfold execVSt; simp [*]
@[simp] theorem memWf_execVSts (o : VM) (s : State) (hs : MemWf s) :
    OutWf (execVSts o s) := by
  unfold execVSts; simp [*]
@[simp] theorem memWf_execVStx (o : VM) (s : State) (hs : MemWf s) :
    OutWf (execVStx o s) := by
  unfold execVStx; simp [*]
@[simp] theorem memWf_execVStm (o : VM) (s : State) (hs : MemWf s) :
    OutWf (execVStm o s) := by
  unfold execVStm; simp [*]
@[simp] theorem memWf_vStore8 (s : State) (o : VM) (v : Word) (s1 : State) (hs : MemWf s) (hs1 : MemWf s1) :
    OutWf (State.vStore8 s o v s1) := by
  unfold State.vStore8; simp [*]
@[simp] theorem memWf_execVPst (o : VM) (s : State) (hs : MemWf s) :
    OutWf (execVPst o s) := by
  unfold execVPst; simp [*]
@[simp] theorem memWf_execVPld (o : VM) (s : State) (hs : MemWf s) :
    OutWf (execVPld o s) := by
  unfold execVPld; simp [*]
@[simp] theorem memWf_execVStw (o : VM) (s : State) (hs : MemWf s) :
    OutWf (execVStw o s) := by
  unfold execVStw; simp [*]
@[simp] theorem memWf_vPred (s : State) (o : VR) (v : Word) (hs : MemWf s) :
    OutWf (State.vPred s o v) := by
  unfold State.vPred; simp [*]
@[simp] theorem memWf_execVPand (o : VR) (s : State) (hs : MemWf s) :
    OutWf (execVPand o s) := by
  unfold execVPand; simp [*]
@[simp] theorem memWf_execVPor (o : VR) (s : State) (hs : MemWf s) :
    OutWf (execVPor o s) := by
  unfold execVPor; simp [*]
@[simp] theorem memWf_execVPxor (o : VR) (s : State) (hs : MemWf s) :
    OutWf (execVPxor o s) := by
  unfold execVPxor; simp [*]
@[simp] theorem memWf_execVPnot (o : VR) (s : State) (hs : MemWf s) :
    OutWf (execVPnot o s) := by
  unfold execVPnot; simp [*]
@[simp] theorem memWf_mCheck (s : State) (path : Nat) (unit : Nat) (spans : List (Nat × Nat × Bool)) (align : Nat) (go : State) (hs : MemWf s) (hgo : MemWf go) :
    OutWf (State.mCheck s path unit spans align go) := by
  unfold State.mCheck; dsimp only; (repeat' split) <;> simp +contextual [*, memWf_foldl]
@[simp] theorem memWf_busyFor (s : State) (path ticks : Nat) (hs : MemWf s) :
    MemWf (State.busyFor s path ticks) := by
  unfold State.busyFor; simp [*]
@[simp] theorem memWf_after (s : State) (n : Nat) (e : Effect) (hs : MemWf s) :
    MemWf (State.after s n e) := by
  unfold State.after; simp [*]
@[simp] theorem memWf_execMWld (o : MW) (s : State) (hs : MemWf s) :
    OutWf (execMWld o s) := by
  unfold execMWld; dsimp only; with_reducible (repeat' (first | assumption | (refine outWf_next _ |>.2 ?_) | (refine optWf_some _ |>.2 ?_) | exact optWf_none | apply memWf_after | apply memWf_busyFor | apply memWf_issueFault | apply memWf_mCheck | (refine memWf_onCore .. |>.2 ?_) | simp only [memWf_mk] | split))
@[simp] theorem memWf_execMWldr (o : MW) (s : State) (hs : MemWf s) :
    OutWf (execMWldr o s) := by
  unfold execMWldr; dsimp only; with_reducible (repeat' (first | assumption | (refine outWf_next _ |>.2 ?_) | (refine optWf_some _ |>.2 ?_) | exact optWf_none | apply memWf_after | apply memWf_busyFor | apply memWf_issueFault | apply memWf_mCheck | split))
@[simp] theorem memWf_execMWsw (_o : MW) (s : State) (hs : MemWf s) :
    OutWf (execMWsw _o s) := by
  unfold execMWsw; dsimp only; (repeat' split) <;> simp +contextual [*, memWf_foldl]
@[simp] theorem memWf_portScales (s : State) (scaled : Bool) (at_ : Nat) (hs : MemWf s) :
    MemWf (State.portScales s scaled at_) := by
  unfold State.portScales; (try dsimp only); (repeat' split) <;> simp +contextual [*, memWf_foldl]
@[simp] theorem memWf_macIssue (s : State) (o : MW) (hs : MemWf s) :
    OutWf (State.macIssue s o) := by
  unfold State.macIssue; (try dsimp only); with_reducible (repeat' (first | assumption | (refine outWf_next _ |>.2 ?_) | (refine optWf_some _ |>.2 ?_) | exact optWf_none | (refine memWf_onCore .. |>.2 ?_) | (refine memWf_setHere .. |>.2 ?_) | (refine memWf_onRope .. |>.2 ?_) | (refine memWf_setRope .. |>.2 ?_) | (refine memWf_onIface .. |>.2 ?_) | apply memWf_flyFrom | apply memWf_mCheck | apply memWf_macRow | apply memWf_portScales | (refine memWf_foldl _ (fun _ _ _ => ?_) _ _ ?_) | simp only [memWf_mk] | split))
@[simp] theorem memWf_execMMac (o : MW) (s : State) (hs : MemWf s) :
    OutWf (execMMac o s) := by
  unfold execMMac; simp [*]
@[simp] theorem memWf_execMMacz (o : MW) (s : State) (hs : MemWf s) :
    OutWf (execMMacz o s) := by
  unfold execMMacz; simp [*]
@[simp] theorem memWf_execMTov (o : MW) (s : State) (hs : MemWf s) :
    OutWf (execMTov o s) := by
  unfold execMTov; dsimp only; with_reducible (repeat' (first | assumption | (refine outWf_next _ |>.2 ?_) | (refine optWf_some _ |>.2 ?_) | exact optWf_none | apply memWf_after | apply memWf_busyFor | apply memWf_mCheck | split))
@[simp] theorem memWf_execMFrv (o : MW) (s : State) (hs : MemWf s) :
    OutWf (execMFrv o s) := by
  unfold execMFrv; dsimp only; with_reducible (repeat' (first | assumption | (refine outWf_next _ |>.2 ?_) | (refine optWf_some _ |>.2 ?_) | exact optWf_none | apply memWf_after | apply memWf_busyFor | apply memWf_mCheck | (refine memWf_onCore .. |>.2 ?_) | split))
@[simp] theorem memWf_execMClr (o : MW) (s : State) (hs : MemWf s) :
    OutWf (execMClr o s) := by
  unfold execMClr; dsimp only; with_reducible (repeat' (first | assumption | (refine outWf_next _ |>.2 ?_) | (refine optWf_some _ |>.2 ?_) | exact optWf_none | apply memWf_after | apply memWf_busyFor | apply memWf_mCheck | split))
@[simp] theorem memWf_execMOut (o : MW) (s : State) (hs : MemWf s) :
    OutWf (execMOut o s) := by
  unfold execMOut; dsimp only; with_reducible (repeat' (first | assumption | (refine outWf_next _ |>.2 ?_) | (refine optWf_some _ |>.2 ?_) | exact optWf_none | apply memWf_after | apply memWf_answer | apply memWf_busyFor | apply memWf_mCheck | (refine memWf_onCore .. |>.2 ?_) | simp only [memWf_mk] | split))
@[simp] theorem memWf_execMKat (o : MW) (s : State) (hs : MemWf s) :
    OutWf (execMKat o s) := by
  unfold execMKat; dsimp only; with_reducible (repeat' (first | assumption | (refine outWf_next _ |>.2 ?_) | (refine optWf_some _ |>.2 ?_) | exact optWf_none | apply memWf_after | apply memWf_busyFor | apply memWf_mCheck | split))
@[simp] theorem memWf_execMTr (_o : MW) (s : State) (hs : MemWf s) :
    OutWf (execMTr _o s) := by
  unfold execMTr
  exact memWf_mCheck _ _ _ _ _ _ hs (memWf_after _ _ _ (memWf_busyFor _ _ _ hs))
@[simp] theorem memWf_execMAdd (o : MW) (s : State) (hs : MemWf s) :
    OutWf (execMAdd o s) := by
  unfold execMAdd
  split
  · exact memWf_mCheck _ _ _ _ _ _ hs (memWf_after _ _ _ (memWf_busyFor _ _ _ hs))
  · exact memWf_mCheck _ _ _ _ _ _ hs (memWf_after _ _ _ (memWf_busyFor _ _ _ hs))
@[simp] theorem memWf_rowSums (s : State) (core : Nat) (j : Job) (o : MW) (tick i : Nat) (codes : List Nat) (second : Bool) (sa0 sa1 : Nat) (aSubs : Nat) (hs : MemWf s) :
    MemWf (State.rowSums s core j o tick i codes second sa0 sa1 aSubs) := by
  unfold State.rowSums; (try dsimp only); (repeat' split) <;> simp +contextual [*, memWf_foldl]
@[simp] theorem memWf_macRow (s : State) (core : Nat) (j : Job) (i sa0 sa1 : Nat) (hs : MemWf s) :
    MemWf (State.macRow s core j i sa0 sa1) := by
  unfold State.macRow; (try dsimp only); with_reducible (repeat' (first | assumption | (refine outWf_next _ |>.2 ?_) | (refine optWf_some _ |>.2 ?_) | exact optWf_none | (refine memWf_onCore .. |>.2 ?_) | (refine memWf_setHere .. |>.2 ?_) | (refine memWf_setCore .. |>.2 ?_) | (refine memWf_onRope .. |>.2 ?_) | (refine memWf_setRope .. |>.2 ?_) | (refine memWf_onIface .. |>.2 ?_) | (refine memWf_setIface .. |>.2 ?_) | (refine memWf_setWorld .. |>.2 ?_) | apply memWf_driveEast | apply memWf_rowSums | (refine memWf_foldl _ (fun _ _ _ => ?_) _ _ ?_) | simp only [memWf_mk] | split | (intro _ _)))
@[simp] theorem memWf_tapRow (s : State) (core : Nat) (j : Job) (tick waited i k : Nat) (codes : List (BitVec 16)) (second : Bool) (sa0 sa1 : Nat) (hs : MemWf s) :
    MemWf (State.tapRow s core j tick waited i k codes second sa0 sa1) := by
  unfold State.tapRow; (try dsimp only); with_reducible (repeat' (first | assumption | (refine outWf_next _ |>.2 ?_) | (refine optWf_some _ |>.2 ?_) | exact optWf_none | (refine memWf_onCore .. |>.2 ?_) | (refine memWf_setHere .. |>.2 ?_) | (refine memWf_setCore .. |>.2 ?_) | (refine memWf_onRope .. |>.2 ?_) | (refine memWf_setRope .. |>.2 ?_) | (refine memWf_onIface .. |>.2 ?_) | (refine memWf_setIface .. |>.2 ?_) | (refine memWf_setWorld .. |>.2 ?_) | apply memWf_hold | apply memWf_flyWaited | apply memWf_driveEast | apply memWf_rowSums | (refine memWf_foldl _ (fun _ _ _ => ?_) _ _ ?_) | simp only [memWf_mk] | split | (intro _ _)))
@[simp] theorem memWf_macEntry (s : State) (old : Core) (core : Nat) (j : Job) (tick waited row col bank : Nat) (sums : List (Sum × Sum × Status)) (float fresh south north : Bool) (sub : Status) (hs : MemWf s) :
    MemWf (State.macEntry s old core j tick waited row col bank sums float fresh south north sub) := by
  unfold State.macEntry; (try dsimp only); with_reducible (repeat' (first | assumption | (refine outWf_next _ |>.2 ?_) | (refine optWf_some _ |>.2 ?_) | exact optWf_none | (refine memWf_onCore .. |>.2 ?_) | (refine memWf_setHere .. |>.2 ?_) | (refine memWf_setCore .. |>.2 ?_) | (refine memWf_onRope .. |>.2 ?_) | (refine memWf_setRope .. |>.2 ?_) | (refine memWf_onIface .. |>.2 ?_) | (refine memWf_setIface .. |>.2 ?_) | (refine memWf_setWorld .. |>.2 ?_) | apply memWf_hold | apply memWf_flyWaited | apply memWf_driveSouth | (refine memWf_foldl _ (fun _ _ _ => ?_) _ _ ?_) | simp only [memWf_mk] | split | (intro _ _)))
@[simp] theorem memWf_fillAll (s : State) (core : Nat) (j : Job) (want : Want) (accs : List (Int × Nat)) (hs : MemWf s) :
    MemWf (State.fillAll s core j want accs) := by
  unfold State.fillAll; (try dsimp only); with_reducible (repeat' (first | assumption | (refine outWf_next _ |>.2 ?_) | (refine optWf_some _ |>.2 ?_) | exact optWf_none | (refine memWf_onCore .. |>.2 ?_) | (refine memWf_setHere .. |>.2 ?_) | (refine memWf_setCore .. |>.2 ?_) | (refine memWf_onRope .. |>.2 ?_) | (refine memWf_setRope .. |>.2 ?_) | (refine memWf_onIface .. |>.2 ?_) | (refine memWf_setIface .. |>.2 ?_) | (refine memWf_setWorld .. |>.2 ?_) | apply memWf_fillTlb | (refine memWf_foldl _ (fun _ _ _ => ?_) _ _ ?_) | simp only [memWf_mk] | split | (intro _ _)))
@[simp] theorem memWf_askPeers (s : State) (core : Nat) (j : Job) (flight : Nat) (accs : List ((Int × Nat) × Nat × Nat)) (spots : List Mapped) (hs : MemWf s) :
    MemWf (State.askPeers s core j flight accs spots) := by
  unfold State.askPeers; (try dsimp only); with_reducible (repeat' (first | assumption | (refine outWf_next _ |>.2 ?_) | (refine optWf_some _ |>.2 ?_) | exact optWf_none | (refine memWf_onCore .. |>.2 ?_) | (refine memWf_setHere .. |>.2 ?_) | (refine memWf_onRope .. |>.2 ?_) | (refine memWf_setRope .. |>.2 ?_) | (refine memWf_onIface .. |>.2 ?_) | apply memWf_send | (refine memWf_foldl _ (fun _ _ _ => ?_) _ _ ?_) | simp only [memWf_mk] | split))
@[simp] theorem memWf_flyRead (s : State) (core : Nat) (j : Job) (upc tick : Nat) (want : Want) (accs : List ((Int × Nat) × Nat × Nat)) (e : Effect) (hs : MemWf s) :
    MemWf (State.flyRead s core j upc tick want accs e) := by
  unfold State.flyRead; (try dsimp only); with_reducible (repeat' (first | assumption | (refine outWf_next _ |>.2 ?_) | (refine optWf_some _ |>.2 ?_) | exact optWf_none | (refine memWf_onCore .. |>.2 ?_) | (refine memWf_setHere .. |>.2 ?_) | (refine memWf_onRope .. |>.2 ?_) | (refine memWf_setRope .. |>.2 ?_) | (refine memWf_onIface .. |>.2 ?_) | apply memWf_askPeers | apply memWf_fillAll | apply memWf_flySpots | (refine memWf_foldl _ (fun _ _ _ => ?_) _ _ ?_) | simp only [memWf_mk] | split))
@[simp] theorem memWf_nextStep (s : State) (core : Nat) (j : Job) (u last tick : Nat) (hs : MemWf s) :
    MemWf (State.nextStep s core j u last tick) := by
  unfold State.nextStep; split <;> simp [*]
@[simp] theorem memWf_deliver (s : State) (core : Nat) (j : Job) (u tick dst : Nat) (accs : List ((Int × Nat) × Nat × Nat)) (bs : List Byte) (hs : MemWf s) :
    MemWf (State.deliver s core j u tick dst accs bs) := by
  unfold State.deliver; (try dsimp only); (repeat' split) <;> simp +contextual [*, memWf_foldl]
@[simp] theorem memWf_rowFault (s : State) (core : Nat) (j : Job) (u : Nat) (c : Status) (code : Nat) (v : Word) (tick : Nat) (hs : MemWf s) :
    MemWf (State.rowFault s core j u c code v tick) := by
  unfold State.rowFault; (try dsimp only); (repeat' split) <;> simp +contextual [*, memWf_foldl]
@[simp] theorem memWf_sendOff (s : State) (core : Nat) (j : Job) (u tick : Nat) (accs : List (Int × Nat)) (es : List Effect) (hs : MemWf s) :
    MemWf (State.sendOff s core j u tick accs es) := by
  unfold State.sendOff; dsimp only; with_reducible (repeat' (first | assumption | (refine outWf_next _ |>.2 ?_) | (refine optWf_some _ |>.2 ?_) | exact optWf_none | apply memWf_fillAll | apply memWf_flyFrom | (refine memWf_foldl _ (fun _ _ _ => ?_) _ _ ?_) | split))
@[simp] theorem memWf_loadRow (s : State) (core : Nat) (j : Job) (u tick e1 dst last : Nat) (c : Status) (hs : MemWf s) :
    MemWf (State.loadRow s core j u tick e1 dst last c) := by
  unfold State.loadRow; dsimp only; (repeat' split) <;> simp +contextual [*, memWf_foldl]
@[simp] theorem memWf_storeRow (s : State) (core : Nat) (j : Job) (u tick e1 src last : Nat) (c : Status) (add : Bool) (hs : MemWf s) :
    MemWf (State.storeRow s core j u tick e1 src last c add) := by
  unfold State.storeRow; dsimp only; (repeat' split) <;> simp +contextual [*, memWf_foldl]
@[simp] theorem memWf_gatherRow (s : State) (core : Nat) (j : Job) (u tick : Nat) (c : Status) (hs : MemWf s) :
    MemWf (State.gatherRow s core j u tick c) := by
  unfold State.gatherRow; dsimp only; (repeat' split) <;> simp +contextual [*, memWf_foldl]
@[simp] theorem memWf_gatherList (s : State) (core : Nat) (j : Job) (tick : Nat) (hs : MemWf s) :
    MemWf (State.gatherList s core j tick) := by
  unfold State.gatherList; simp +contextual [*, memWf_foldl]
@[simp] theorem memWf_copyUnit (s : State) (core : Nat) (j : Job) (u tick : Nat) (c : Status) (hs : MemWf s) :
    MemWf (State.copyUnit s core j u tick c) := by
  unfold State.copyUnit
  dsimp only
  split
  · split
    · exact memWf_rowFault _ _ _ _ _ _ _ _ hs
    · exact memWf_nextStep _ _ _ _ _ _ (memWf_deliver _ _ _ _ _ _ _ _ hs)
  · split
    · exact memWf_rowFault _ _ _ _ _ _ _ _ hs
    · exact memWf_nextStep _ _ _ _ _ _ (memWf_flyFrom _ _ _ _ _ _ _ ((memWf_onCore _ _ _).2 hs))
  · exact memWf_nextStep _ _ _ _ _ _ (memWf_flyFrom _ _ _ _ _ _ _ ((memWf_onCore _ _ _).2 hs))
  · exact memWf_nextStep _ _ _ _ _ _ (memWf_flyFrom _ _ _ _ _ _ _ hs)
  · split
    · exact memWf_rowFault _ _ _ _ _ _ _ _ hs
    · exact memWf_nextStep _ _ _ _ _ _ (memWf_flyFrom _ _ _ _ _ _ _ ((memWf_onCore _ _ _).2 hs))
@[simp] theorem memWf_lsCheck (s : State) (spans : List (Nat × Nat × Bool × Nat)) (go : State) (hs : MemWf s) (hgo : MemWf go) :
    OutWf (State.lsCheck s spans go) := by
  unfold State.lsCheck; dsimp only; (repeat' split) <;> simp +contextual [*, memWf_foldl]
@[simp] theorem memWf_occupyLs (s : State) (n : Nat) (hs : MemWf s) :
    MemWf (State.occupyLs s n) := by
  unfold State.occupyLs; simp [*]
@[simp] theorem memWf_execLGet (_o : LW) (s : State) (hs : MemWf s) :
    OutWf (execLGet _o s) := by
  unfold execLGet; dsimp only; with_reducible (repeat' (first | assumption | (refine outWf_next _ |>.2 ?_) | (refine optWf_some _ |>.2 ?_) | exact optWf_none | apply memWf_loadRow | apply memWf_lsCheck | apply memWf_occupyLs | split))
@[simp] theorem memWf_execLGetb (_o : LW) (s : State) (hs : MemWf s) :
    OutWf (execLGetb _o s) := by
  unfold execLGetb; dsimp only; with_reducible (repeat' (first | assumption | (refine outWf_next _ |>.2 ?_) | (refine optWf_some _ |>.2 ?_) | exact optWf_none | apply memWf_copyUnit | apply memWf_lsCheck | apply memWf_occupyLs | split))
@[simp] theorem memWf_execLGath (_o : LW) (s : State) (hs : MemWf s) :
    OutWf (execLGath _o s) := by
  unfold execLGath; dsimp only; with_reducible (repeat' (first | assumption | (refine outWf_next _ |>.2 ?_) | (refine optWf_some _ |>.2 ?_) | exact optWf_none | apply memWf_gatherList | apply memWf_lsCheck | apply memWf_occupyLs | split))
@[simp] theorem memWf_execLCget (_o : LW) (s : State) (hs : MemWf s) :
    OutWf (execLCget _o s) := by
  unfold execLCget; dsimp only; with_reducible (repeat' (first | assumption | (refine outWf_next _ |>.2 ?_) | (refine optWf_some _ |>.2 ?_) | exact optWf_none | apply memWf_copyUnit | apply memWf_lsCheck | apply memWf_occupyLs | split))
@[simp] theorem memWf_execLTcpy (_o : LW) (s : State) (hs : MemWf s) :
    OutWf (execLTcpy _o s) := by
  unfold execLTcpy; dsimp only; with_reducible (repeat' (first | assumption | (refine outWf_next _ |>.2 ?_) | (refine optWf_some _ |>.2 ?_) | exact optWf_none | apply memWf_copyUnit | apply memWf_lsCheck | apply memWf_occupyLs | split))
@[simp] theorem memWf_execLZero (_o : LW) (s : State) (hs : MemWf s) :
    OutWf (execLZero _o s) := by
  unfold execLZero; dsimp only; with_reducible (repeat' (first | assumption | (refine outWf_next _ |>.2 ?_) | (refine optWf_some _ |>.2 ?_) | exact optWf_none | apply memWf_copyUnit | apply memWf_lsCheck | apply memWf_occupyLs | split))
@[simp] theorem memWf_execLPref (_o : LW) (s : State) (hs : MemWf s) :
    OutWf (execLPref _o s) := by
  unfold execLPref; (try dsimp only); with_reducible (repeat' (first | assumption | (refine outWf_next _ |>.2 ?_) | (refine optWf_some _ |>.2 ?_) | exact optWf_none | (refine memWf_onCore .. |>.2 ?_) | (refine memWf_setHere .. |>.2 ?_) | (refine memWf_onRope .. |>.2 ?_) | (refine memWf_setRope .. |>.2 ?_) | (refine memWf_onIface .. |>.2 ?_) | apply memWf_flyFrom | apply memWf_lsCheck | apply memWf_occupyLs | (refine memWf_foldl _ (fun _ _ _ => ?_) _ _ ?_) | simp only [memWf_mk] | split))
@[simp] theorem memWf_endWalk (s : State) (core : Nat) (f : Flight) (hs : MemWf s) :
    MemWf (State.endWalk s core f) := by
  unfold State.endWalk; (try dsimp only); (repeat' split) <;> simp +contextual [*, memWf_foldl]
@[simp] theorem memWf_execLGetw (_o : LW) (s : State) (hs : MemWf s) :
    OutWf (execLGetw _o s) := by
  unfold execLGetw; (try dsimp only); with_reducible (repeat' (first | assumption | (refine outWf_next _ |>.2 ?_) | (refine optWf_some _ |>.2 ?_) | exact optWf_none | (refine memWf_onCore .. |>.2 ?_) | (refine memWf_setHere .. |>.2 ?_) | (refine memWf_onRope .. |>.2 ?_) | (refine memWf_setRope .. |>.2 ?_) | (refine memWf_onIface .. |>.2 ?_) | apply memWf_flyRead | apply memWf_lsCheck | apply memWf_occupyLs | apply memWf_rowFault | (refine memWf_foldl _ (fun _ _ _ => ?_) _ _ ?_) | simp only [memWf_mk] | split))
@[simp] theorem memWf_getwTile (s : State) (core : Nat) (j : Job) (tick : Nat) (entry : Word) (hs : MemWf s) :
    MemWf (State.getwTile s core j tick entry) := by
  unfold State.getwTile
  dsimp only
  split
  · exact memWf_rowFault _ _ _ _ _ _ _ _ hs
  · split
    · exact memWf_rowFault _ _ _ _ _ _ _ _ hs
    · exact memWf_fillAll _ _ _ _ _ (memWf_foldl _ (fun t k ht => memWf_flySpots _ _ _ _ _ _ _ _ ht) _ _ hs)
@[simp] theorem memWf_execLCbld (o : LW) (s : State) (hs : MemWf s) :
    OutWf (execLCbld o s) := by
  unfold execLCbld; (try dsimp only); with_reducible (repeat' (first | assumption | (refine outWf_next _ |>.2 ?_) | (refine optWf_some _ |>.2 ?_) | exact optWf_none | (refine memWf_onCore .. |>.2 ?_) | (refine memWf_setHere .. |>.2 ?_) | (refine memWf_onRope .. |>.2 ?_) | (refine memWf_setRope .. |>.2 ?_) | (refine memWf_onIface .. |>.2 ?_) | apply memWf_flyFrom | apply memWf_flyRead | apply memWf_lsCheck | apply memWf_occupyLs | apply memWf_rowFault | (refine memWf_foldl _ (fun _ _ _ => ?_) _ _ ?_) | simp only [memWf_mk] | split))
@[simp] theorem memWf_cbldHalf (s : State) (core : Nat) (j : Job) (tick : Nat) (hs : MemWf s) :
    MemWf (State.cbldHalf s core j tick) := by
  unfold State.cbldHalf; dsimp only; (repeat' split) <;> simp +contextual [*, memWf_foldl]
@[simp] theorem memWf_execSPut (_o : LW) (s : State) (hs : MemWf s) :
    OutWf (execSPut _o s) := by
  unfold execSPut; dsimp only; with_reducible (repeat' (first | assumption | (refine outWf_next _ |>.2 ?_) | (refine optWf_some _ |>.2 ?_) | exact optWf_none | apply memWf_lsCheck | apply memWf_occupyLs | apply memWf_storeRow | split))
@[simp] theorem memWf_execSRed (_o : LW) (s : State) (hs : MemWf s) :
    OutWf (execSRed _o s) := by
  unfold execSRed; dsimp only; with_reducible (repeat' (first | assumption | (refine outWf_next _ |>.2 ?_) | (refine optWf_some _ |>.2 ?_) | exact optWf_none | apply memWf_lsCheck | apply memWf_occupyLs | apply memWf_storeRow | apply memWf_unreplayable | split))
@[simp] theorem memWf_execSScat (_o : LW) (s : State) (hs : MemWf s) :
    OutWf (execSScat _o s) := by
  unfold execSScat; dsimp only; with_reducible (repeat' (first | assumption | (refine outWf_next _ |>.2 ?_) | (refine optWf_some _ |>.2 ?_) | exact optWf_none | apply memWf_gatherList | apply memWf_lsCheck | apply memWf_occupyLs | split))
@[simp] theorem memWf_execSCput (_o : LW) (s : State) (hs : MemWf s) :
    OutWf (execSCput _o s) := by
  unfold execSCput; dsimp only; with_reducible (repeat' (first | assumption | (refine outWf_next _ |>.2 ?_) | (refine optWf_some _ |>.2 ?_) | exact optWf_none | apply memWf_copyUnit | apply memWf_lsCheck | apply memWf_occupyLs | split))
@[simp] theorem memWf_execSSig (_o : LW) (s : State) (hs : MemWf s) :
    OutWf (execSSig _o s) := by
  unfold execSSig; dsimp only; with_reducible (repeat' (first | assumption | (refine outWf_next _ |>.2 ?_) | (refine optWf_some _ |>.2 ?_) | exact optWf_none | apply memWf_fillAll | apply memWf_flyFrom | apply memWf_issueFault | apply memWf_occupyLs | (refine memWf_onCore .. |>.2 ?_) | apply memWf_suspend | apply memWf_unreplayable | simp only [memWf_mk] | split))
@[simp] theorem memWf_execSPbar (_o : LW) (s : State) (hs : MemWf s) :
    OutWf (execSPbar _o s) := by
  unfold execSPbar; dsimp only; (repeat' split) <;> simp +contextual [*, memWf_foldl]
@[simp] theorem memWf_lsStep (s : State) (core : Nat) (j : Job) (u tick : Nat) (c : Status) (hs : MemWf s) :
    MemWf (State.lsStep s core j u tick c) := by
  unfold State.lsStep; split <;> simp [*]
@[simp] theorem memWf_onFlight (s : State) (core id : Nat) (f : Flight → Flight) (hs : MemWf s) :
    MemWf (State.onFlight s core id f) := by
  unfold State.onFlight; (try dsimp only); (repeat' split) <;> simp +contextual [*, memWf_foldl]
@[simp] theorem memWf_sample (s : State) (core id : Nat) (hs : MemWf s) : MemWf (s.sample core id) := by
  unfold State.sample; dsimp only; split <;> simp [*]
@[simp] theorem memWf_redo (s : State) (core tick : Nat) (f : Flight) (hs : MemWf s) :
    MemWf (State.redo s core tick f) := by
  unfold State.redo; (try dsimp only); with_reducible (repeat' (first | assumption | (refine outWf_next _ |>.2 ?_) | (refine optWf_some _ |>.2 ?_) | exact optWf_none | (refine memWf_onCore .. |>.2 ?_) | (refine memWf_setHere .. |>.2 ?_) | (refine memWf_setCore .. |>.2 ?_) | (refine memWf_onRope .. |>.2 ?_) | (refine memWf_setRope .. |>.2 ?_) | (refine memWf_onIface .. |>.2 ?_) | (refine memWf_setIface .. |>.2 ?_) | (refine memWf_setWorld .. |>.2 ?_) | apply memWf_suspendAt | apply memWf_fillAll | apply memWf_askPeers | apply memWf_onFlight | (refine memWf_foldl _ (fun _ _ _ => ?_) _ _ ?_) | simp only [memWf_mk] | split | (intro _ _)))
@[simp] theorem memWf_carderFault (s : State) (core : Nat) (j : Job) (u tick : Nat) (v : Word) (hs : MemWf s) :
    MemWf (State.carderFault s core j u tick v) := by
  unfold State.carderFault; simp [*]
@[simp] theorem memWf_carderStep (s : State) (core : Nat) (j : Job) (u tick : Nat) (hs : MemWf s) :
    MemWf (State.carderStep s core j u tick) := by
  unfold State.carderStep; dsimp only; (repeat' split) <;> simp +contextual [*, memWf_foldl]
@[simp] theorem memWf_wldrStep (s : State) (core : Nat) (j : Job) (o : MW) (u tick : Nat) (hs : MemWf s) :
    MemWf (State.wldrStep s core j o u tick) := by
  unfold State.wldrStep; dsimp only; (repeat' split) <;> simp +contextual [*, memWf_foldl]
@[simp] theorem memWf_outStep (s : State) (core : Nat) (j : Job) (o : MW) (u tick : Nat) (carry : Status) (hs : MemWf s) :
    MemWf (State.outStep s core j o u tick carry) := by
  unfold State.outStep; split <;> simp [*]
@[simp] theorem memWf_trStep (s : State) (core : Nat) (j : Job) (o : MW) (u tick : Nat) (hs : MemWf s) :
    MemWf (State.trStep s core j o u tick) := by
  unfold State.trStep; split <;> simp [*]
@[simp] theorem memWf_addStep (s : State) (core : Nat) (j : Job) (o : MW) (u tick : Nat) (hs : MemWf s) :
    MemWf (State.addStep s core j o u tick) := by
  unfold State.addStep; split <;> simp [*]
@[simp] theorem memWf_mStep (s : State) (core : Nat) (j : Job) (u tick : Nat) (carry : Status) (hs : MemWf s) :
    MemWf (State.mStep s core j u tick carry) := by
  unfold State.mStep; split <;> simp [*]
@[simp] theorem memWf_append (s : State) (i : Instr) (a b : Word) (shape : Option ShapeRec) (hs : MemWf s) :
    MemWf (State.append s i a b shape) := by
  unfold State.append; dsimp only; (repeat' split) <;> simp +contextual [*, memWf_foldl]
@[simp] theorem memWf_route3 (s : State) (i : Instr) (w : Word) (shape : Option ShapeRec) (hs : MemWf s) :
    MemWf (State.route3 s i w shape) := by
  unfold State.route3; dsimp only; (repeat' split) <;> simp +contextual [*, memWf_foldl]
@[simp] theorem memWf_route2 (s : State) (i : Instr) (w : Word) (hs : MemWf s) :
    MemWf (State.route2 s i w) := by
  unfold State.route2; (try dsimp only); with_reducible (repeat' (first | assumption | (refine outWf_next _ |>.2 ?_) | (refine optWf_some _ |>.2 ?_) | exact optWf_none | (refine memWf_onCore .. |>.2 ?_) | (refine memWf_setHere .. |>.2 ?_) | (refine memWf_onRope .. |>.2 ?_) | (refine memWf_setRope .. |>.2 ?_) | (refine memWf_onIface .. |>.2 ?_) | apply memWf_faultHere | apply memWf_fillTlb | apply memWf_route3 | apply memWf_withPieces | (refine memWf_foldl _ (fun _ _ _ => ?_) _ _ ?_) | simp only [memWf_mk] | split))
@[simp] theorem memWf_execEvRouting (w : Word) (s : State) (hs : MemWf s) :
    OutWf (execEvRouting w s) := by
  unfold execEvRouting; dsimp only; (repeat' split) <;> simp +contextual [*, memWf_foldl]
@[simp] theorem memWf_onHereQueue (s : State) (f : Queue → Queue) (hs : MemWf s) :
    MemWf (State.onHereQueue s f) := by
  unfold State.onHereQueue; simp [*]
@[simp] theorem memWf_execYAlign (_o : YW) (s : State) (hs : MemWf s) :
    OutWf (execYAlign _o s) := by
  unfold execYAlign; simp [*]
@[simp] theorem memWf_execYIdle (o : YW) (s : State) (hs : MemWf s) :
    OutWf (execYIdle o s) := by
  unfold execYIdle; simp [*]
@[simp] theorem memWf_execYTchk (o : YW) (s : State) (hs : MemWf s) :
    OutWf (execYTchk o s) := by
  unfold execYTchk; split <;> simp [*]
@[simp] theorem memWf_execYLoop (o : YW) (s : State) (hs : MemWf s) :
    OutWf (execYLoop o s) := by
  unfold execYLoop; (try dsimp only); with_reducible (repeat' (first | assumption | (refine outWf_next _ |>.2 ?_) | (refine optWf_some _ |>.2 ?_) | exact optWf_none | (refine memWf_onCore .. |>.2 ?_) | (refine memWf_setHere .. |>.2 ?_) | (refine memWf_setCore .. |>.2 ?_) | (refine memWf_onRope .. |>.2 ?_) | (refine memWf_setRope .. |>.2 ?_) | (refine memWf_onIface .. |>.2 ?_) | (refine memWf_setIface .. |>.2 ?_) | (refine memWf_setWorld .. |>.2 ?_) | apply memWf_onHereQueue | (refine memWf_foldl _ (fun _ _ _ => ?_) _ _ ?_) | simp only [memWf_mk] | split | (intro _ _)))
@[simp] theorem memWf_execYBar (o : YW) (s : State) (hs : MemWf s) :
    OutWf (execYBar o s) := by
  unfold execYBar; (try dsimp only); with_reducible (repeat' (first | assumption | (refine outWf_next _ |>.2 ?_) | (refine optWf_some _ |>.2 ?_) | exact optWf_none | (refine memWf_onCore .. |>.2 ?_) | (refine memWf_setHere .. |>.2 ?_) | (refine memWf_setCore .. |>.2 ?_) | (refine memWf_onRope .. |>.2 ?_) | (refine memWf_setRope .. |>.2 ?_) | (refine memWf_onIface .. |>.2 ?_) | (refine memWf_setIface .. |>.2 ?_) | (refine memWf_setWorld .. |>.2 ?_) | apply memWf_issueFault | apply memWf_onHereQueue | (refine memWf_foldl _ (fun _ _ _ => ?_) _ _ ?_) | simp only [memWf_mk] | split | (intro _ _)))
@[simp] theorem memWf_execYHalt (_o : YW) (s : State) (hs : MemWf s) :
    OutWf (execYHalt _o s) := by
  unfold execYHalt; simp [*]
@[simp] theorem memWf_execYYield (_o : YW) (s : State) (hs : MemWf s) :
    OutWf (execYYield _o s) := by
  unfold execYYield; simp [*]
@[simp] theorem memWf_headerFault (s : State) (core : Nat) (e : Entry) (mask : BitVec 4) (code value tick : Nat) (hs : MemWf s) :
    MemWf (State.headerFault s core e mask code value tick) := by
  unfold State.headerFault; (try dsimp only); with_reducible (repeat' (first | assumption | (refine outWf_next _ |>.2 ?_) | (refine optWf_some _ |>.2 ?_) | exact optWf_none | (refine memWf_onCore .. |>.2 ?_) | (refine memWf_setHere .. |>.2 ?_) | (refine memWf_setCore .. |>.2 ?_) | (refine memWf_onRope .. |>.2 ?_) | (refine memWf_setRope .. |>.2 ?_) | (refine memWf_onIface .. |>.2 ?_) | (refine memWf_setIface .. |>.2 ?_) | (refine memWf_setWorld .. |>.2 ?_) | apply memWf_trap | (refine memWf_foldl _ (fun _ _ _ => ?_) _ _ ?_) | simp only [memWf_mk] | split | (intro _ _)))
@[simp] theorem memWf_alignCheck (s : State) (r : Rope) (tick : Nat) (hs : MemWf s) :
    MemWf (State.alignCheck s r tick) := by
  unfold State.alignCheck; dsimp only; with_reducible (repeat' (first | assumption | (refine outWf_next _ |>.2 ?_) | (refine optWf_some _ |>.2 ?_) | exact optWf_none | apply memWf_headerFault | (refine memWf_onCore .. |>.2 ?_) | (refine memWf_foldl _ (fun _ _ _ => ?_) _ _ ?_) | simp only [memWf_mk] | split))
@[simp] theorem memWf_passPhase (s : State) (k : RopeKey) (hs : MemWf s) : MemWf (State.passPhase s k) := hs.congr rfl rfl
@[simp] theorem memWf_forgetPhases (s : State) (k : RopeKey) (hs : MemWf s) : MemWf (State.forgetPhases s k) := hs.congr rfl rfl
@[simp] theorem memWf_beginPhases (s : State) (r : Rope) (tick : Nat) (hs : MemWf s) :
    MemWf (State.beginPhases s r tick) := by
  unfold State.beginPhases; (try dsimp only); with_reducible (repeat' (first | assumption | (refine outWf_next _ |>.2 ?_) | (refine optWf_some _ |>.2 ?_) | exact optWf_none | (refine memWf_onCore .. |>.2 ?_) | (refine memWf_setHere .. |>.2 ?_) | (refine memWf_setCore .. |>.2 ?_) | (refine memWf_onRope .. |>.2 ?_) | (refine memWf_setRope .. |>.2 ?_) | (refine memWf_onIface .. |>.2 ?_) | (refine memWf_setIface .. |>.2 ?_) | (refine memWf_setWorld .. |>.2 ?_) | apply memWf_passPhase | (refine memWf_foldl _ (fun _ _ _ => ?_) _ _ ?_) | simp only [memWf_mk] | split | (intro _ _)))
@[simp] theorem memWf_noteBase (s : State) (r : Rope) (tick : Nat) (hs : MemWf s) :
    MemWf (State.noteBase s r tick) := by
  unfold State.noteBase; (try dsimp only); (repeat' split) <;> simp +contextual [*, memWf_foldl]
@[simp] theorem memWf_arrive (s : State) (core level tick : Nat) (hs : MemWf s) :
    MemWf (State.arrive s core level tick) := by
  unfold State.arrive; (repeat' split) <;> simp [*]
@[simp] theorem memWf_completeBarriers (s : State) (r : Rope) (level tick : Nat) (hs : MemWf s) :
    MemWf (State.completeBarriers s r level tick) := by
  unfold State.completeBarriers; (try dsimp only); with_reducible (repeat' (first | assumption | (refine outWf_next _ |>.2 ?_) | (refine optWf_some _ |>.2 ?_) | exact optWf_none | (refine memWf_onCore .. |>.2 ?_) | (refine memWf_setHere .. |>.2 ?_) | (refine memWf_setCore .. |>.2 ?_) | (refine memWf_onRope .. |>.2 ?_) | (refine memWf_setRope .. |>.2 ?_) | (refine memWf_onIface .. |>.2 ?_) | (refine memWf_setIface .. |>.2 ?_) | (refine memWf_setWorld .. |>.2 ?_) | (refine memWf_foldl _ (fun _ _ _ => ?_) _ _ ?_) | simp only [memWf_mk] | split | (intro _ _)))
@[simp] theorem memWf_execEvBarrierCompletion (rope : RopeKey) (level : Nat) (s : State) (hs : MemWf s) :
    OutWf (execEvBarrierCompletion rope level s) := by
  unfold execEvBarrierCompletion; (try dsimp only); with_reducible (repeat' (first | assumption | (refine outWf_next _ |>.2 ?_) | (refine optWf_some _ |>.2 ?_) | exact optWf_none | (refine memWf_onCore .. |>.2 ?_) | (refine memWf_setHere .. |>.2 ?_) | (refine memWf_setCore .. |>.2 ?_) | (refine memWf_onRope .. |>.2 ?_) | (refine memWf_setRope .. |>.2 ?_) | (refine memWf_onIface .. |>.2 ?_) | (refine memWf_setIface .. |>.2 ?_) | (refine memWf_setWorld .. |>.2 ?_) | apply memWf_completeBarriers | apply memWf_absence | (refine memWf_foldl _ (fun _ _ _ => ?_) _ _ ?_) | simp only [memWf_mk] | split | (intro _ _)))
@[simp] theorem memWf_execEvBarrierTimeout (s : State) (hs : MemWf s) :
    OutWf (execEvBarrierTimeout s) := by
  unfold execEvBarrierTimeout; (try dsimp only); with_reducible (repeat' (first | assumption | (refine outWf_next _ |>.2 ?_) | (refine optWf_some _ |>.2 ?_) | exact optWf_none | (refine memWf_onCore .. |>.2 ?_) | (refine memWf_setHere .. |>.2 ?_) | (refine memWf_setCore .. |>.2 ?_) | (refine memWf_onRope .. |>.2 ?_) | (refine memWf_setRope .. |>.2 ?_) | (refine memWf_onIface .. |>.2 ?_) | (refine memWf_setIface .. |>.2 ?_) | (refine memWf_setWorld .. |>.2 ?_) | apply memWf_suspend | apply memWf_absence | (refine memWf_foldl _ (fun _ _ _ => ?_) _ _ ?_) | simp only [memWf_mk] | split | (intro _ _)))
@[simp] theorem memWf_absence (s : State) (key : RopeKey) (pkg : Nat) (sent : Bool) (hs : MemWf s) :
    MemWf (State.absence s key pkg sent) := by
  unfold State.absence; (try dsimp only); with_reducible (repeat' (first | assumption | (refine outWf_next _ |>.2 ?_) | (refine optWf_some _ |>.2 ?_) | exact optWf_none | (refine memWf_onCore .. |>.2 ?_) | (refine memWf_setHere .. |>.2 ?_) | (refine memWf_setCore .. |>.2 ?_) | (refine memWf_onRope .. |>.2 ?_) | (refine memWf_setRope .. |>.2 ?_) | (refine memWf_onIface .. |>.2 ?_) | (refine memWf_setIface .. |>.2 ?_) | (refine memWf_setWorld .. |>.2 ?_) | (refine memWf_foldl _ (fun _ _ _ => ?_) _ _ ?_) | simp only [memWf_mk] | split | (intro _ _)))
@[simp] theorem memWf_haltCore (s : State) (core : Nat) (hs : MemWf s) :
    MemWf (State.haltCore s core) := by
  unfold State.haltCore; split <;> simp [*]
@[simp] theorem memWf_execEvHaltAndTree (s : State) (hs : MemWf s) :
    OutWf (execEvHaltAndTree s) := by
  unfold execEvHaltAndTree; (try dsimp only); with_reducible (repeat' (first | assumption | (refine outWf_next _ |>.2 ?_) | (refine optWf_some _ |>.2 ?_) | exact optWf_none | (refine memWf_onCore .. |>.2 ?_) | (refine memWf_setHere .. |>.2 ?_) | (refine memWf_setCore .. |>.2 ?_) | (refine memWf_onRope .. |>.2 ?_) | (refine memWf_setRope .. |>.2 ?_) | (refine memWf_onIface .. |>.2 ?_) | (refine memWf_setIface .. |>.2 ?_) | (refine memWf_setWorld .. |>.2 ?_) | apply memWf_complete | apply memWf_finishLaunch | (refine memWf_foldl _ (fun _ _ _ => ?_) _ _ ?_) | simp only [memWf_mk] | split | (intro _ _)))
@[simp] theorem memWf_execEvClockStretch (ridge : Nat) (s : State) (hs : MemWf s) :
    OutWf (execEvClockStretch ridge s) := by
  unfold execEvClockStretch; simp [*]
@[simp] theorem memWf_execEvVrfRefresh (s : State) (hs : MemWf s) :
    OutWf (execEvVrfRefresh s) := by
  unfold execEvVrfRefresh; dsimp only; (repeat' split) <;> simp +contextual [*, memWf_foldl]
@[simp] theorem memWf_execYLoopInitiation (s : State) (hs : MemWf s) :
    OutWf (execYLoopInitiation s) := by
  unfold execYLoopInitiation; (try dsimp only); with_reducible (repeat' (first | assumption | (refine outWf_next _ |>.2 ?_) | (refine optWf_some _ |>.2 ?_) | exact optWf_none | (refine memWf_onCore .. |>.2 ?_) | (refine memWf_setHere .. |>.2 ?_) | (refine memWf_setCore .. |>.2 ?_) | (refine memWf_onRope .. |>.2 ?_) | (refine memWf_setRope .. |>.2 ?_) | (refine memWf_onIface .. |>.2 ?_) | (refine memWf_setIface .. |>.2 ?_) | (refine memWf_setWorld .. |>.2 ?_) | (refine memWf_foldl _ (fun _ _ _ => ?_) _ _ ?_) | simp only [memWf_mk] | split | (intro _ _)))
@[simp] theorem memWf_serveUnit (s : State) (core id u : Nat) (hs : MemWf s) :
    MemWf (State.serveUnit s core id u) := by
  unfold State.serveUnit; (try dsimp only); (repeat' split) <;> simp +contextual [*, memWf_foldl]
@[simp] theorem memWf_serveUnits (s : State) (core : Nat) (f : Flight) (hs : MemWf s) :
    MemWf (State.serveUnits s core f) := by
  unfold State.serveUnits; (try dsimp only); with_reducible (repeat' (first | assumption | (refine outWf_next _ |>.2 ?_) | (refine optWf_some _ |>.2 ?_) | exact optWf_none | (refine memWf_onCore .. |>.2 ?_) | (refine memWf_setHere .. |>.2 ?_) | (refine memWf_setCore .. |>.2 ?_) | (refine memWf_onRope .. |>.2 ?_) | (refine memWf_setRope .. |>.2 ?_) | (refine memWf_onIface .. |>.2 ?_) | (refine memWf_setIface .. |>.2 ?_) | (refine memWf_setWorld .. |>.2 ?_) | apply memWf_serveUnit | (refine memWf_foldl _ (fun _ _ _ => ?_) _ _ ?_) | simp only [memWf_mk] | split | (intro _ _)))
@[simp] theorem memWf_serveLate (s : State) (core : Nat) (f : Flight) (hs : MemWf s) :
    MemWf (State.serveLate s core f) := by
  unfold State.serveLate; (try dsimp only); with_reducible (repeat' (first | assumption | (refine outWf_next _ |>.2 ?_) | (refine optWf_some _ |>.2 ?_) | exact optWf_none | (refine memWf_onCore .. |>.2 ?_) | (refine memWf_setHere .. |>.2 ?_) | (refine memWf_setCore .. |>.2 ?_) | (refine memWf_onRope .. |>.2 ?_) | (refine memWf_setRope .. |>.2 ?_) | (refine memWf_onIface .. |>.2 ?_) | (refine memWf_setIface .. |>.2 ?_) | (refine memWf_setWorld .. |>.2 ?_) | apply memWf_onFlight | apply memWf_serveUnits | (refine memWf_foldl _ (fun _ _ _ => ?_) _ _ ?_) | simp only [memWf_mk] | split | (intro _ _)))
@[simp] theorem memWf_serveEarly (s : State) (core id : Nat) (hs : MemWf s) :
    MemWf (State.serveEarly s core id) := by
  unfold State.serveEarly; (try dsimp only); with_reducible (repeat' (first | assumption | (refine outWf_next _ |>.2 ?_) | (refine optWf_some _ |>.2 ?_) | exact optWf_none | (refine memWf_onCore .. |>.2 ?_) | (refine memWf_setHere .. |>.2 ?_) | (refine memWf_setCore .. |>.2 ?_) | (refine memWf_onRope .. |>.2 ?_) | (refine memWf_setRope .. |>.2 ?_) | (refine memWf_onIface .. |>.2 ?_) | (refine memWf_setIface .. |>.2 ?_) | (refine memWf_setWorld .. |>.2 ?_) | apply memWf_serveUnits | (refine memWf_foldl _ (fun _ _ _ => ?_) _ _ ?_) | simp only [memWf_mk] | split | (intro _ _)))
@[simp] theorem memWf_serveDue (s : State) (core tick : Nat) (hs : MemWf s) :
    MemWf (State.serveDue s core tick) := by
  unfold State.serveDue; (try dsimp only); with_reducible (repeat' (first | assumption | (refine outWf_next _ |>.2 ?_) | (refine optWf_some _ |>.2 ?_) | exact optWf_none | (refine memWf_onCore .. |>.2 ?_) | (refine memWf_setHere .. |>.2 ?_) | (refine memWf_setCore .. |>.2 ?_) | (refine memWf_onRope .. |>.2 ?_) | (refine memWf_setRope .. |>.2 ?_) | (refine memWf_onIface .. |>.2 ?_) | (refine memWf_setIface .. |>.2 ?_) | (refine memWf_setWorld .. |>.2 ?_) | apply memWf_onFlight | apply memWf_serveUnits | (refine memWf_foldl _ (fun _ _ _ => ?_) _ _ ?_) | simp only [memWf_mk] | split | (intro _ _)))
@[simp] theorem memWf_execEvLateDataArrival (core id : Nat) (s : State) (hs : MemWf s) :
    OutWf (execEvLateDataArrival core id s) := by
  unfold execEvLateDataArrival; dsimp only; (repeat' split) <;> simp +contextual [*, memWf_foldl]
@[simp] theorem memWf_endBarrier (s : State) (core : Nat) (f : Flight) (tick : Nat) (hs : MemWf s) :
    MemWf (State.endBarrier s core f tick) := by
  unfold State.endBarrier; (try dsimp only); with_reducible (repeat' (first | assumption | (refine outWf_next _ |>.2 ?_) | (refine optWf_some _ |>.2 ?_) | exact optWf_none | (refine memWf_onCore .. |>.2 ?_) | (refine memWf_setHere .. |>.2 ?_) | (refine memWf_onRope .. |>.2 ?_) | (refine memWf_setRope .. |>.2 ?_) | (refine memWf_onIface .. |>.2 ?_) | apply memWf_cover | apply memWf_keep | apply memWf_lapse | apply memWf_suspendAt | (refine memWf_foldl _ (fun _ _ _ => ?_) _ _ ?_) | simp only [memWf_mk] | split))
@[simp] theorem memWf_writeBatt (s : State) (core : Nat) (f : Flight) (tick unit : Nat) (bytes : List Byte) (hs : MemWf s) :
    MemWf (State.writeBatt s core f tick unit bytes) := by
  unfold State.writeBatt; dsimp only; (repeat' split) <;> simp +contextual [*, memWf_foldl]
@[simp] theorem memWf_writeCodebook (s : State) (core : Nat) (f : Flight) (tick slot : Nat) (bytes : List Byte) (hs : MemWf s) :
    MemWf (State.writeCodebook s core f tick slot bytes) := by
  unfold State.writeCodebook; dsimp only; (repeat' split) <;> simp +contextual [*, memWf_foldl]
@[simp] theorem memWf_endKat (s : State) (core : Nat) (j : Job) (tick : Nat) (found carried : BitVec 32) (hs : MemWf s) :
    MemWf (State.endKat s core j tick found carried) := by
  unfold State.endKat; (try dsimp only); with_reducible (repeat' (first | assumption | (refine outWf_next _ |>.2 ?_) | (refine optWf_some _ |>.2 ?_) | exact optWf_none | (refine memWf_onCore .. |>.2 ?_) | (refine memWf_setHere .. |>.2 ?_) | (refine memWf_setCore .. |>.2 ?_) | (refine memWf_onRope .. |>.2 ?_) | (refine memWf_setRope .. |>.2 ?_) | (refine memWf_onIface .. |>.2 ?_) | (refine memWf_setIface .. |>.2 ?_) | (refine memWf_setWorld .. |>.2 ?_) | apply memWf_logError | apply memWf_suspend | (refine memWf_foldl _ (fun _ _ _ => ?_) _ _ ?_) | simp only [memWf_mk] | split | (intro _ _)))
@[simp] theorem memWf_perform (s : State) (core tick : Nat) (old : Core) (f : Flight) (hs : MemWf s) :
    MemWf (State.perform s core tick old f) := by
  unfold State.perform; (try dsimp only); with_reducible (repeat' (first | assumption | (refine outWf_next _ |>.2 ?_) | (refine optWf_some _ |>.2 ?_) | exact optWf_none | (refine memWf_onCore .. |>.2 ?_) | (refine memWf_setHere .. |>.2 ?_) | (refine memWf_setCore .. |>.2 ?_) | (refine memWf_onRope .. |>.2 ?_) | (refine memWf_setRope .. |>.2 ?_) | (refine memWf_onIface .. |>.2 ?_) | (refine memWf_setIface .. |>.2 ?_) | (refine memWf_setWorld .. |>.2 ?_) | apply memWf_performOut | apply memWf_macRow | apply memWf_macEntry | apply memWf_endBarrier | apply memWf_writeBatt | apply memWf_writeCodebook | apply memWf_endKat | (refine memWf_foldl _ (fun _ _ _ => ?_) _ _ ?_) | simp only [memWf_mk] | split | (intro _ _)))
@[simp] theorem memWf_lateFault (s : State) (core tick : Nat) (f : Flight) (hs : MemWf s) :
    MemWf (State.lateFault s core tick f) := by
  unfold State.lateFault; (try dsimp only); (repeat' split) <;> simp +contextual [*, memWf_foldl]
@[simp] theorem memWf_badFault (s : State) (core tick : Nat) (f : Flight) (hs : MemWf s) :
    MemWf (State.badFault s core tick f) := by
  unfold State.badFault; (try dsimp only); (repeat' split) <;> simp +contextual [*, memWf_foldl]
@[simp] theorem memWf_snagged (s : State) (core tick : Nat) (f : Flight) (x0 : Snag) (hs : MemWf s) :
    MemWf (State.snagged s core tick f x0) := by
  unfold State.snagged; (try dsimp only); (repeat' split) <;> simp +contextual [*, memWf_foldl]
@[simp] theorem memWf_performDue (s : State) (core tick : Nat) (hs : MemWf s) :
    MemWf (State.performDue s core tick) := by
  unfold State.performDue; (try dsimp only); with_reducible (repeat' (first | assumption | (refine outWf_next _ |>.2 ?_) | (refine optWf_some _ |>.2 ?_) | exact optWf_none | (refine memWf_onCore .. |>.2 ?_) | (refine memWf_setHere .. |>.2 ?_) | (refine memWf_setCore .. |>.2 ?_) | (refine memWf_onRope .. |>.2 ?_) | (refine memWf_setRope .. |>.2 ?_) | (refine memWf_onIface .. |>.2 ?_) | (refine memWf_setIface .. |>.2 ?_) | (refine memWf_setWorld .. |>.2 ?_) | apply memWf_perform | apply memWf_snagged | (refine memWf_foldl _ (fun _ _ _ => ?_) _ _ ?_) | simp only [memWf_mk] | split | (intro _ _)))
@[simp] theorem memWf_runStep (s : State) (core tick waited : Nat) (j : Job) (e : Effect) (hs : MemWf s) :
    MemWf (State.runStep s core tick waited j e) := by
  unfold State.runStep; (try dsimp only); (repeat' split) <;> simp +contextual [*, memWf_foldl]
@[simp] theorem memWf_stepsDue (s : State) (core tick : Nat) (p : Flight → Bool) (hs : MemWf s) :
    MemWf (State.stepsDue s core tick p) := by
  unfold State.stepsDue; (try dsimp only); with_reducible (repeat' (first | assumption | (refine outWf_next _ |>.2 ?_) | (refine optWf_some _ |>.2 ?_) | exact optWf_none | (refine memWf_onCore .. |>.2 ?_) | (refine memWf_setHere .. |>.2 ?_) | (refine memWf_onRope .. |>.2 ?_) | (refine memWf_setRope .. |>.2 ?_) | (refine memWf_onIface .. |>.2 ?_) | apply memWf_keep | apply memWf_runStep | apply memWf_snagged | (refine memWf_foldl _ (fun _ _ _ => ?_) _ _ ?_) | simp only [memWf_mk] | split))
@[simp] theorem memWf_take (s : State) (core tick i : Nat) (hs : MemWf s) :
    MemWf (State.take s core tick i) := by
  unfold State.take; split <;> simp [*]
@[simp] theorem memWf_give (s : State) (core tick i : Nat) (hs : MemWf s) :
    MemWf (State.give s core tick i) := by
  unfold State.give; (try dsimp only); (repeat' split) <;> simp +contextual [*, memWf_foldl]
@[simp] theorem memWf_gives (s : State) (core tick : Nat) (j : Job) (hs : MemWf s) :
    MemWf (State.gives s core tick j) := by
  unfold State.gives; simp +contextual [*, memWf_foldl]
@[simp] theorem memWf_Exec.run (ex : Exec) (i : Instr) (s : State) (hex : ∀ i s, MemWf s → OutWf (ex i s)) (hs : MemWf s) :
    MemWf (Exec.run ex i s) := by
  unfold Exec.run
  split
  · rename_i t e; exact hex _ _ hs t e
  · exact hs
@[simp] theorem memWf_issueJob (ex : Exec) (s : State) (core tick : Nat) (full : Bool) (j : Job) (hex : ∀ i s, MemWf s → OutWf (ex i s)) (hs : MemWf s) :
    MemWf (State.issueJob ex s core tick full j).1 := by
  unfold State.issueJob
  dsimp only
  split
  · exact memWf_suspend _ _ _ _ _ _ _ _ _ (hs.congr rfl rfl)
  · have h := memWf_Exec.run ex j.entry.ins { s with cur := { core := core, rope := ((s.core core).rope.getD s.cur.rope), job := j } } hex
      (hs.congr rfl rfl)
    split
    · exact h
    · exact memWf_foldl _ (fun t i ht => memWf_take _ _ _ _ ht) _ _ h
@[simp] theorem memWf_queueTick (ex : Exec) (full : Bool) (s : State) (core q tick : Nat) (hex : ∀ i s, MemWf s → OutWf (ex i s)) (hs : MemWf s) :
    MemWf (State.queueTick ex full s core q tick).1 := by
  unfold State.queueTick; (try dsimp only); (repeat' split) <;> simp +contextual [*, memWf_foldl]
@[simp] theorem memWf_unpark (s : State) (core q tick : Nat) (x : Suspended) (hs : MemWf s) :
    MemWf (State.unpark s core q tick x) := by
  unfold State.unpark; (try dsimp only); (repeat' split) <;> simp +contextual [*, memWf_foldl]
@[simp] theorem memWf_wakeCarder (s : State) (core : Nat) (j : Job) (hs : MemWf s) :
    MemWf (State.wakeCarder s core j) := by
  unfold State.wakeCarder; (try dsimp only); (repeat' split) <;> simp +contextual [*, memWf_foldl]
@[simp] theorem memWf_resumeStep (ex : Exec) (full : Bool) (s : State) (core q tick : Nat) (x : Suspended) (hex : ∀ i s, MemWf s → OutWf (ex i s)) (hs : MemWf s) :
    MemWf (State.resumeStep ex full s core q tick x).1 := by
  unfold State.resumeStep; (try dsimp only); with_reducible (repeat' (first | assumption | (refine outWf_next _ |>.2 ?_) | (refine optWf_some _ |>.2 ?_) | exact optWf_none | (refine memWf_onCore .. |>.2 ?_) | (refine memWf_setHere .. |>.2 ?_) | (refine memWf_setCore .. |>.2 ?_) | (refine memWf_onRope .. |>.2 ?_) | (refine memWf_setRope .. |>.2 ?_) | (refine memWf_onIface .. |>.2 ?_) | (refine memWf_setIface .. |>.2 ?_) | (refine memWf_setWorld .. |>.2 ?_) | (refine memWf_Exec.run _ _ _ hex ?_) | (refine memWf_each _ _ _ ?_ fun _ _ _ => ?_) | apply memWf_flyFrom | apply memWf_redo | apply memWf_runStep | apply memWf_issueJob | apply memWf_wakeCarder | (refine memWf_foldl _ (fun _ _ _ => ?_) _ _ ?_) | simp only [memWf_mk] | split | (intro _ _)))
@[simp] theorem memWf_issueAll (ex : Exec) (s : State) (cores : List Nat) (back : List (Nat × Nat × Suspended)) (tick : Nat)
    (bad : List (Nat × Nat)) (hex : ∀ i s, MemWf s → OutWf (ex i s)) (hs : MemWf s) : MemWf (State.issueAll ex s cores back tick bad).1 := by
  unfold State.issueAll
  refine memWf_foldl_pair _ (fun a x ha => ?_) _ _ hs
  dsimp only
  split
  · split
    · exact memWf_resumeStep _ _ _ _ _ _ _ hex ha
    · exact memWf_queueTick _ _ _ _ _ _ hex (memWf_resumeStep _ _ _ _ _ _ _ hex ha)
  · exact memWf_queueTick _ _ _ _ _ _ hex ha
@[simp] theorem memWf_issues (ex : Exec) (s : State) (cores : List Nat) (back : List (Nat × Nat × Suspended)) (tick n : Nat)
    (bad : List (Nat × Nat)) (hex : ∀ i s, MemWf s → OutWf (ex i s)) (hs : MemWf s) : MemWf (State.issues ex s cores back tick n bad).1 := by
  induction n generalizing bad with
  | zero => exact memWf_issueAll _ _ _ _ _ _ hex hs
  | succ n ih =>
    unfold State.issues
    dsimp only
    split
    · exact memWf_issueAll _ _ _ _ _ _ hex hs
    · exact ih _
@[simp] theorem memWf_gathers (s : State) (core : Nat) (hs : MemWf s) :
    MemWf (State.gathers s core) := by
  unfold State.gathers; (try dsimp only); with_reducible (repeat' (first | assumption | (refine outWf_next _ |>.2 ?_) | (refine optWf_some _ |>.2 ?_) | exact optWf_none | (refine memWf_onCore .. |>.2 ?_) | (refine memWf_setHere .. |>.2 ?_) | (refine memWf_setCore .. |>.2 ?_) | (refine memWf_onRope .. |>.2 ?_) | (refine memWf_setRope .. |>.2 ?_) | (refine memWf_onIface .. |>.2 ?_) | (refine memWf_setIface .. |>.2 ?_) | (refine memWf_setWorld .. |>.2 ?_) | (refine memWf_foldl _ (fun _ _ _ => ?_) _ _ ?_) | simp only [memWf_mk] | split | (intro _ _)))
@[simp] theorem memWf_conflicts (ex : Exec) (s : State) (core tick : Nat) (hex : ∀ i s, MemWf s → OutWf (ex i s)) (hs : MemWf s) :
    MemWf (State.conflicts ex s core tick) := by
  unfold State.conflicts; (try dsimp only); with_reducible (repeat' (first | assumption | (refine outWf_next _ |>.2 ?_) | (refine optWf_some _ |>.2 ?_) | exact optWf_none | (refine memWf_onCore .. |>.2 ?_) | (refine memWf_setHere .. |>.2 ?_) | (refine memWf_setCore .. |>.2 ?_) | (refine memWf_onRope .. |>.2 ?_) | (refine memWf_setRope .. |>.2 ?_) | (refine memWf_onIface .. |>.2 ?_) | (refine memWf_setIface .. |>.2 ?_) | (refine memWf_setWorld .. |>.2 ?_) | (refine memWf_Exec.run _ _ _ hex ?_) | (refine memWf_each _ _ _ ?_ fun _ _ _ => ?_) | apply memWf_hold | apply memWf_gathers | (refine memWf_foldl _ (fun _ _ _ => ?_) _ _ ?_) | simp only [memWf_mk] | split | (intro _ _)))
@[simp] theorem memWf_capture (s : State) (origin w h : Nat) (hs : MemWf s) :
    MemWf (State.capture s origin w h) := by
  unfold State.capture; simp [*]
@[simp] theorem memWf_clearCores (s : State) (cores : List Nat) (hs : MemWf s) :
    MemWf (State.clearCores s cores) := by
  unfold State.clearCores; simp +contextual [*, memWf_foldl]
@[simp] theorem memWf_setCross (s : State) (img : List Byte) (cores : List Nat) (x : Nat × Nat) (hs : MemWf s) :
    MemWf (State.setCross s img cores x) := by
  unfold State.setCross; (try dsimp only); with_reducible (repeat' (first | assumption | (refine outWf_next _ |>.2 ?_) | (refine optWf_some _ |>.2 ?_) | exact optWf_none | (refine memWf_onCore .. |>.2 ?_) | (refine memWf_setHere .. |>.2 ?_) | (refine memWf_setCore .. |>.2 ?_) | (refine memWf_onRope .. |>.2 ?_) | (refine memWf_setRope .. |>.2 ?_) | (refine memWf_onIface .. |>.2 ?_) | (refine memWf_setIface .. |>.2 ?_) | (refine memWf_setWorld .. |>.2 ?_) | apply memWf_take | apply memWf_bind | (refine memWf_foldl _ (fun _ _ _ => ?_) _ _ ?_) | simp only [memWf_mk] | split | (intro _ _)))
@[simp] theorem memWf_shiftIn (s : State) (img : List Byte) (mask : BitVec 10) (cores : List Nat) (world : Nat) (hs : MemWf s) :
    MemWf (State.shiftIn s img mask cores world) := by
  unfold State.shiftIn; (try dsimp only); with_reducible (repeat' (first | assumption | (refine outWf_next _ |>.2 ?_) | (refine optWf_some _ |>.2 ?_) | exact optWf_none | (refine memWf_onCore .. |>.2 ?_) | (refine memWf_setHere .. |>.2 ?_) | (refine memWf_onRope .. |>.2 ?_) | (refine memWf_setRope .. |>.2 ?_) | (refine memWf_onIface .. |>.2 ?_) | apply memWf_setCross | (refine memWf_foldl _ (fun _ _ _ => ?_) _ _ ?_) | simp only [memWf_mk] | split))
@[simp] theorem memWf_scanAt (s : State) (rect : Word) (stage : ScanStage) (hs : MemWf s) :
    MemWf (State.scanAt s rect stage) := by
  unfold State.scanAt; (try dsimp only); with_reducible (repeat' (first | assumption | (refine outWf_next _ |>.2 ?_) | (refine optWf_some _ |>.2 ?_) | exact optWf_none | (refine memWf_onCore .. |>.2 ?_) | (refine memWf_setHere .. |>.2 ?_) | (refine memWf_setCore .. |>.2 ?_) | (refine memWf_onRope .. |>.2 ?_) | (refine memWf_setRope .. |>.2 ?_) | (refine memWf_onIface .. |>.2 ?_) | (refine memWf_setIface .. |>.2 ?_) | (refine memWf_setWorld .. |>.2 ?_) | (refine memWf_foldl _ (fun _ _ _ => ?_) _ _ ?_) | simp only [memWf_mk] | split | (intro _ _)))
@[simp] theorem memWf_inTurn (s : State) (rect : Word) (go : State) (hs : MemWf s) (hgo : MemWf go) :
    MemWf (State.inTurn s rect go) := by
  unfold State.inTurn; (try dsimp only); with_reducible (repeat' (first | assumption | (refine outWf_next _ |>.2 ?_) | (refine optWf_some _ |>.2 ?_) | exact optWf_none | (refine memWf_onCore .. |>.2 ?_) | (refine memWf_setHere .. |>.2 ?_) | (refine memWf_setCore .. |>.2 ?_) | (refine memWf_onRope .. |>.2 ?_) | (refine memWf_setRope .. |>.2 ?_) | (refine memWf_onIface .. |>.2 ?_) | (refine memWf_setIface .. |>.2 ?_) | (refine memWf_setWorld .. |>.2 ?_) | apply memWf_scanAt | (refine memWf_foldl _ (fun _ _ _ => ?_) _ _ ?_) | simp only [memWf_mk] | split | (intro _ _)))
@[simp] theorem memWf_freezeNow (s : State) (key : RopeKey) (hs : MemWf s) :
    MemWf (State.freezeNow s key) := by
  unfold State.freezeNow; (try dsimp only); with_reducible (repeat' (first | assumption | (refine outWf_next _ |>.2 ?_) | (refine optWf_some _ |>.2 ?_) | exact optWf_none | (refine memWf_onCore .. |>.2 ?_) | (refine memWf_setHere .. |>.2 ?_) | (refine memWf_setCore .. |>.2 ?_) | (refine memWf_onRope .. |>.2 ?_) | (refine memWf_setRope .. |>.2 ?_) | (refine memWf_onIface .. |>.2 ?_) | (refine memWf_setIface .. |>.2 ?_) | (refine memWf_setWorld .. |>.2 ?_) | apply memWf_settleCores | apply memWf_bind | (refine memWf_foldl _ (fun _ _ _ => ?_) _ _ ?_) | simp only [memWf_mk] | split | (intro _ _)))
@[simp] theorem memWf_execEvFreezeTakesEffect (s : State) (hs : MemWf s) :
    OutWf (execEvFreezeTakesEffect s) := by
  unfold execEvFreezeTakesEffect; (repeat' split) <;> simp [*]
@[simp] theorem memWf_frzEnd (s : State) (d : Reg) (r : Rope) (hs : MemWf s) :
    MemWf (State.frzEnd s d r) := by
  unfold State.frzEnd; (try dsimp only); with_reducible (repeat' (first | assumption | (refine outWf_next _ |>.2 ?_) | (refine optWf_some _ |>.2 ?_) | exact optWf_none | (refine memWf_onCore .. |>.2 ?_) | (refine memWf_setHere .. |>.2 ?_) | (refine memWf_setCore .. |>.2 ?_) | (refine memWf_onRope .. |>.2 ?_) | (refine memWf_setRope .. |>.2 ?_) | (refine memWf_onIface .. |>.2 ?_) | (refine memWf_setIface .. |>.2 ?_) | (refine memWf_setWorld .. |>.2 ?_) | apply memWf_settleCores | apply memWf_freezeNow | (refine memWf_foldl _ (fun _ _ _ => ?_) _ _ ?_) | simp only [memWf_mk] | split | (intro _ _)))
@[simp] theorem memWf_frzAsk (s : State) (rect : Word) (r : Rope) (f : Nat) (hs : MemWf s) :
    MemWf (State.frzAsk s rect r f) := by
  unfold State.frzAsk; (try dsimp only); with_reducible (repeat' (first | assumption | (refine outWf_next _ |>.2 ?_) | (refine optWf_some _ |>.2 ?_) | exact optWf_none | (refine memWf_onCore .. |>.2 ?_) | (refine memWf_setHere .. |>.2 ?_) | (refine memWf_setCore .. |>.2 ?_) | (refine memWf_onRope .. |>.2 ?_) | (refine memWf_setRope .. |>.2 ?_) | (refine memWf_onIface .. |>.2 ?_) | (refine memWf_setIface .. |>.2 ?_) | (refine memWf_setWorld .. |>.2 ?_) | apply memWf_scanAt | apply memWf_freezeNow | (refine memWf_foldl _ (fun _ _ _ => ?_) _ _ ?_) | simp only [memWf_mk] | split | (intro _ _)))
@[simp] theorem memWf_execKFrz (d a b : Reg) (s : State) (hs : MemWf s) :
    OutWf (execKFrz d a b s) := by
  unfold execKFrz; (try dsimp only); with_reducible (repeat' (first | assumption | (refine outWf_next _ |>.2 ?_) | (refine optWf_some _ |>.2 ?_) | exact optWf_none | (refine memWf_onCore .. |>.2 ?_) | (refine memWf_setHere .. |>.2 ?_) | (refine memWf_setCore .. |>.2 ?_) | (refine memWf_onRope .. |>.2 ?_) | (refine memWf_setRope .. |>.2 ?_) | (refine memWf_onIface .. |>.2 ?_) | (refine memWf_setIface .. |>.2 ?_) | (refine memWf_setWorld .. |>.2 ?_) | apply memWf_waitFor | apply memWf_faultHere | apply memWf_faultWord | apply memWf_inTurn | apply memWf_frzEnd | apply memWf_frzAsk | (refine memWf_foldl _ (fun _ _ _ => ?_) _ _ ?_) | simp only [memWf_mk] | split | (intro _ _)))
@[simp] theorem memWf_execKThaw (a : Reg) (s : State) (hs : MemWf s) :
    OutWf (execKThaw a s) := by
  unfold execKThaw; (try dsimp only); with_reducible (repeat' (first | assumption | (refine outWf_next _ |>.2 ?_) | (refine optWf_some _ |>.2 ?_) | exact optWf_none | (refine memWf_onCore .. |>.2 ?_) | (refine memWf_setHere .. |>.2 ?_) | (refine memWf_setCore .. |>.2 ?_) | (refine memWf_onRope .. |>.2 ?_) | (refine memWf_setRope .. |>.2 ?_) | (refine memWf_onIface .. |>.2 ?_) | (refine memWf_setIface .. |>.2 ?_) | (refine memWf_setWorld .. |>.2 ?_) | apply memWf_waitFor | apply memWf_faultHere | apply memWf_faultWord | apply memWf_inTurn | (refine memWf_foldl _ (fun _ _ _ => ?_) _ _ ?_) | simp only [memWf_mk] | split | (intro _ _)))
@[simp] theorem memWf_loseFlight (s : State) (core : Nat) (f : Flight) (code : Nat) (v : Word) (hs : MemWf s) :
    MemWf (State.loseFlight s core f code v) := by
  unfold State.loseFlight; (try dsimp only); with_reducible (repeat' (first | assumption | (refine outWf_next _ |>.2 ?_) | (refine optWf_some _ |>.2 ?_) | exact optWf_none | (refine memWf_onCore .. |>.2 ?_) | (refine memWf_setHere .. |>.2 ?_) | (refine memWf_setCore .. |>.2 ?_) | (refine memWf_onRope .. |>.2 ?_) | (refine memWf_setRope .. |>.2 ?_) | (refine memWf_onIface .. |>.2 ?_) | (refine memWf_setIface .. |>.2 ?_) | (refine memWf_setWorld .. |>.2 ?_) | apply memWf_suspendAt | apply memWf_onFlight | (refine memWf_foldl _ (fun _ _ _ => ?_) _ _ ?_) | simp only [memWf_mk] | split | (intro _ _)))
@[simp] theorem memWf_resend (s : State) (core : Nat) (f : Flight) (hs : MemWf s) :
    MemWf (State.resend s core f) := by
  unfold State.resend; (try dsimp only); with_reducible (repeat' (first | assumption | (refine outWf_next _ |>.2 ?_) | (refine optWf_some _ |>.2 ?_) | exact optWf_none | (refine memWf_onCore .. |>.2 ?_) | (refine memWf_setHere .. |>.2 ?_) | (refine memWf_setCore .. |>.2 ?_) | (refine memWf_onRope .. |>.2 ?_) | (refine memWf_setRope .. |>.2 ?_) | (refine memWf_onIface .. |>.2 ?_) | (refine memWf_setIface .. |>.2 ?_) | (refine memWf_setWorld .. |>.2 ?_) | apply memWf_askPeers | apply memWf_onFlight | apply memWf_loseFlight | (refine memWf_foldl _ (fun _ _ _ => ?_) _ _ ?_) | simp only [memWf_mk] | split | (intro _ _)))
@[simp] theorem memWf_deliverDebug (s : State) (core : Nat) (hs : MemWf s) :
    MemWf (State.deliverDebug s core) := by
  unfold State.deliverDebug; (try dsimp only); with_reducible (repeat' (first | assumption | (refine outWf_next _ |>.2 ?_) | (refine optWf_some _ |>.2 ?_) | exact optWf_none | (refine memWf_onCore .. |>.2 ?_) | (refine memWf_setHere .. |>.2 ?_) | (refine memWf_setCore .. |>.2 ?_) | (refine memWf_onRope .. |>.2 ?_) | (refine memWf_setRope .. |>.2 ?_) | (refine memWf_onIface .. |>.2 ?_) | (refine memWf_setIface .. |>.2 ?_) | (refine memWf_setWorld .. |>.2 ?_) | apply memWf_trap | (refine memWf_foldl _ (fun _ _ _ => ?_) _ _ ?_) | simp only [memWf_mk] | split | (intro _ _)))
@[simp] theorem memWf_adopt (s : State) (r : Rope) (hs : MemWf s) :
    MemWf (State.adopt s r) := by
  unfold State.adopt; (try dsimp only); with_reducible (repeat' (first | assumption | (refine outWf_next _ |>.2 ?_) | (refine optWf_some _ |>.2 ?_) | exact optWf_none | (refine memWf_onCore .. |>.2 ?_) | (refine memWf_setHere .. |>.2 ?_) | (refine memWf_setCore .. |>.2 ?_) | (refine memWf_onRope .. |>.2 ?_) | (refine memWf_setRope .. |>.2 ?_) | (refine memWf_onIface .. |>.2 ?_) | (refine memWf_setIface .. |>.2 ?_) | (refine memWf_setWorld .. |>.2 ?_) | (refine memWf_foldl _ (fun _ _ _ => ?_) _ _ ?_) | simp only [memWf_mk] | split | (intro _ _)))
@[simp] theorem memWf_execEvThawResume (s : State) (hs : MemWf s) :
    OutWf (execEvThawResume s) := by
  unfold execEvThawResume; dsimp only; with_reducible (repeat' (first | assumption | (refine outWf_next _ |>.2 ?_) | (refine optWf_some _ |>.2 ?_) | exact optWf_none | apply memWf_adopt | apply memWf_deliverDebug | (refine memWf_onCore .. |>.2 ?_) | (refine memWf_onRope .. |>.2 ?_) | apply memWf_resend | (refine memWf_foldl _ (fun _ _ _ => ?_) _ _ ?_) | simp only [memWf_mk] | split))
@[simp] theorem memWf_scanWrite (s : State) (va : Nat) (bytes : List Byte) (hs : MemWf s) :
    MemWf (State.scanWrite s va bytes) := by
  unfold State.scanWrite; dsimp only; with_reducible (repeat' (first | assumption | (refine outWf_next _ |>.2 ?_) | (refine optWf_some _ |>.2 ?_) | exact optWf_none | apply memWf_send | apply memWf_store_ | apply memWf_take | apply memWf_store | (refine memWf_foldl _ (fun _ _ _ => ?_) _ _ ?_) | simp only [memWf_mk] | split))
@[simp] theorem memWf_scanOutEnd (s : State) (d : Reg) (len : Nat) (hs : MemWf s) :
    MemWf (State.scanOutEnd s d len) := by
  unfold State.scanOutEnd; (try dsimp only); with_reducible (repeat' (first | assumption | (refine outWf_next _ |>.2 ?_) | (refine optWf_some _ |>.2 ?_) | exact optWf_none | (refine memWf_onCore .. |>.2 ?_) | (refine memWf_setHere .. |>.2 ?_) | (refine memWf_setCore .. |>.2 ?_) | (refine memWf_onRope .. |>.2 ?_) | (refine memWf_setRope .. |>.2 ?_) | (refine memWf_onIface .. |>.2 ?_) | (refine memWf_setIface .. |>.2 ?_) | (refine memWf_setWorld .. |>.2 ?_) | apply memWf_cover | apply memWf_persistFault | (refine memWf_foldl _ (fun _ _ _ => ?_) _ _ ?_) | simp only [memWf_mk] | split | (intro _ _)))
@[simp] theorem memWf_scanOutNow (s : State) (o w h : Nat) (mask : BitVec 10) (rect : Word) (va : Nat) (hs : MemWf s) :
    MemWf (State.scanOutNow s o w h mask rect va) := by
  unfold State.scanOutNow; (try dsimp only); with_reducible (repeat' (first | assumption | (refine outWf_next _ |>.2 ?_) | (refine optWf_some _ |>.2 ?_) | exact optWf_none | (refine memWf_onCore .. |>.2 ?_) | (refine memWf_setHere .. |>.2 ?_) | (refine memWf_setCore .. |>.2 ?_) | (refine memWf_onRope .. |>.2 ?_) | (refine memWf_setRope .. |>.2 ?_) | (refine memWf_onIface .. |>.2 ?_) | (refine memWf_setIface .. |>.2 ?_) | (refine memWf_setWorld .. |>.2 ?_) | apply memWf_faultHere | apply memWf_haulHere | apply memWf_capture | apply memWf_scanAt | apply memWf_scanWrite | (refine memWf_foldl _ (fun _ _ _ => ?_) _ _ ?_) | simp only [memWf_mk] | split | (intro _ _)))
@[simp] theorem memWf_execKScanOut (d a b : Reg) (mask : BitVec 10) (s : State) (hs : MemWf s) :
    OutWf (execKScanOut d a b mask s) := by
  unfold execKScanOut; (try dsimp only); with_reducible (repeat' (first | assumption | (refine outWf_next _ |>.2 ?_) | (refine optWf_some _ |>.2 ?_) | exact optWf_none | (refine memWf_onCore .. |>.2 ?_) | (refine memWf_setHere .. |>.2 ?_) | (refine memWf_setCore .. |>.2 ?_) | (refine memWf_onRope .. |>.2 ?_) | (refine memWf_setRope .. |>.2 ?_) | (refine memWf_onIface .. |>.2 ?_) | (refine memWf_setIface .. |>.2 ?_) | (refine memWf_setWorld .. |>.2 ?_) | apply memWf_waitFor | apply memWf_faultHere | apply memWf_faultWord | apply memWf_scanAt | apply memWf_inTurn | apply memWf_scanOutEnd | apply memWf_scanOutNow | (refine memWf_foldl _ (fun _ _ _ => ?_) _ _ ?_) | simp only [memWf_mk] | split | (intro _ _)))
@[simp] theorem memWf_scanInFault (s : State) (d : Reg) (cores : List Nat) (tick code value : Nat) (hs : MemWf s) :
    MemWf (State.scanInFault s d cores tick code value) := by
  unfold State.scanInFault; (try dsimp only); with_reducible (repeat' (first | assumption | (refine outWf_next _ |>.2 ?_) | (refine optWf_some _ |>.2 ?_) | exact optWf_none | (refine memWf_onCore .. |>.2 ?_) | (refine memWf_setHere .. |>.2 ?_) | (refine memWf_setCore .. |>.2 ?_) | (refine memWf_onRope .. |>.2 ?_) | (refine memWf_setRope .. |>.2 ?_) | (refine memWf_onIface .. |>.2 ?_) | (refine memWf_setIface .. |>.2 ?_) | (refine memWf_setWorld .. |>.2 ?_) | apply memWf_faultHere | apply memWf_clearCores | (refine memWf_foldl _ (fun _ _ _ => ?_) _ _ ?_) | simp only [memWf_mk] | split | (intro _ _)))
@[simp] theorem memWf_scanInNow (s : State) (d : Reg) (mask : BitVec 10) (cores : List Nat) (va len : Nat) (hs : MemWf s) :
    MemWf (State.scanInNow s d mask cores va len) := by
  unfold State.scanInNow; (try dsimp only); with_reducible (repeat' (first | assumption | (refine outWf_next _ |>.2 ?_) | (refine optWf_some _ |>.2 ?_) | exact optWf_none | (refine memWf_onCore .. |>.2 ?_) | (refine memWf_setHere .. |>.2 ?_) | (refine memWf_setCore .. |>.2 ?_) | (refine memWf_onRope .. |>.2 ?_) | (refine memWf_setRope .. |>.2 ?_) | (refine memWf_onIface .. |>.2 ?_) | (refine memWf_setIface .. |>.2 ?_) | (refine memWf_setWorld .. |>.2 ?_) | apply memWf_take | apply memWf_shiftIn | apply memWf_scanInFault | (refine memWf_foldl _ (fun _ _ _ => ?_) _ _ ?_) | simp only [memWf_mk] | split | (intro _ _)))
@[simp] theorem memWf_scanInFrom (s : State) (d : Reg) (mask : BitVec 10) (cores : List Nat) (o w h va : Nat) (hs : MemWf s) :
    MemWf (State.scanInFrom s d mask cores o w h va) := by
  unfold State.scanInFrom; (try dsimp only); with_reducible (repeat' (first | assumption | (refine outWf_next _ |>.2 ?_) | (refine optWf_some _ |>.2 ?_) | exact optWf_none | (refine memWf_onCore .. |>.2 ?_) | (refine memWf_setHere .. |>.2 ?_) | (refine memWf_setCore .. |>.2 ?_) | (refine memWf_onRope .. |>.2 ?_) | (refine memWf_setRope .. |>.2 ?_) | (refine memWf_onIface .. |>.2 ?_) | (refine memWf_setIface .. |>.2 ?_) | (refine memWf_setWorld .. |>.2 ?_) | apply memWf_faultHere | apply memWf_withPieces | apply memWf_haulHere | apply memWf_scanInNow | (refine memWf_foldl _ (fun _ _ _ => ?_) _ _ ?_) | simp only [memWf_mk] | split | (intro _ _)))
@[simp] theorem memWf_execKScanIn (d a b : Reg) (mask : BitVec 10) (s : State) (hs : MemWf s) :
    OutWf (execKScanIn d a b mask s) := by
  unfold execKScanIn; (try dsimp only); with_reducible (repeat' (first | assumption | (refine outWf_next _ |>.2 ?_) | (refine optWf_some _ |>.2 ?_) | exact optWf_none | (refine memWf_onCore .. |>.2 ?_) | (refine memWf_setHere .. |>.2 ?_) | (refine memWf_setCore .. |>.2 ?_) | (refine memWf_onRope .. |>.2 ?_) | (refine memWf_setRope .. |>.2 ?_) | (refine memWf_onIface .. |>.2 ?_) | (refine memWf_setIface .. |>.2 ?_) | (refine memWf_setWorld .. |>.2 ?_) | apply memWf_waitFor | apply memWf_faultHere | apply memWf_faultWord | apply memWf_scanAt | apply memWf_inTurn | apply memWf_scanInFrom | (refine memWf_foldl _ (fun _ _ _ => ?_) _ _ ?_) | simp only [memWf_mk] | split | (intro _ _)))
@[simp] theorem memWf_execKOwn (a b : Reg) (s : State) (hs : MemWf s) :
    OutWf (execKOwn a b s) := by
  unfold execKOwn; split <;> simp [*]
@[simp] theorem memWf_evictTo (s : State) (r : Rope) (e : Evict) (mask : BitVec 10) (yielded : Bool) (pc : Nat → Word) (hs : MemWf s) :
    MemWf (State.evictTo s r e mask yielded pc) := by
  unfold State.evictTo; (try dsimp only); with_reducible (repeat' (first | assumption | (refine outWf_next _ |>.2 ?_) | (refine optWf_some _ |>.2 ?_) | exact optWf_none | (refine memWf_onCore .. |>.2 ?_) | (refine memWf_setHere .. |>.2 ?_) | (refine memWf_setCore .. |>.2 ?_) | (refine memWf_onRope .. |>.2 ?_) | (refine memWf_setRope .. |>.2 ?_) | (refine memWf_onIface .. |>.2 ?_) | (refine memWf_setIface .. |>.2 ?_) | (refine memWf_setWorld .. |>.2 ?_) | apply memWf_writeFor | apply memWf_capture | (refine memWf_foldl _ (fun _ _ _ => ?_) _ _ ?_) | simp only [memWf_mk] | split | (intro _ _)))
@[simp] theorem memWf_evicted (s : State) (r : Rope) (e : Evict) (scanned : Bool) (hs : MemWf s) :
    MemWf (State.evicted s r e scanned) := by
  unfold State.evicted; (try dsimp only); with_reducible (repeat' (first | assumption | (refine outWf_next _ |>.2 ?_) | (refine optWf_some _ |>.2 ?_) | exact optWf_none | (refine memWf_onCore .. |>.2 ?_) | (refine memWf_setHere .. |>.2 ?_) | (refine memWf_setCore .. |>.2 ?_) | (refine memWf_onRope .. |>.2 ?_) | (refine memWf_setRope .. |>.2 ?_) | (refine memWf_onIface .. |>.2 ?_) | (refine memWf_setIface .. |>.2 ?_) | (refine memWf_setWorld .. |>.2 ?_) | apply memWf_complete | apply memWf_reply | apply memWf_absence | (refine memWf_foldl _ (fun _ _ _ => ?_) _ _ ?_) | simp only [memWf_mk] | split | (intro _ _)))
@[simp] theorem memWf_evictNow (s : State) (r : Rope) (e : Evict) (mask : BitVec 10) (yielded : Bool) (pc : Nat → Word) (lost : Rope → Rope) (hs : MemWf s) :
    MemWf (State.evictNow s r e mask yielded pc lost) := by
  unfold State.evictNow; (try dsimp only); with_reducible (repeat' (first | assumption | (refine outWf_next _ |>.2 ?_) | (refine optWf_some _ |>.2 ?_) | exact optWf_none | (refine memWf_onCore .. |>.2 ?_) | (refine memWf_setHere .. |>.2 ?_) | (refine memWf_setCore .. |>.2 ?_) | (refine memWf_onRope .. |>.2 ?_) | (refine memWf_setRope .. |>.2 ?_) | (refine memWf_onIface .. |>.2 ?_) | (refine memWf_setIface .. |>.2 ?_) | (refine memWf_setWorld .. |>.2 ?_) | apply memWf_complete | apply memWf_haulFor | apply memWf_evictTo | apply memWf_evicted | (refine memWf_foldl _ (fun _ _ _ => ?_) _ _ ?_) | simp only [memWf_mk] | split | (intro _ _)))
@[simp] theorem memWf_execEvYieldPoint (s : State) (hs : MemWf s) :
    OutWf (execEvYieldPoint s) := by
  unfold execEvYieldPoint; (try dsimp only); with_reducible (repeat' (first | assumption | (refine outWf_next _ |>.2 ?_) | (refine optWf_some _ |>.2 ?_) | exact optWf_none | (refine memWf_onCore .. |>.2 ?_) | (refine memWf_setHere .. |>.2 ?_) | (refine memWf_setCore .. |>.2 ?_) | (refine memWf_onRope .. |>.2 ?_) | (refine memWf_setRope .. |>.2 ?_) | (refine memWf_onIface .. |>.2 ?_) | (refine memWf_setIface .. |>.2 ?_) | (refine memWf_setWorld .. |>.2 ?_) | apply memWf_settleCores | apply memWf_evictNow | (refine memWf_foldl _ (fun _ _ _ => ?_) _ _ ?_) | simp only [memWf_mk] | split | (intro _ _)))
@[simp] theorem memWf_evictFreeze (s : State) (r : Rope) (e : Evict) (hs : MemWf s) :
    MemWf (State.evictFreeze s r e) := by
  unfold State.evictFreeze; (try dsimp only); with_reducible (repeat' (first | assumption | (refine outWf_next _ |>.2 ?_) | (refine optWf_some _ |>.2 ?_) | exact optWf_none | (refine memWf_onCore .. |>.2 ?_) | (refine memWf_setHere .. |>.2 ?_) | (refine memWf_setCore .. |>.2 ?_) | (refine memWf_onRope .. |>.2 ?_) | (refine memWf_setRope .. |>.2 ?_) | (refine memWf_onIface .. |>.2 ?_) | (refine memWf_setIface .. |>.2 ?_) | (refine memWf_setWorld .. |>.2 ?_) | apply memWf_settleCores | apply memWf_freezeNow | (refine memWf_foldl _ (fun _ _ _ => ?_) _ _ ?_) | simp only [memWf_mk] | split | (intro _ _)))
@[simp] theorem memWf_execEvEvictGraceExpiry (s : State) (hs : MemWf s) :
    OutWf (execEvEvictGraceExpiry s) := by
  unfold execEvEvictGraceExpiry; (try dsimp only); with_reducible (repeat' (first | assumption | (refine outWf_next _ |>.2 ?_) | (refine optWf_some _ |>.2 ?_) | exact optWf_none | (refine memWf_onCore .. |>.2 ?_) | (refine memWf_setHere .. |>.2 ?_) | (refine memWf_setCore .. |>.2 ?_) | (refine memWf_onRope .. |>.2 ?_) | (refine memWf_setRope .. |>.2 ?_) | (refine memWf_onIface .. |>.2 ?_) | (refine memWf_setIface .. |>.2 ?_) | (refine memWf_setWorld .. |>.2 ?_) | apply memWf_evictNow | apply memWf_evictFreeze | (refine memWf_foldl _ (fun _ _ _ => ?_) _ _ ?_) | simp only [memWf_mk] | split | (intro _ _)))
@[simp] theorem memWf_runFlight (s : State) (core : Nat) (f : Flight) (hs : MemWf s) :
    MemWf (State.runFlight s core f) := by
  unfold State.runFlight; (try dsimp only); (repeat' split) <;> simp +contextual [*, memWf_foldl]
@[simp] theorem memWf_drainTo (s : State) (core base : Nat) (upTo : Option Nat) (last n : Nat) (hs : MemWf s) :
    MemWf (State.drainTo s core base upTo last n).1 := by
  induction n generalizing s last with
  | zero => exact hs
  | succ n ih =>
    unfold State.drainTo
    split
    · exact hs
    · split
      · exact hs
      · exact ih _ _ (memWf_runFlight _ _ _ hs)
@[simp] theorem memWf_refetch (ex : Exec) (s : State) (core base tick last : Nat) (j : Job) (hex : ∀ i s, MemWf s → OutWf (ex i s)) (hs : MemWf s) :
    MemWf (State.refetch ex s core base tick last j).1 := by
  unfold State.refetch; (try dsimp only); (repeat' split) <;> simp +contextual [*, memWf_foldl]
@[simp] theorem memWf_refetchAll (ex : Exec) (s : State) (core base : Nat) (js : List Job) (hex : ∀ i s, MemWf s → OutWf (ex i s))
    (hs : MemWf s) : MemWf (State.refetchAll ex s core base js).1 := by
  unfold State.refetchAll
  dsimp only
  exact memWf_drainTo _ _ _ _ _ _ (memWf_foldl_pair _ (fun a j ha => memWf_refetch _ _ _ _ _ _ _ hex ha) _ _ hs)
@[simp] theorem memWf_refetchOn (s : State) (core base tick last : Nat) (hs : MemWf s) :
    MemWf (State.refetchOn s core base tick last).1 := by
  unfold State.refetchOn; (try dsimp only); with_reducible (repeat' (first | assumption | (refine outWf_next _ |>.2 ?_) | (refine optWf_some _ |>.2 ?_) | exact optWf_none | (refine memWf_onCore .. |>.2 ?_) | (refine memWf_setHere .. |>.2 ?_) | (refine memWf_setCore .. |>.2 ?_) | (refine memWf_onRope .. |>.2 ?_) | (refine memWf_setRope .. |>.2 ?_) | (refine memWf_onIface .. |>.2 ?_) | (refine memWf_setIface .. |>.2 ?_) | (refine memWf_setWorld .. |>.2 ?_) | apply memWf_drainTo | (refine memWf_foldl _ (fun _ _ _ => ?_) _ _ ?_) | simp only [memWf_mk] | split | (intro _ _)))
@[simp] theorem memWf_endByError (s : State) (e : ErrorReport) (code : Nat) (hs : MemWf s) :
    MemWf (State.endByError s e code) := by
  unfold State.endByError
  exact memWf_endFaulted _ _ _ _ (memWf_noteFault _ _ _ _ (memWf_finishAccesses _ _ hs))
@[simp] theorem memWf_replayCore (ex : Exec) (s : State) (core : Nat) (hex : ∀ i s, MemWf s → OutWf (ex i s)) (hs : MemWf s) :
    MemWf (State.replayCore ex s core).1 := by
  unfold State.replayCore; (try dsimp only); with_reducible (repeat' (first | assumption | (refine outWf_next _ |>.2 ?_) | (refine optWf_some _ |>.2 ?_) | exact optWf_none | (refine memWf_onCore .. |>.2 ?_) | (refine memWf_setHere .. |>.2 ?_) | (refine memWf_setCore .. |>.2 ?_) | (refine memWf_onRope .. |>.2 ?_) | (refine memWf_setRope .. |>.2 ?_) | (refine memWf_onIface .. |>.2 ?_) | (refine memWf_setIface .. |>.2 ?_) | (refine memWf_setWorld .. |>.2 ?_) | (refine memWf_Exec.run _ _ _ hex ?_) | (refine memWf_each _ _ _ ?_ fun _ _ _ => ?_) | apply memWf_refetch | apply memWf_refetchAll | apply memWf_restore | (refine memWf_foldl _ (fun _ _ _ => ?_) _ _ ?_) | simp only [memWf_mk] | split | (intro _ _)))
theorem memWf_mostOf (s : State) (cores : List Nat) (f : State → Nat → State × Nat) (hs : MemWf s)
    (hf : ∀ t c, MemWf t → MemWf (f t c).1) : MemWf (s.mostOf cores f).1 := by
  unfold State.mostOf
  exact memWf_foldl_pair (fun (a : State × Nat) c => ((f a.1 c).1, max a.2 (f a.1 c).2)) (fun a c ha => hf a.1 c ha) cores (s, 0) hs
@[simp] theorem memWf_catchUpCore (s : State) (core : Nat) (hs : MemWf s) :
    MemWf (State.catchUpCore s core).1 := by
  unfold State.catchUpCore; (try dsimp only); with_reducible (repeat' (first | assumption | (refine outWf_next _ |>.2 ?_) | (refine optWf_some _ |>.2 ?_) | exact optWf_none | (refine memWf_onCore .. |>.2 ?_) | (refine memWf_setHere .. |>.2 ?_) | (refine memWf_setCore .. |>.2 ?_) | (refine memWf_onRope .. |>.2 ?_) | (refine memWf_setRope .. |>.2 ?_) | (refine memWf_onIface .. |>.2 ?_) | (refine memWf_setIface .. |>.2 ?_) | (refine memWf_setWorld .. |>.2 ?_) | (refine memWf_foldl _ (fun _ _ _ => ?_) _ _ ?_) | simp only [memWf_mk] | split | (intro _ _)))
@[simp] theorem memWf_replayTicks (s : State) (cores : List Nat) (n : Nat) (hs : MemWf s) :
    MemWf (State.replayTicks s cores n) := by
  unfold State.replayTicks; (try dsimp only); with_reducible (repeat' (first | assumption | (refine outWf_next _ |>.2 ?_) | (refine optWf_some _ |>.2 ?_) | exact optWf_none | (refine memWf_onCore .. |>.2 ?_) | (refine memWf_setHere .. |>.2 ?_) | (refine memWf_setCore .. |>.2 ?_) | (refine memWf_onRope .. |>.2 ?_) | (refine memWf_setRope .. |>.2 ?_) | (refine memWf_onIface .. |>.2 ?_) | (refine memWf_setIface .. |>.2 ?_) | (refine memWf_setWorld .. |>.2 ?_) | (refine memWf_foldl _ (fun _ _ _ => ?_) _ _ ?_) | simp only [memWf_mk] | split | (intro _ _)))
@[simp] theorem memWf_taint (s : State) (r : Rope) (base : Nat) (hs : MemWf s) :
    MemWf (State.taint s r base) := by
  unfold State.taint; (try dsimp only); (repeat' split) <;> simp +contextual [*, memWf_foldl]
@[simp] theorem memWf_relabel (s : State) (r : Rope) (x : Cancel) (hs : MemWf s) :
    MemWf (State.relabel s r x) := by
  unfold State.relabel; (try dsimp only); (repeat' split) <;> simp +contextual [*, memWf_foldl]
@[simp] theorem memWf_replayOn (s : State) (r : Rope) (x : Cancel) (last gone : Nat) (hs : MemWf s) : MemWf (s.replayOn r x last gone) := by
  unfold State.replayOn
  dsimp only
  split
  · exact (memWf_onRope _ _ _).2 (memWf_replayTicks _ _ _ (memWf_mostOf _ _ _ hs fun t c ht => memWf_refetchOn _ _ _ _ _ ht))
  · exact (memWf_onRope _ _ _).2 (memWf_replayTicks _ _ _ (memWf_mostOf _ _ _ (memWf_mostOf _ _ _ hs fun t c ht => memWf_refetchOn _ _ _ _ _ ht)
      fun t c ht => memWf_catchUpCore _ _ ht))
@[simp] theorem memWf_replayNow (ex : Exec) (s : State) (r : Rope) (x : Cancel) (hex : ∀ i s, MemWf s → OutWf (ex i s)) (hs : MemWf s) :
    MemWf (State.replayNow ex s r x) := by
  unfold State.replayNow
  dsimp only
  split
  · exact memWf_endByError _ _ _ (memWf_relabel _ _ _ ((memWf_setRope _ _).2 hs))
  · exact memWf_replayOn _ _ _ _ _ ((memWf_onRope _ _ _).2 (memWf_mostOf _ _ _ (memWf_replayTicks _ _ _ (memWf_taint _ _ _ hs))
      fun t c ht => memWf_replayCore _ _ _ hex ht))
@[simp] theorem memWf_execEvPhaseReplay (e : ErrorReport) (s0 : State) (hs0 : MemWf s0) :
    OutWf (execEvPhaseReplay e s0) := by
  unfold execEvPhaseReplay; (try dsimp only); with_reducible (repeat' (first | assumption | (refine outWf_next _ |>.2 ?_) | (refine optWf_some _ |>.2 ?_) | exact optWf_none | (refine memWf_onCore .. |>.2 ?_) | (refine memWf_setHere .. |>.2 ?_) | (refine memWf_setCore .. |>.2 ?_) | (refine memWf_onRope .. |>.2 ?_) | (refine memWf_setRope .. |>.2 ?_) | (refine memWf_onIface .. |>.2 ?_) | (refine memWf_setIface .. |>.2 ?_) | (refine memWf_setWorld .. |>.2 ?_) | apply memWf_logError | apply memWf_endByError | (refine memWf_foldl _ (fun _ _ _ => ?_) _ _ ?_) | simp only [memWf_mk] | split | (intro _ _)))
@[simp] theorem memWf_holdTick (s : State) (r : Rope) (cs : List (Nat × Bool)) (hs : MemWf s) :
    MemWf (State.holdTick s r cs) := by
  unfold State.holdTick; (try dsimp only); with_reducible (repeat' (first | assumption | (refine outWf_next _ |>.2 ?_) | (refine optWf_some _ |>.2 ?_) | exact optWf_none | (refine memWf_onCore .. |>.2 ?_) | (refine memWf_setHere .. |>.2 ?_) | (refine memWf_setCore .. |>.2 ?_) | (refine memWf_onRope .. |>.2 ?_) | (refine memWf_setRope .. |>.2 ?_) | (refine memWf_onIface .. |>.2 ?_) | (refine memWf_setIface .. |>.2 ?_) | (refine memWf_setWorld .. |>.2 ?_) | (refine memWf_foldl _ (fun _ _ _ => ?_) _ _ ?_) | simp only [memWf_mk] | split | (intro _ _)))
@[simp] theorem memWf_lackTick (s : State) (r : Rope) (hs : MemWf s) :
    MemWf (State.lackTick s r) := by
  unfold State.lackTick; (try dsimp only); with_reducible (repeat' (first | assumption | (refine outWf_next _ |>.2 ?_) | (refine optWf_some _ |>.2 ?_) | exact optWf_none | (refine memWf_onCore .. |>.2 ?_) | (refine memWf_setHere .. |>.2 ?_) | (refine memWf_setCore .. |>.2 ?_) | (refine memWf_onRope .. |>.2 ?_) | (refine memWf_setRope .. |>.2 ?_) | (refine memWf_onIface .. |>.2 ?_) | (refine memWf_setIface .. |>.2 ?_) | (refine memWf_setWorld .. |>.2 ?_) | (refine memWf_foldl _ (fun _ _ _ => ?_) _ _ ?_) | simp only [memWf_mk] | split | (intro _ _)))
@[simp] theorem memWf_settleLack (s : State) (r : Rope) (hs : MemWf s) :
    MemWf (State.settleLack s r) := by
  unfold State.settleLack; (try dsimp only); with_reducible (repeat' (first | assumption | (refine outWf_next _ |>.2 ?_) | (refine optWf_some _ |>.2 ?_) | exact optWf_none | (refine memWf_onCore .. |>.2 ?_) | (refine memWf_setHere .. |>.2 ?_) | (refine memWf_setCore .. |>.2 ?_) | (refine memWf_onRope .. |>.2 ?_) | (refine memWf_setRope .. |>.2 ?_) | (refine memWf_onIface .. |>.2 ?_) | (refine memWf_setIface .. |>.2 ?_) | (refine memWf_setWorld .. |>.2 ?_) | (refine memWf_foldl _ (fun _ _ _ => ?_) _ _ ?_) | simp only [memWf_mk] | split | (intro _ _)))
@[simp] theorem memWf_startClock (s : State) (r : Rope) (hs : MemWf s) :
    MemWf (State.startClock s r) := by
  unfold State.startClock; (try dsimp only); with_reducible (repeat' (first | assumption | (refine outWf_next _ |>.2 ?_) | (refine optWf_some _ |>.2 ?_) | exact optWf_none | (refine memWf_onCore .. |>.2 ?_) | (refine memWf_setHere .. |>.2 ?_) | (refine memWf_setCore .. |>.2 ?_) | (refine memWf_onRope .. |>.2 ?_) | (refine memWf_setRope .. |>.2 ?_) | (refine memWf_onIface .. |>.2 ?_) | (refine memWf_setIface .. |>.2 ?_) | (refine memWf_setWorld .. |>.2 ?_) | apply memWf_forgetPhases | (refine memWf_foldl _ (fun _ _ _ => ?_) _ _ ?_) | simp only [memWf_mk] | split | (intro _ _)))
@[simp] theorem memWf_each (s : State) (cores : List Nat) (f : State → Nat → State) (hs : MemWf s) (hf : ∀ s a, MemWf s → MemWf (f s a)) :
    MemWf (State.each s cores f) := by
  unfold State.each; simp +contextual [*, memWf_foldl]
@[simp] theorem memWf_coreEvent (ex : Exec) (i : Instr) (s : State) (core : Nat) (hex : ∀ i s, MemWf s → OutWf (ex i s)) (hs : MemWf s) :
    MemWf (State.coreEvent ex i s core) := by
  unfold State.coreEvent
  exact memWf_Exec.run _ _ _ hex (hs.congr rfl rfl)
@[simp] theorem memWf_engines (ex : Exec) (s : State) (r : Rope) (cores : List Nat) (tick : Nat) (hex : ∀ i s, MemWf s → OutWf (ex i s)) (hs : MemWf s) :
    MemWf (State.engines ex s r cores tick) := by
  unfold State.engines; (try dsimp only); with_reducible (repeat' (first | assumption | (refine outWf_next _ |>.2 ?_) | (refine optWf_some _ |>.2 ?_) | exact optWf_none | (refine memWf_onCore .. |>.2 ?_) | (refine memWf_setHere .. |>.2 ?_) | (refine memWf_setCore .. |>.2 ?_) | (refine memWf_onRope .. |>.2 ?_) | (refine memWf_setRope .. |>.2 ?_) | (refine memWf_onIface .. |>.2 ?_) | (refine memWf_setIface .. |>.2 ?_) | (refine memWf_setWorld .. |>.2 ?_) | (refine memWf_Exec.run _ _ _ hex ?_) | (refine memWf_each _ _ _ ?_ fun _ _ _ => ?_) | apply memWf_noteBase | apply memWf_performDue | apply memWf_stepsDue | apply memWf_gives | apply memWf_unpark | apply memWf_issues | apply memWf_conflicts | apply memWf_each | apply memWf_coreEvent | (refine memWf_foldl _ (fun _ _ _ => ?_) _ _ ?_) | simp only [memWf_mk] | split | (intro _ _)))
@[simp] theorem memWf_joins (ex : Exec) (s : State) (r : Rope) (cores : List Nat) (tick : Nat) (hex : ∀ i s, MemWf s → OutWf (ex i s)) (hs : MemWf s) :
    MemWf (State.joins ex s r cores tick) := by
  unfold State.joins; (try dsimp only); with_reducible (repeat' (first | assumption | (refine outWf_next _ |>.2 ?_) | (refine optWf_some _ |>.2 ?_) | exact optWf_none | (refine memWf_onCore .. |>.2 ?_) | (refine memWf_setHere .. |>.2 ?_) | (refine memWf_setCore .. |>.2 ?_) | (refine memWf_onRope .. |>.2 ?_) | (refine memWf_setRope .. |>.2 ?_) | (refine memWf_onIface .. |>.2 ?_) | (refine memWf_setIface .. |>.2 ?_) | (refine memWf_setWorld .. |>.2 ?_) | (refine memWf_Exec.run _ _ _ hex ?_) | (refine memWf_each _ _ _ ?_ fun _ _ _ => ?_) | apply memWf_alignCheck | apply memWf_arrive | apply memWf_haltCore | apply memWf_each | (refine memWf_foldl _ (fun _ _ _ => ?_) _ _ ?_) | simp only [memWf_mk] | split | (intro _ _)))
@[simp] theorem memWf_overfull (s : State) (cores : List Nat) (hs : MemWf s) :
    MemWf (State.overfull s cores) := by
  unfold State.overfull; (try dsimp only); with_reducible (repeat' (first | assumption | (refine outWf_next _ |>.2 ?_) | (refine optWf_some _ |>.2 ?_) | exact optWf_none | (refine memWf_onCore .. |>.2 ?_) | (refine memWf_setHere .. |>.2 ?_) | (refine memWf_onRope .. |>.2 ?_) | (refine memWf_setRope .. |>.2 ?_) | (refine memWf_onIface .. |>.2 ?_) | apply memWf_unreplayable | (refine memWf_foldl _ (fun _ _ _ => ?_) _ _ ?_) | simp only [memWf_mk] | split))
@[simp] theorem memWf_runTick (ex : Exec) (s : State) (r : Rope) (hex : ∀ i s, MemWf s → OutWf (ex i s)) (hs : MemWf s) :
    MemWf (State.runTick ex s r) := by
  unfold State.runTick
  extract_lets cores s0 s1
  have h1 : MemWf s1 := memWf_overfull _ _ (memWf_joins _ _ _ _ _ hex (memWf_engines _ _ _ _ _ hex (memWf_alignCheck _ _ _ hs)))
  split
  · exact h1
  · split
    · exact memWf_Exec.run _ _ _ hex (memWf_beginPhases _ _ _ ((memWf_setRope _ _).2 h1))
    · exact h1
@[simp] theorem memWf_afterChecks (ex : Exec) (s : State) (r : Rope) (ahead : Bool) (hex : ∀ i s, MemWf s → OutWf (ex i s)) (hs : MemWf s) :
    MemWf (State.afterChecks ex s r ahead) := by
  unfold State.afterChecks; (try dsimp only); with_reducible (repeat' (first | assumption | (refine outWf_next _ |>.2 ?_) | (refine optWf_some _ |>.2 ?_) | exact optWf_none | (refine memWf_onCore .. |>.2 ?_) | (refine memWf_setHere .. |>.2 ?_) | (refine memWf_setCore .. |>.2 ?_) | (refine memWf_onRope .. |>.2 ?_) | (refine memWf_setRope .. |>.2 ?_) | (refine memWf_onIface .. |>.2 ?_) | (refine memWf_setIface .. |>.2 ?_) | (refine memWf_setWorld .. |>.2 ?_) | (refine memWf_Exec.run _ _ _ hex ?_) | (refine memWf_each _ _ _ ?_ fun _ _ _ => ?_) | apply memWf_serveDue | apply memWf_holdTick | apply memWf_lackTick | apply memWf_settleLack | apply memWf_startClock | apply memWf_runTick | (refine memWf_foldl _ (fun _ _ _ => ?_) _ _ ?_) | simp only [memWf_mk] | split | (intro _ _)))
@[simp] theorem memWf_ropeGoes (ex : Exec) (s : State) (r : Rope) (ahead : Bool) (hex : ∀ i s, MemWf s → OutWf (ex i s)) (hs : MemWf s) :
    MemWf (State.ropeGoes ex s r ahead) := by
  unfold State.ropeGoes; (try dsimp only); with_reducible (repeat' (first | assumption | (refine outWf_next _ |>.2 ?_) | (refine optWf_some _ |>.2 ?_) | exact optWf_none | (refine memWf_onCore .. |>.2 ?_) | (refine memWf_setHere .. |>.2 ?_) | (refine memWf_setCore .. |>.2 ?_) | (refine memWf_onRope .. |>.2 ?_) | (refine memWf_setRope .. |>.2 ?_) | (refine memWf_onIface .. |>.2 ?_) | (refine memWf_setIface .. |>.2 ?_) | (refine memWf_setWorld .. |>.2 ?_) | (refine memWf_Exec.run _ _ _ hex ?_) | (refine memWf_each _ _ _ ?_ fun _ _ _ => ?_) | apply memWf_replayOn | apply memWf_replayNow | apply memWf_afterChecks | (refine memWf_foldl _ (fun _ _ _ => ?_) _ _ ?_) | simp only [memWf_mk] | split | (intro _ _)))
@[simp] theorem memWf_ropeTick (ex : Exec) (s0 : State) (key : RopeKey) (ahead : Bool) (hex : ∀ i s, MemWf s → OutWf (ex i s)) (hs0 : MemWf s0) :
    MemWf (State.ropeTick ex s0 key ahead) := by
  unfold State.ropeTick; (try dsimp only); with_reducible (repeat' (first | assumption | (refine outWf_next _ |>.2 ?_) | (refine optWf_some _ |>.2 ?_) | exact optWf_none | (refine memWf_onCore .. |>.2 ?_) | (refine memWf_setHere .. |>.2 ?_) | (refine memWf_setCore .. |>.2 ?_) | (refine memWf_onRope .. |>.2 ?_) | (refine memWf_setRope .. |>.2 ?_) | (refine memWf_onIface .. |>.2 ?_) | (refine memWf_setIface .. |>.2 ?_) | (refine memWf_setWorld .. |>.2 ?_) | (refine memWf_Exec.run _ _ _ hex ?_) | (refine memWf_each _ _ _ ?_ fun _ _ _ => ?_) | apply memWf_settleEnd | apply memWf_ropeGoes | (refine memWf_foldl _ (fun _ _ _ => ?_) _ _ ?_) | simp only [memWf_mk] | split | (intro _ _)))
@[simp] theorem memWf_accept (s : State) (c : Cmd) (hs : MemWf s) :
    MemWf (State.accept s c) := by
  unfold State.accept; (try dsimp only); with_reducible (repeat' (first | assumption | (refine outWf_next _ |>.2 ?_) | (refine optWf_some _ |>.2 ?_) | exact optWf_none | (refine memWf_onCore .. |>.2 ?_) | (refine memWf_setHere .. |>.2 ?_) | (refine memWf_setCore .. |>.2 ?_) | (refine memWf_onRope .. |>.2 ?_) | (refine memWf_setRope .. |>.2 ?_) | (refine memWf_onIface .. |>.2 ?_) | (refine memWf_setIface .. |>.2 ?_) | (refine memWf_setWorld .. |>.2 ?_) | apply memWf_complete | (refine memWf_foldl _ (fun _ _ _ => ?_) _ _ ?_) | simp only [memWf_mk] | split | (intro _ _)))
@[simp] theorem memWf_setRotation (s : State) (cls : Nat) (r : Rotation) (hs : MemWf s) :
    MemWf (State.setRotation s cls r) := by
  unfold State.setRotation; simp [*]
@[simp] theorem memWf_markStarted (s : State) (c : Cmd) (hs : MemWf s) :
    MemWf (State.markStarted s c) := by
  unfold State.markStarted; simp [*]
@[simp] theorem memWf_effectOf (s : State) (c : Cmd) (body : State → Option State) (hs : MemWf s) (hbody : ∀ s, MemWf s → OptWf (body s)) :
    MemWf (State.effectOf s c body) := by
  unfold State.effectOf
  split
  · rename_i t e; exact hbody _ (memWf_onPending _ _ _ hs) t e
  · exact hs
@[simp] theorem memWf_startNow (s : State) (c : Cmd) (body : State → Option State) (hs : MemWf s) (hbody : ∀ s, MemWf s → OptWf (body s)) :
    MemWf (State.startNow s c body) := by
  unfold State.startNow; dsimp only; (repeat' split) <;> simp +contextual [*, memWf_foldl]
@[simp] theorem memWf_advance (s : State) (c : Cmd) (op : Nat) (body : State → Option State) (hs : MemWf s) (hbody : ∀ s, MemWf s → OptWf (body s)) :
    OutWf (State.advance s c op body) := by
  unfold State.advance; (repeat' split) <;> simp_all
@[simp] theorem memWf_beginSlots (s : State) (hs : MemWf s) :
    MemWf (State.beginSlots s) := by
  unfold State.beginSlots; (try dsimp only); (repeat' split) <;> simp +contextual [*, memWf_foldl]
@[simp] theorem memWf_startReserved (s : State) (c : Cmd) (body : State → Option State) (hs : MemWf s) (hbody : ∀ s, MemWf s → OptWf (body s)) :
    OutWf (State.startReserved s c body) := by
  unfold State.startReserved; (repeat' split) <;> simp_all
@[simp] theorem memWf_execEvEventWaitTimeout (c : Cmd) (s : State) (hs : MemWf s) :
    OutWf (execEvEventWaitTimeout c s) := by
  unfold execEvEventWaitTimeout; (repeat' split) <;> simp [*]
@[simp] theorem memWf_consume (s : State) (n : Nat) (x0 : Nat) (hs : MemWf s) :
    MemWf (State.consume s n x0) := by
  induction x0 generalizing s with
  | zero => exact hs
  | succ n ih =>
    unfold State.consume
    dsimp only
    repeat' split
    · exact hs
    · exact ih _ (memWf_accept _ _ hs)
    · exact hs
    · exact hs
@[simp] theorem memWf_drain (s : State) (n : Nat) (hs : MemWf s) :
    MemWf (State.drain s n) := by
  unfold State.drain; simp [*]
@[simp] theorem memWf_examine (s : State) (n : Nat) (hs : MemWf s) :
    MemWf (State.examine s n) := by
  unfold State.examine; dsimp only; (repeat' split) <;> simp +contextual [*, memWf_foldl]
@[simp] theorem memWf_ring (s : State) (n v : Nat) (hs : MemWf s) :
    MemWf (State.ring s n v) := by
  unfold State.ring; dsimp only; (repeat' split) <;> simp +contextual [*, memWf_foldl]
@[simp] theorem memWf_execEvCwpWrite (d : Doorbell) (s : State) (hs : MemWf s) :
    OutWf (execEvCwpWrite d s) := by
  unfold execEvCwpWrite; split <;> simp [*]
@[simp] theorem memWf_execEvSrpWrite (d : Doorbell) (s : State) (hs : MemWf s) :
    OutWf (execEvSrpWrite d s) := by
  unfold execEvSrpWrite; dsimp only; (repeat' split) <;> simp +contextual [*, memWf_foldl]
@[simp] theorem memWf_execEvDoorbellOtherWrite (d : Doorbell) (s : State) (hs : MemWf s) :
    OutWf (execEvDoorbellOtherWrite d s) := by
  unfold execEvDoorbellOtherWrite; simp [*]
@[simp] theorem memWf_execEvSlotRecheck (iface : Nat) (s : State) (hs : MemWf s) :
    OutWf (execEvSlotRecheck iface s) := by
  unfold execEvSlotRecheck; split <;> simp [*]
@[simp] theorem memWf_answer (s : State) (r : HostReply) (hs : MemWf s) :
    MemWf (State.answer s r) := by
  unfold State.answer; simp [*]
@[simp] theorem memWf_outState (s : State) (x0 : Out) (hs : MemWf s) (hx0 : OutWf x0) :
    MemWf (outState s x0) := by
  cases x0 with
  | next t => exact hx0 t rfl
  | fault _ => exact hs
  | refused _ => exact hs
@[simp] theorem memWf_forget (s : State) (i : Instr) (hs : MemWf s) :
    MemWf (State.forget s i) := by
  unfold State.forget; (try dsimp only); with_reducible (repeat' (first | assumption | (refine outWf_next _ |>.2 ?_) | (refine optWf_some _ |>.2 ?_) | exact optWf_none | (refine memWf_onCore .. |>.2 ?_) | (refine memWf_setHere .. |>.2 ?_) | (refine memWf_setCore .. |>.2 ?_) | (refine memWf_onRope .. |>.2 ?_) | (refine memWf_setRope .. |>.2 ?_) | (refine memWf_onIface .. |>.2 ?_) | (refine memWf_setIface .. |>.2 ?_) | (refine memWf_setWorld .. |>.2 ?_) | (refine memWf_foldl _ (fun _ _ _ => ?_) _ _ ?_) | simp only [memWf_mk] | split | (intro _ _)))
@[simp] theorem memWf_haulRequest (s : State) (i : Instr) (units : List Nat) (go : State → State)
    (hs : MemWf s) (hgo : ∀ t, MemWf t → MemWf (go t)) : MemWf (s.haulRequest i units go) := by
  unfold State.haulRequest
  dsimp only
  split
  · exact hgo _ (memWf_forget _ i (memWf_moveSome _ _ _ hs))
  · exact memWf_forget _ i (memWf_moveSome _ _ _ hs)
@[simp] theorem memWf_staleRequest (s : State) (w : Nat) (i : Instr) (hs : MemWf s) :
    MemWf (State.staleRequest s w i) := by
  unfold State.staleRequest; (try dsimp only); with_reducible (repeat' (first | assumption | (refine outWf_next _ |>.2 ?_) | (refine optWf_some _ |>.2 ?_) | exact optWf_none | (refine memWf_onCore .. |>.2 ?_) | (refine memWf_setHere .. |>.2 ?_) | (refine memWf_setCore .. |>.2 ?_) | (refine memWf_onRope .. |>.2 ?_) | (refine memWf_setRope .. |>.2 ?_) | (refine memWf_onIface .. |>.2 ?_) | (refine memWf_setIface .. |>.2 ?_) | (refine memWf_setWorld .. |>.2 ?_) | apply memWf_reply | apply memWf_amo | apply memWf_answer | apply memWf_forget | (refine memWf_foldl _ (fun _ _ _ => ?_) _ _ ?_) | simp only [memWf_mk] | split | (intro _ _)))
@[simp] theorem memWf_writeWindow (s : State) (o : RemoteOp) (hs : MemWf s) :
    MemWf (State.writeWindow s o) := by
  unfold State.writeWindow; dsimp only; (repeat' split) <;> simp +contextual [*, memWf_foldl]
@[simp] theorem memWf_remoteGlobal (s : State) (o : RemoteOp) (hs : MemWf s) :
    MemWf (State.remoteGlobal s o) := by
  unfold State.remoteGlobal; (try dsimp only); with_reducible (repeat' (first | assumption | (refine outWf_next _ |>.2 ?_) | (refine optWf_some _ |>.2 ?_) | exact optWf_none | (refine memWf_onCore .. |>.2 ?_) | (refine memWf_setHere .. |>.2 ?_) | (refine memWf_setCore .. |>.2 ?_) | (refine memWf_onRope .. |>.2 ?_) | (refine memWf_setRope .. |>.2 ?_) | (refine memWf_onIface .. |>.2 ?_) | (refine memWf_setIface .. |>.2 ?_) | (refine memWf_setWorld .. |>.2 ?_) | apply memWf_writeFor | apply memWf_answer | apply memWf_forget | apply memWf_haulRequest | (refine memWf_foldl _ (fun _ _ _ => ?_) _ _ ?_) | simp only [memWf_mk] | split | (intro _ _)))
@[simp] theorem memWf_execEvRemoteOperation (o : RemoteOp) (s : State) (hs : MemWf s) :
    OutWf (execEvRemoteOperation o s) := by
  unfold execEvRemoteOperation; (try dsimp only); with_reducible (repeat' (first | assumption | (refine outWf_next _ |>.2 ?_) | (refine optWf_some _ |>.2 ?_) | exact optWf_none | (refine memWf_onCore .. |>.2 ?_) | (refine memWf_setHere .. |>.2 ?_) | (refine memWf_setCore .. |>.2 ?_) | (refine memWf_onRope .. |>.2 ?_) | (refine memWf_setRope .. |>.2 ?_) | (refine memWf_onIface .. |>.2 ?_) | (refine memWf_setIface .. |>.2 ?_) | (refine memWf_setWorld .. |>.2 ?_) | apply memWf_answer | apply memWf_forget | apply memWf_writeWindow | apply memWf_remoteGlobal | (refine memWf_foldl _ (fun _ _ _ => ?_) _ _ ?_) | simp only [memWf_mk] | split | (intro _ _)))
@[simp] theorem memWf_execEvResponseWrite (iface : Nat) (s : State) (hs : MemWf s) :
    OutWf (execEvResponseWrite iface s) := by
  unfold execEvResponseWrite; dsimp only; (repeat' split) <;> simp +contextual [*, memWf_foldl]
@[simp] theorem memWf_levelSteps (s : State) (dies : List Nat) (hs : MemWf s) :
    MemWf (State.levelSteps s dies) := by
  unfold State.levelSteps; simp [*]
@[simp] theorem memWf_reserveSlots (s : State) (key : RopeKey) (o k : Nat) (hs : MemWf s) :
    MemWf (State.reserveSlots s key o k) := by
  unfold State.reserveSlots; simp [*]
@[simp] theorem memWf_takeRegions (s : State) (r : Rope) (hs : MemWf s) :
    MemWf (State.takeRegions s r) := by
  unfold State.takeRegions; simp [*]
@[simp] theorem memWf_takeCores (s : State) (r : Rope) (hs : MemWf s) :
    MemWf (State.takeCores s r) := by
  unfold State.takeCores; simp +contextual [*, memWf_foldl]
@[simp] theorem memWf_addRope (s : State) (r : Rope) (hs : MemWf s) :
    MemWf (State.addRope s r) := by
  have h1 : MemWf ((State.takeRegions { s with
      ropes := s.ropes ++ [r], allocNext := s.allocNext + 1,
      classHolders := r.classes.foldl (fun m c => insert m c r.key) s.classHolders } r).takeCores r) :=
    memWf_takeCores _ _ (memWf_takeRegions _ _ hs)
  unfold State.addRope
  dsimp only
  split
  · exact memWf_reserveSlots _ _ _ _ h1
  · split
    · exact memWf_levelSteps _ _ h1
    · exact h1
@[simp] theorem memWf_ropeAlloc (s : State) (c : Cmd) (hs : MemWf s) :
    MemWf (State.ropeAlloc s c) := by
  unfold State.ropeAlloc
  split
  · exact memWf_complete _ _ _ _ hs
  · split
    · exact memWf_complete _ _ _ _ (memWf_addRope _ _ hs)
    · exact memWf_complete _ _ _ _ hs
@[simp] theorem memWf_execCmdRopeAlloc (c : Cmd) (s : State) (hs : MemWf s) :
    OutWf (execCmdRopeAlloc c s) := by
  unfold execCmdRopeAlloc; (repeat' split) <;> simp_all
@[simp] theorem memWf_dropRope (s : State) (r : Rope) (hs : MemWf s) :
    MemWf (State.dropRope s r) := by
  unfold State.dropRope; simp +contextual [*, memWf_foldl]
@[simp] theorem memWf_notify (s : State) (r : Rope) (hs : MemWf s) :
    MemWf (State.notify s r) := by
  unfold State.notify; simp [*]
@[simp] theorem memWf_ropeFree (s : State) (c : Cmd) (hs : MemWf s) :
    OptWf (State.ropeFree s c) := by
  unfold State.ropeFree
  repeat' split
  all_goals first
    | exact optWf_none
    | exact (optWf_some _).2 (memWf_complete _ _ _ _ hs)
    | exact (optWf_some _).2 (memWf_complete _ _ _ _ (memWf_dropRope _ _ (memWf_notify _ _ hs)))
@[simp] theorem memWf_execCmdRopeFree (c : Cmd) (s : State) (hs : MemWf s) :
    OutWf (execCmdRopeFree c s) := by
  unfold execCmdRopeFree; (repeat' split) <;> simp_all
@[simp] theorem memWf_execEvRopeFreeQuietExpiry (rope : RopeKey) (s : State) (hs : MemWf s) :
    OutWf (execEvRopeFreeQuietExpiry rope s) := by
  unfold execEvRopeFreeQuietExpiry; (repeat' split) <;> simp_all
@[simp] theorem memWf_load_ (s : State) (c : Cmd) (hs : MemWf s) :
    MemWf (State.load_ s c) := by
  unfold State.load_; (try dsimp only); with_reducible (repeat' (first | assumption | (refine outWf_next _ |>.2 ?_) | (refine optWf_some _ |>.2 ?_) | exact optWf_none | (refine memWf_onCore .. |>.2 ?_) | (refine memWf_setHere .. |>.2 ?_) | (refine memWf_setCore .. |>.2 ?_) | (refine memWf_onRope .. |>.2 ?_) | (refine memWf_setRope .. |>.2 ?_) | (refine memWf_onIface .. |>.2 ?_) | (refine memWf_setIface .. |>.2 ?_) | (refine memWf_setWorld .. |>.2 ?_) | apply memWf_complete | apply memWf_haulFor | (refine memWf_foldl _ (fun _ _ _ => ?_) _ _ ?_) | simp only [memWf_mk] | split | (intro _ _)))
@[simp] theorem memWf_execCmdLoad (c : Cmd) (s : State) (hs : MemWf s) :
    OutWf (execCmdLoad c s) := by
  unfold execCmdLoad; (repeat' split) <;> simp_all
@[simp] theorem memWf_launch (s : State) (c : Cmd) (hs : MemWf s) :
    MemWf (State.launch s c) := by
  unfold State.launch; dsimp only; (repeat' split) <;> simp +contextual [*, memWf_foldl]
@[simp] theorem memWf_execCmdLaunch (c : Cmd) (s : State) (hs : MemWf s) :
    OutWf (execCmdLaunch c s) := by
  unfold execCmdLaunch; (repeat' split) <;> simp_all
@[simp] theorem memWf_loadRow_ (s : State) (r : Rope) (k : Nat) (l : Launch) (img : Image) (hs : MemWf s) :
    MemWf (State.loadRow_ s r k l img) := by
  unfold State.loadRow_; (try dsimp only); with_reducible (repeat' (first | assumption | (refine outWf_next _ |>.2 ?_) | (refine optWf_some _ |>.2 ?_) | exact optWf_none | (refine memWf_onCore .. |>.2 ?_) | (refine memWf_setHere .. |>.2 ?_) | (refine memWf_setCore .. |>.2 ?_) | (refine memWf_onRope .. |>.2 ?_) | (refine memWf_setRope .. |>.2 ?_) | (refine memWf_onIface .. |>.2 ?_) | (refine memWf_setIface .. |>.2 ?_) | (refine memWf_setWorld .. |>.2 ?_) | (refine memWf_foldl _ (fun _ _ _ => ?_) _ _ ?_) | simp only [memWf_mk] | split | (intro _ _)))
@[simp] theorem memWf_execEvRowLoad (rope : RopeKey) (row : Nat) (s : State) (hs : MemWf s) :
    OutWf (execEvRowLoad rope row s) := by
  unfold execEvRowLoad; (repeat' split) <;> simp [*]
@[simp] theorem memWf_convertSlots (s : State) (c : Cmd) (w va n : Nat) (want : Want) (hs : MemWf s) :
    OptWf (State.convertSlots s c w va n want) := by
  unfold State.convertSlots; (try dsimp only); with_reducible (repeat' (first | assumption | (refine outWf_next _ |>.2 ?_) | (refine optWf_some _ |>.2 ?_) | exact optWf_none | (refine memWf_onCore .. |>.2 ?_) | (refine memWf_setHere .. |>.2 ?_) | (refine memWf_setCore .. |>.2 ?_) | (refine memWf_onRope .. |>.2 ?_) | (refine memWf_setRope .. |>.2 ?_) | (refine memWf_onIface .. |>.2 ?_) | (refine memWf_setIface .. |>.2 ?_) | (refine memWf_setWorld .. |>.2 ?_) | (refine memWf_foldl _ (fun _ _ _ => ?_) _ _ ?_) | simp only [memWf_mk] | split | (intro _ _)))
@[simp] theorem memWf_evictStart (s : State) (c : Cmd) (hs : MemWf s) :
    OptWf (State.evictStart s c) := by
  unfold State.evictStart
  repeat' split
  · exact (optWf_some _).2 (memWf_complete _ _ _ _ hs)
  · exact (optWf_some _).2 (memWf_complete _ _ _ _ hs)
  · exact (optWf_some _).2 (memWf_complete _ _ _ _ hs)
  · exact (memWf_convertSlots _ _ _ _ _ _ hs).map fun t ht => (memWf_onRope _ _ _).2 ht
@[simp] theorem memWf_execCmdEvict (c : Cmd) (s : State) (hs : MemWf s) :
    OutWf (execCmdEvict c s) := by
  unfold execCmdEvict; (repeat' split) <;> simp_all
@[simp] theorem memWf_resumeYield (s : State) (r : Rope) (l : Launch) (prog : Image) (img : List Byte) (hs : MemWf s) :
    MemWf (State.resumeYield s r l prog img) := by
  unfold State.resumeYield; simp +contextual [*, memWf_foldl]
@[simp] theorem memWf_withdraw (s : State) (k : RopeKey) (hs : MemWf s) :
    MemWf (State.withdraw s k) := by
  unfold State.withdraw; (try dsimp only); (repeat' split) <;> simp +contextual [*, memWf_foldl]
@[simp] theorem memWf_passMissed (s : State) (r : Rope) (hs : MemWf s) :
    MemWf (State.passMissed s r) := by
  unfold State.passMissed; (try dsimp only); with_reducible (repeat' (first | assumption | (refine outWf_next _ |>.2 ?_) | (refine optWf_some _ |>.2 ?_) | exact optWf_none | (refine memWf_onCore .. |>.2 ?_) | (refine memWf_setHere .. |>.2 ?_) | (refine memWf_setCore .. |>.2 ?_) | (refine memWf_onRope .. |>.2 ?_) | (refine memWf_setRope .. |>.2 ?_) | (refine memWf_onIface .. |>.2 ?_) | (refine memWf_setIface .. |>.2 ?_) | (refine memWf_setWorld .. |>.2 ?_) | apply memWf_completeBarriers | (refine memWf_foldl _ (fun _ _ _ => ?_) _ _ ?_) | simp only [memWf_mk] | split | (intro _ _)))
@[simp] theorem memWf_resumeScan (s : State) (r : Rope) (l : Launch) (img : List Byte) (hs : MemWf s) :
    MemWf (State.resumeScan s r l img) := by
  unfold State.resumeScan; dsimp only; with_reducible (repeat' (first | assumption | (refine outWf_next _ |>.2 ?_) | (refine optWf_some _ |>.2 ?_) | exact optWf_none | apply memWf_evicted | apply memWf_execEvThawResume | (refine memWf_onCore .. |>.2 ?_) | (refine memWf_onRope .. |>.2 ?_) | apply memWf_outState | apply memWf_passMissed | apply memWf_shiftIn | (refine memWf_foldl _ (fun _ _ _ => ?_) _ _ ?_) | simp only [memWf_mk] | split))
@[simp] theorem memWf_resumeFault (s : State) (c : Cmd) (code : Nat) (hs : MemWf s) :
    MemWf (State.resumeFault s c code) := by
  unfold State.resumeFault; simp [*]
@[simp] theorem memWf_restore (s : State) (c : Cmd) (r : Rope) (l : Launch) (hs : MemWf s) :
    MemWf (State.restore s c r l) := by
  unfold State.restore; (try dsimp only); with_reducible (repeat' (first | assumption | (refine outWf_next _ |>.2 ?_) | (refine optWf_some _ |>.2 ?_) | exact optWf_none | (refine memWf_onCore .. |>.2 ?_) | (refine memWf_setHere .. |>.2 ?_) | (refine memWf_onRope .. |>.2 ?_) | (refine memWf_setRope .. |>.2 ?_) | (refine memWf_onIface .. |>.2 ?_) | apply memWf_clearCores | apply memWf_complete | apply memWf_resumeFault | apply memWf_resumeScan | apply memWf_resumeYield | apply memWf_take | apply memWf_withdraw | (refine memWf_foldl _ (fun _ _ _ => ?_) _ _ ?_) | simp only [memWf_mk] | split))
@[simp] theorem memWf_resume (s : State) (c : Cmd) (hs : MemWf s) :
    OptWf (State.resume s c) := by
  unfold State.resume
  split
  · exact (optWf_some _).2 (memWf_complete _ _ _ _ hs)
  · split
    · exact (optWf_some _).2 (memWf_complete _ _ _ _ hs)
    · split
      · exact (optWf_some _).2 (memWf_complete _ _ _ _ hs)
      · split
        · exact (optWf_some _).2 (memWf_complete _ _ _ _ hs)
        · exact (memWf_convertSlots _ _ _ _ _ _ hs).map fun t ht => memWf_haulFor _ _ _ _ _ _ ht fun u hu => memWf_restore _ _ _ _ hu
@[simp] theorem memWf_execCmdResume (c : Cmd) (s : State) (hs : MemWf s) :
    OutWf (execCmdResume c s) := by
  unfold execCmdResume; (repeat' split) <;> simp_all
@[simp] theorem memWf_open_ (s : State) (c : Cmd) (hs : MemWf s) :
    MemWf (State.open_ s c) := by
  unfold State.open_; dsimp only; (repeat' split) <;> simp +contextual [*, memWf_foldl]
@[simp] theorem memWf_execCmdOpen (c : Cmd) (s : State) (hs : MemWf s) :
    OutWf (execCmdOpen c s) := by
  unfold execCmdOpen; (repeat' split) <;> simp_all
@[simp] theorem memWf_fenceCut (s : State) (id : Nat) (hs : MemWf s) :
    MemWf (State.fenceCut s id) := by
  unfold State.fenceCut; (try dsimp only); (repeat' split) <;> simp +contextual [*, memWf_foldl]
@[simp] theorem memWf_discardRecord (s : State) (r : Rope) (l : Option Launch) (hs : MemWf s) :
    MemWf (State.discardRecord s r l) := by
  unfold State.discardRecord; (try dsimp only); (repeat' split) <;> simp +contextual [*, memWf_foldl]
@[simp] theorem memWf_dropRopes (s : State) (w : Nat) (hs : MemWf s) :
    MemWf (State.dropRopes s w) := by
  unfold State.dropRopes; (try dsimp only); with_reducible (repeat' (first | assumption | (refine outWf_next _ |>.2 ?_) | (refine optWf_some _ |>.2 ?_) | exact optWf_none | (refine memWf_onCore .. |>.2 ?_) | (refine memWf_setHere .. |>.2 ?_) | (refine memWf_onRope .. |>.2 ?_) | (refine memWf_setRope .. |>.2 ?_) | (refine memWf_onIface .. |>.2 ?_) | apply memWf_discardRecord | apply memWf_fenceCut | apply memWf_finishAccesses | apply memWf_flushWrites | (refine memWf_foldl _ (fun _ _ _ => ?_) _ _ ?_) | simp only [memWf_mk] | split))
@[simp] theorem memWf_freeRopes (s : State) (w : Nat) (hs : MemWf s) :
    MemWf (State.freeRopes s w) := by
  unfold State.freeRopes; (try dsimp only); (repeat' split) <;> simp +contextual [*, memWf_foldl]
@[simp] theorem memWf_cancelAll (s : State) (n : Nat) (c : Cmd) (hs : MemWf s) :
    MemWf (State.cancelAll s n c) := by
  unfold State.cancelAll; simp +contextual [*, memWf_foldl]
@[simp] theorem memWf_closeFor (s : State) (n : Nat) (c : Cmd) (hs : MemWf s) :
    MemWf (State.closeFor s n c) := by
  unfold State.closeFor; (try dsimp only); with_reducible (repeat' (first | assumption | (refine outWf_next _ |>.2 ?_) | (refine optWf_some _ |>.2 ?_) | exact optWf_none | (refine memWf_onCore .. |>.2 ?_) | (refine memWf_setHere .. |>.2 ?_) | (refine memWf_setCore .. |>.2 ?_) | (refine memWf_onRope .. |>.2 ?_) | (refine memWf_setRope .. |>.2 ?_) | (refine memWf_onIface .. |>.2 ?_) | (refine memWf_setIface .. |>.2 ?_) | (refine memWf_setWorld .. |>.2 ?_) | apply memWf_staleRequest | apply memWf_dropRopes | apply memWf_cancelAll | (refine memWf_foldl _ (fun _ _ _ => ?_) _ _ ?_) | simp only [memWf_mk] | split | (intro _ _)))
@[simp] theorem memWf_close (s : State) (c : Cmd) (hs : MemWf s) :
    MemWf (State.close s c) := by
  unfold State.close; split <;> simp [*]
@[simp] theorem memWf_execCmdClose (c : Cmd) (s : State) (hs : MemWf s) :
    OutWf (execCmdClose c s) := by
  unfold execCmdClose; (repeat' split) <;> simp_all
@[simp] theorem memWf_execEvKillFence (world : Nat) (s : State) (hs : MemWf s) :
    OutWf (execEvKillFence world s) := by
  unfold execEvKillFence; (repeat' split) <;> simp [*]
@[simp] theorem memWf_execCmdEventWait (c : Cmd) (s : State) (hs : MemWf s) :
    OutWf (execCmdEventWait c s) := by
  unfold execCmdEventWait; (repeat' split) <;> simp_all
@[simp] theorem memWf_eventSet (s : State) (c : Cmd) (hs : MemWf s) : MemWf (State.eventSet s c) := by
  unfold State.eventSet
  split
  · exact memWf_complete _ _ _ _ hs
  · dsimp only
    split
    · rename_i t old e
      exact memWf_complete _ _ _ _ (memWf_eventOp _ _ _ _ _ _ hs e)
    · exact memWf_complete _ _ _ _ hs
@[simp] theorem memWf_execCmdEventSet (c : Cmd) (s : State) (hs : MemWf s) :
    OutWf (execCmdEventSet c s) := by
  unfold execCmdEventSet; (repeat' split) <;> simp_all
@[simp] theorem memWf_query (s : State) (c : Cmd) (hs : MemWf s) :
    MemWf (State.query s c) := by
  unfold State.query; dsimp only; (repeat' split) <;> simp +contextual [*, memWf_foldl]
@[simp] theorem memWf_execCmdQuery (c : Cmd) (s : State) (hs : MemWf s) :
    OutWf (execCmdQuery c s) := by
  unfold execCmdQuery; (repeat' split) <;> simp_all
@[simp] theorem memWf_deposit (s : State) (c : Cmd) (va : Nat) (bytes : List Byte) (result : Nat) (hs : MemWf s) :
    MemWf (State.deposit s c va bytes result) := by
  unfold State.deposit; (try dsimp only); with_reducible (repeat' (first | assumption | (refine outWf_next _ |>.2 ?_) | (refine optWf_some _ |>.2 ?_) | exact optWf_none | (refine memWf_onCore .. |>.2 ?_) | (refine memWf_setHere .. |>.2 ?_) | (refine memWf_setCore .. |>.2 ?_) | (refine memWf_onRope .. |>.2 ?_) | (refine memWf_setRope .. |>.2 ?_) | (refine memWf_onIface .. |>.2 ?_) | (refine memWf_setIface .. |>.2 ?_) | (refine memWf_setWorld .. |>.2 ?_) | apply memWf_writeFor | apply memWf_complete | apply memWf_haulFor | (refine memWf_foldl _ (fun _ _ _ => ?_) _ _ ?_) | simp only [memWf_mk] | split | (intro _ _)))
@[simp] theorem memWf_resync (s : State) (c : Cmd) (hs : MemWf s) :
    MemWf (State.resync s c) := by
  unfold State.resync; split <;> simp [*]
@[simp] theorem memWf_execCmdResync (c : Cmd) (s : State) (hs : MemWf s) :
    OutWf (execCmdResync c s) := by
  unfold execCmdResync; (repeat' split) <;> simp_all
@[simp] theorem memWf_attest (s : State) (c : Cmd) (hs : MemWf s) :
    MemWf (State.attest s c) := by
  unfold State.attest; (try dsimp only); (repeat' split) <;> simp +contextual [*, memWf_foldl]
@[simp] theorem memWf_execCmdAttest (c : Cmd) (s : State) (hs : MemWf s) :
    OutWf (execCmdAttest c s) := by
  unfold execCmdAttest; (repeat' split) <;> simp_all
@[simp] theorem memWf_manifest (s : State) (c : Cmd) (hs : MemWf s) :
    MemWf (State.manifest s c) := by
  unfold State.manifest; (try dsimp only); with_reducible (repeat' (first | assumption | (refine outWf_next _ |>.2 ?_) | (refine optWf_some _ |>.2 ?_) | exact optWf_none | (refine memWf_onCore .. |>.2 ?_) | (refine memWf_setHere .. |>.2 ?_) | (refine memWf_setCore .. |>.2 ?_) | (refine memWf_onRope .. |>.2 ?_) | (refine memWf_setRope .. |>.2 ?_) | (refine memWf_onIface .. |>.2 ?_) | (refine memWf_setIface .. |>.2 ?_) | (refine memWf_setWorld .. |>.2 ?_) | apply memWf_complete | apply memWf_haulFor | apply memWf_take | (refine memWf_foldl _ (fun _ _ _ => ?_) _ _ ?_) | simp only [memWf_mk] | split | (intro _ _)))
@[simp] theorem memWf_execCmdManifestCmp (c : Cmd) (s : State) (hs : MemWf s) :
    OutWf (execCmdManifestCmp c s) := by
  unfold execCmdManifestCmp; (repeat' split) <;> simp_all
@[simp] theorem memWf_bind (s : State) (c : Cmd) (hs : MemWf s) :
    OptWf (State.bind s c) := by
  unfold State.bind; dsimp only; (repeat' split) <;> simp +contextual [*, memWf_foldl]
@[simp] theorem memWf_execCmdBind (c : Cmd) (s : State) (hs : MemWf s) :
    OutWf (execCmdBind c s) := by
  unfold execCmdBind; (repeat' split) <;> simp_all
@[simp] theorem memWf_weigh (s : State) (c : Cmd) (hs : MemWf s) :
    MemWf (State.weigh s c) := by
  unfold State.weigh; dsimp only; (repeat' split) <;> simp +contextual [*, memWf_foldl]
@[simp] theorem memWf_execCmdWeight (c : Cmd) (s : State) (hs : MemWf s) :
    OutWf (execCmdWeight c s) := by
  unfold execCmdWeight; (repeat' split) <;> simp_all
@[simp] theorem memWf_revoke (s : State) (c : Cmd) (hs : MemWf s) :
    OptWf (State.revoke s c) := by
  unfold State.revoke; dsimp only; (repeat' split) <;> simp +contextual [*, memWf_foldl]
@[simp] theorem memWf_execCmdRevoke (c : Cmd) (s : State) (hs : MemWf s) :
    OutWf (execCmdRevoke c s) := by
  unfold execCmdRevoke; (repeat' split) <;> simp_all
@[simp] theorem memWf_await (s : State) (c : Cmd) (rs : List Request) (hs : MemWf s) :
    MemWf (State.await s c rs) := by
  unfold State.await; dsimp only; (repeat' split) <;> simp +contextual [*, memWf_foldl]
@[simp] theorem memWf_invalidateFor (s : State) (c : Cmd) (asids : List Nat) (used : List Request) (hs : MemWf s) :
    MemWf (State.invalidateFor s c asids used) := by
  unfold State.invalidateFor; (try dsimp only); (repeat' split) <;> simp +contextual [*, memWf_foldl]
@[simp] theorem memWf_mapAsid (s : State) (w : Nat) (one : Bool) (a : Option Nat) (table : Nat) (hs : MemWf s) :
    MemWf (State.mapAsid s w one a table) := by
  unfold State.mapAsid; simp [*]
@[simp] theorem memWf_asidMap (s : State) (c : Cmd) (hs : MemWf s) :
    MemWf (State.asidMap s c) := by
  unfold State.asidMap; dsimp only; (repeat' split) <;> simp +contextual [*, memWf_foldl]
@[simp] theorem memWf_execCmdAsidMap (c : Cmd) (s : State) (hs : MemWf s) :
    OutWf (execCmdAsidMap c s) := by
  unfold execCmdAsidMap; (repeat' split) <;> simp_all
@[simp] theorem memWf_invalidateCmd (s : State) (c : Cmd) (hs : MemWf s) :
    MemWf (State.invalidateCmd s c) := by
  unfold State.invalidateCmd; split <;> simp [*]
@[simp] theorem memWf_execCmdInvalidate (c : Cmd) (s : State) (hs : MemWf s) :
    OutWf (execCmdInvalidate c s) := by
  unfold execCmdInvalidate; (repeat' split) <;> simp_all
@[simp] theorem memWf_rollbackCmd (s : State) (c : Cmd) (hs : MemWf s) :
    MemWf (State.rollbackCmd s c) := by
  unfold State.rollbackCmd; split <;> simp [*]
@[simp] theorem memWf_execCmdRollback (c : Cmd) (s : State) (hs : MemWf s) :
    OutWf (execCmdRollback c s) := by
  unfold execCmdRollback; (repeat' split) <;> simp_all
@[simp] theorem memWf_durableId (s : State) (c : Cmd) (hs : MemWf s) :
    MemWf (State.durableId s c) := by
  unfold State.durableId; dsimp only; (repeat' split) <;> simp +contextual [*, memWf_foldl]
@[simp] theorem memWf_execCmdDurableId (c : Cmd) (s : State) (hs : MemWf s) :
    OutWf (execCmdDurableId c s) := by
  unfold execCmdDurableId; (repeat' split) <;> simp_all
@[simp] theorem memWf_poisonClear (s : State) (c : Cmd) (hs : MemWf s) :
    MemWf (State.poisonClear s c) := by
  unfold State.poisonClear; (try dsimp only); with_reducible (repeat' (first | assumption | (refine outWf_next _ |>.2 ?_) | (refine optWf_some _ |>.2 ?_) | exact optWf_none | (refine memWf_onCore .. |>.2 ?_) | (refine memWf_setHere .. |>.2 ?_) | (refine memWf_setCore .. |>.2 ?_) | (refine memWf_onRope .. |>.2 ?_) | (refine memWf_setRope .. |>.2 ?_) | (refine memWf_onIface .. |>.2 ?_) | (refine memWf_setIface .. |>.2 ?_) | (refine memWf_setWorld .. |>.2 ?_) | apply memWf_complete | apply memWf_invalidate | apply memWf_await | (refine memWf_foldl _ (fun _ _ _ => ?_) _ _ ?_) | simp only [memWf_mk] | split | (intro _ _)))
@[simp] theorem memWf_execCmdPoisonClear (c : Cmd) (s : State) (hs : MemWf s) :
    OutWf (execCmdPoisonClear c s) := by
  unfold execCmdPoisonClear; (repeat' split) <;> simp_all
@[simp] theorem memWf_setMode (s : State) (c : Cmd) (hs : MemWf s) :
    MemWf (State.setMode s c) := by
  unfold State.setMode; split <;> simp [*]
@[simp] theorem memWf_execCmdMode (c : Cmd) (s : State) (hs : MemWf s) :
    OutWf (execCmdMode c s) := by
  unfold execCmdMode; (repeat' split) <;> simp_all
@[simp] theorem memWf_peerSet (s : State) (c : Cmd) (hs : MemWf s) :
    MemWf (State.peerSet s c) := by
  unfold State.peerSet; (repeat' split) <;> simp [*]
@[simp] theorem memWf_execCmdPeerSet (c : Cmd) (s : State) (hs : MemWf s) :
    OutWf (execCmdPeerSet c s) := by
  unfold execCmdPeerSet; (repeat' split) <;> simp_all
@[simp] theorem memWf_commandBody (c : Cmd) (s : State) (hs : MemWf s) :
    OptWf (commandBody c s) := by
  unfold commandBody
  dsimp only
  with_reducible repeat' refine optWf_ite ?_ ?_
  all_goals first
    | exact optWf_none | exact memWf_ropeFree _ _ hs | exact memWf_evictStart _ _ hs | exact memWf_resume _ _ hs
    | exact memWf_bind _ _ hs | exact memWf_revoke _ _ hs
    | (refine (optWf_some _).2 ?_; with_reducible first
       | exact memWf_open_ _ _ hs | exact memWf_close _ _ hs | exact memWf_ropeAlloc _ _ hs | exact memWf_load_ _ _ hs
       | exact memWf_launch _ _ hs | exact memWf_complete _ _ _ _ hs | exact memWf_eventSet _ _ hs | exact memWf_query _ _ hs
       | exact memWf_resync _ _ hs | exact memWf_attest _ _ hs | exact memWf_manifest _ _ hs | exact memWf_weigh _ _ hs
       | exact memWf_asidMap _ _ hs | exact memWf_invalidateCmd _ _ hs | exact memWf_rollbackCmd _ _ hs
       | exact memWf_durableId _ _ hs | exact memWf_poisonClear _ _ hs | exact memWf_setMode _ _ hs | exact memWf_peerSet _ _ hs)
@[simp] theorem memWf_execEvReservedCommandStart (c : Cmd) (s : State) (hs : MemWf s) :
    OutWf (execEvReservedCommandStart c s) := by
  unfold execEvReservedCommandStart; (repeat' split) <;> simp_all
@[simp] theorem memWf_markApplied (s : State) (pkg id : Nat) (hs : MemWf s) :
    MemWf (State.markApplied s pkg id) := by
  unfold State.markApplied; (try dsimp only); with_reducible (repeat' (first | assumption | (refine outWf_next _ |>.2 ?_) | (refine optWf_some _ |>.2 ?_) | exact optWf_none | (refine memWf_onCore .. |>.2 ?_) | (refine memWf_setHere .. |>.2 ?_) | (refine memWf_setCore .. |>.2 ?_) | (refine memWf_onRope .. |>.2 ?_) | (refine memWf_setRope .. |>.2 ?_) | (refine memWf_onIface .. |>.2 ?_) | (refine memWf_setIface .. |>.2 ?_) | (refine memWf_setWorld .. |>.2 ?_) | (refine memWf_foldl _ (fun _ _ _ => ?_) _ _ ?_) | simp only [memWf_mk] | split | (intro _ _)))
theorem memWf_remoteAmo (s : State) (w va : Nat) (op : AmoOp) (wide : Bool) (opB opD : Word) (p : State × Nat) (hs : MemWf s)
    (h : s.remoteAmo w va op wide opB opD = some p) : MemWf p.1 := by
  unfold State.remoteAmo at h
  cases hm : s.mapFor w va (if wide then 8 else 4) .readWrite with
  | error c => simp [hm] at h
  | ok m =>
    simp only [hm] at h
    by_cases hp : s.poisoned m.pa (if wide then 8 else 4) = true
    · simp [hp] at h
    · rw [if_neg hp] at h
      generalize amoNew _ _ _ _ _ = x at h
      cases x with
      | none => exact memWf_of_some h hs
      | some v =>
        refine memWf_of_some h ?_
        dsimp only
        with_reducible exact memWf_store _ _ _ _ _ hs
@[simp] theorem memWf_applyRequest (s : State) (q : PeerRequest) (w va : Nat) (hs : MemWf s) :
    OptWf (State.applyRequest s q w va) := by
  unfold State.applyRequest
  split
  · split
    · exact (optWf_some _).2 (memWf_reply _ _ hs)
    · exact optWf_none
  · split
    · exact (optWf_some _).2 (memWf_reply _ _ (memWf_markApplied _ _ _ (memWf_writeFor _ _ _ _ hs)))
    · exact optWf_none
  · intro t e
    obtain ⟨p, hp, rfl⟩ := Option.map_eq_some_iff.1 e
    exact memWf_reply _ _ (memWf_markApplied _ _ _ (memWf_remoteAmo _ _ _ _ _ _ _ _ hs hp))
@[simp] theorem memWf_setRecord (s : State) (src : SignalSource) (r : BitVec 16 × Nat) (hs : MemWf s) :
    MemWf (State.setRecord s src r) := by
  unfold State.setRecord; simp [*]
@[simp] theorem memWf_applySignal (s : State) (g : Signal) (hs : MemWf s) :
    MemWf (State.applySignal s g) := by
  unfold State.applySignal
  dsimp only
  split
  · exact memWf_reply _ _ (memWf_setRecord _ _ _ hs)
  · split
    · rename_i t _ e
      exact memWf_reply _ _ (memWf_markApplied _ _ _ (memWf_remoteAmo _ _ _ _ _ _ _ _ (memWf_setRecord _ _ _ hs) e))
    · exact memWf_reply _ _ (memWf_setRecord _ _ _ hs)
@[simp] theorem memWf_settle (s : State) (x0 : Nat) (hs : MemWf s) :
    MemWf (State.settle s x0) := by
  induction x0 generalizing s with
  | zero => exact hs
  | succ n ih =>
    unfold State.settle
    dsimp only
    split
    · exact hs
    · refine ih _ ?_
      split
      · exact memWf_applySignal _ _ (memWf_moveSome _ _ _ (hs.congr rfl rfl))
      · exact memWf_reply _ _ (hs.congr rfl rfl)
@[simp] theorem memWf_settleAll (s : State) (hs : MemWf s) :
    MemWf (State.settleAll s) := by
  unfold State.settleAll; simp [*]
@[simp] theorem memWf_execEvSignalReceive (g : Signal) (s : State) (hs : MemWf s) :
    OutWf (execEvSignalReceive g s) := by
  unfold execEvSignalReceive; (try dsimp only); with_reducible (repeat' (first | assumption | (refine outWf_next _ |>.2 ?_) | (refine optWf_some _ |>.2 ?_) | exact optWf_none | (refine memWf_onCore .. |>.2 ?_) | (refine memWf_setHere .. |>.2 ?_) | (refine memWf_setCore .. |>.2 ?_) | (refine memWf_onRope .. |>.2 ?_) | (refine memWf_setRope .. |>.2 ?_) | (refine memWf_onIface .. |>.2 ?_) | (refine memWf_setIface .. |>.2 ?_) | (refine memWf_setWorld .. |>.2 ?_) | apply memWf_reply | apply memWf_settleAll | (refine memWf_foldl _ (fun _ _ _ => ?_) _ _ ?_) | simp only [memWf_mk] | split | (intro _ _)))
@[simp] theorem memWf_execEvSignalWaitTimeout (src : SignalSource) (s : State) (hs : MemWf s) :
    OutWf (execEvSignalWaitTimeout src s) := by
  unfold execEvSignalWaitTimeout; simp [*]
@[simp] theorem memWf_execEvReleaseNoticeReceive (src : SignalSource) (s : State) (hs : MemWf s) :
    OutWf (execEvReleaseNoticeReceive src s) := by
  unfold execEvReleaseNoticeReceive; simp [*]
@[simp] theorem memWf_execEvPeerRequestReceive (q : PeerRequest) (s : State) (hs : MemWf s) :
    OutWf (execEvPeerRequestReceive q s) := by
  unfold execEvPeerRequestReceive
  dsimp only
  split
  · exact (outWf_next _).2 (memWf_reply _ _ (memWf_forget _ _ hs))
  · split
    · exact (outWf_next _).2 (memWf_reply _ _ (memWf_forget _ _ hs))
    · split
      · exact (outWf_next _).2 (memWf_reply _ _ (memWf_forget _ _ hs))
      · refine (outWf_next _).2 (memWf_haulRequest _ _ _ _ hs fun t ht => ?_)
        split
        · rename_i u e
          exact memWf_settleAll _ (memWf_applyRequest _ _ _ _ ht u e)
        · exact memWf_reply _ _ (memWf_forget _ _ ht)
@[simp] theorem memWf_execEvPathFailureResend (id : Nat) (s : State) (hs : MemWf s) :
    OutWf (execEvPathFailureResend id s) := by
  unfold execEvPathFailureResend; simp [*]
@[simp] theorem memWf_refusal (s : State) (o : Outgoing) (hs : MemWf s) :
    MemWf (State.refusal s o) := by
  unfold State.refusal; split <;> simp [*]
@[simp] theorem memWf_refuseFlight (s : State) (o : Outgoing) (x : Flight) (hs : MemWf s) :
    MemWf (State.refuseFlight s o x) := by
  unfold State.refuseFlight; simp [*]
@[simp] theorem memWf_fillFlight (s : State) (o : Outgoing) (f : Nat × Nat × Nat) (data : List Byte) (hs : MemWf s) :
    MemWf (State.fillFlight s o f data) := by
  unfold State.fillFlight; simp [*]
@[simp] theorem memWf_answerFlight (s : State) (o : Outgoing) (f : Nat × Nat × Nat) (refused : Bool) (data : List Byte) (hs : MemWf s) :
    MemWf (State.answerFlight s o f refused data) := by
  unfold State.answerFlight; (repeat' split) <;> simp [*]
@[simp] theorem memWf_answerAccess (s : State) (o : Outgoing) (a : Access) (refused : Bool) (data : List Byte) (hs : MemWf s) :
    MemWf (State.answerAccess s o a refused data) := by
  unfold State.answerAccess; (try dsimp only); with_reducible (repeat' (first | assumption | (refine outWf_next _ |>.2 ?_) | (refine optWf_some _ |>.2 ?_) | exact optWf_none | (refine memWf_onCore .. |>.2 ?_) | (refine memWf_setHere .. |>.2 ?_) | (refine memWf_setCore .. |>.2 ?_) | (refine memWf_onRope .. |>.2 ?_) | (refine memWf_setRope .. |>.2 ?_) | (refine memWf_onIface .. |>.2 ?_) | (refine memWf_setIface .. |>.2 ?_) | (refine memWf_setWorld .. |>.2 ?_) | apply memWf_dropAccess | apply memWf_unreplayable | apply memWf_trap | apply memWf_load | apply memWf_amo | apply memWf_take | (refine memWf_foldl _ (fun _ _ _ => ?_) _ _ ?_) | simp only [memWf_mk] | split | (intro _ _)))
@[simp] theorem memWf_execEvAcknowledgementReceive (id : Nat) (refused : Bool) (data : List Byte) (s : State) (hs : MemWf s) :
    OutWf (execEvAcknowledgementReceive id refused data s) := by
  unfold execEvAcknowledgementReceive; dsimp only; (repeat' split) <;> simp +contextual [*, memWf_foldl]
@[simp] theorem memWf_survive (s : State) (hs : MemWf s) :
    MemWf (State.survive s) := by
  unfold State.survive
  exact ⟨rising_filter _ _ hs.1, rising_filter _ _ hs.2⟩
@[simp] theorem memWf_recover (s : State) (u n : Nat) (hs : MemWf s) :
    MemWf (State.recover s u n) := by
  unfold State.recover
  split
  · exact hs
  · exact ⟨rising_foldl_insert _ (fun c : Nat × Byte => 64 * u + c.1) (fun c => c.2) _ (rising_dropUnit _ _ hs.1), rising_insert _ _ _ hs.2⟩
@[simp] theorem memWf_recoverAll (s : State) (kept : List (Nat × Nat)) (hs : MemWf s) :
    MemWf (State.recoverAll s kept) := by
  unfold State.recoverAll; simp +contextual [*, memWf_foldl]
@[simp] theorem memWf_keepRanges (s : State) (now : List HdmRange) (hs : MemWf s) :
    MemWf (State.keepRanges s now) := by
  unfold State.keepRanges
  exact ⟨rising_filter _ _ hs.1, rising_filter _ _ hs.2⟩
@[simp] theorem memWf_fenceCore (s : State) (c : Nat) (hs : MemWf s) :
    MemWf (State.fenceCore s c) := by
  unfold State.fenceCore; simp [*]
@[simp] theorem memWf_reboot (s : State) (r : ResetInputs) (hs : MemWf s) :
    MemWf (State.reboot s r) := by
  unfold State.reboot; dsimp only; with_reducible (repeat' (first | assumption | (refine outWf_next _ |>.2 ?_) | (refine optWf_some _ |>.2 ?_) | exact optWf_none | apply memWf_fenceCore | apply memWf_keepRanges | apply memWf_recoverAll | apply memWf_survive | (refine memWf_foldl _ (fun _ _ _ => ?_) _ _ ?_) | simp only [memWf_mk] | split))
@[simp] theorem memWf_execEvPowerOn (r : ResetInputs) (s : State) (hs : MemWf s) :
    OutWf (execEvPowerOn r s) := by
  unfold execEvPowerOn; split <;> simp [*]
@[simp] theorem memWf_execEvResetN (r : ResetInputs) (s : State) (hs : MemWf s) :
    OutWf (execEvResetN r s) := by
  unfold execEvResetN; split <;> simp [*]
@[simp] theorem memWf_execEvThermalTrip (s : State) (hs : MemWf s) :
    OutWf (execEvThermalTrip s) := by
  unfold execEvThermalTrip; simp [*]
@[simp] theorem memWf_execEvPowerLoss (s : State) (hs : MemWf s) :
    OutWf (execEvPowerLoss s) := by
  unfold execEvPowerLoss; simp [*]
@[simp] theorem memWf_execEvClockStepDown (die : Nat) (s : State) (hs : MemWf s) :
    OutWf (execEvClockStepDown die s) := by
  unfold execEvClockStepDown; simp [*]
@[simp] theorem memWf_execEvClockStepUp (die : Nat) (s : State) (hs : MemWf s) :
    OutWf (execEvClockStepUp die s) := by
  unfold execEvClockStepUp; dsimp only; (repeat' split) <;> simp +contextual [*, memWf_foldl]
@[simp] theorem memWf_execEvI3cAccess (s : State) (hs : MemWf s) :
    OutWf (execEvI3cAccess s) := by
  unfold execEvI3cAccess; simp [*]
@[simp] theorem memWf_execEvCxlLinkDown (port : Nat) (s : State) (hs : MemWf s) :
    OutWf (execEvCxlLinkDown port s) := by
  unfold execEvCxlLinkDown; split <;> simp [*]
@[simp] theorem memWf_execEvPersistLinkTimeout (port : Nat) (s : State) (hs : MemWf s) :
    OutWf (execEvPersistLinkTimeout port s) := by
  unfold execEvPersistLinkTimeout; split <;> simp [*]
@[simp] theorem memWf_execEvDurableWriteAccept (id : Nat) (s : State) (hs : MemWf s) :
    OutWf (execEvDurableWriteAccept id s) := by
  unfold execEvDurableWriteAccept; simp [*]
@[simp] theorem memWf_breakHere (s : State) (hs : MemWf s) :
    MemWf (State.breakHere s) := by
  unfold State.breakHere; dsimp only; (repeat' split) <;> simp +contextual [*, memWf_foldl]
@[simp] theorem memWf_runWord (ex : Exec) (w : Word) (s : State) (hex : ∀ i s, MemWf s → OutWf (ex i s)) (hs : MemWf s) :
    OutWf (runWord ex w s) := by
  unfold runWord; dsimp only; (repeat' split) <;> simp +contextual [*, memWf_foldl]
@[simp] theorem memWf_coreTurn (ex : Exec) (core : Nat) (s0 : State) (hex : ∀ i s, MemWf s → OutWf (ex i s)) (hs0 : MemWf s0) :
    OutWf (coreTurn ex core s0) := by
  unfold coreTurn; dsimp only; (repeat' split) <;> simp +contextual [*, memWf_foldl]
@[simp] theorem memWf_runCommand (ex : Exec) (c : Cmd) (s : State) (hex : ∀ i s, MemWf s → OutWf (ex i s)) (hs : MemWf s) :
    MemWf (runCommand ex c s) := by
  unfold runCommand; (repeat' split) <;> simp_all
@[simp] theorem memWf_dispatchTurn (ex : Exec) (s : State) (hex : ∀ i s, MemWf s → OutWf (ex i s)) (hs : MemWf s) :
    OutWf (dispatchTurn ex s) := by
  unfold dispatchTurn
  split
  · exact hex _ _ hs
  · have h1 := memWf_foldl (fun s (p : Pending) => runCommand ex p.cmd s) (fun t p ht => memWf_runCommand ex p.cmd t hex ht)
      ((s.ifaces.flatMap fun e => e.2.commands).filter s.ripe) s hs
    dsimp only
    split
    · exact (outWf_next _).2 (memWf_runCommand _ _ _ hex h1)
    · exact (outWf_next _).2 h1
@[simp] theorem memWf_setWheel (s : State) (pc slot : Nat) (kind : Option SlotKind) (hs : MemWf s) :
    MemWf (State.setWheel s pc slot kind) := by
  unfold State.setWheel; dsimp only; (repeat' split) <;> simp +contextual [*, memWf_foldl]
@[simp] theorem memWf_atInstant (ex : Exec) (s : State) (t : Nat) (hex : ∀ i s, MemWf s → OutWf (ex i s)) (hs : MemWf s) :
    MemWf (State.atInstant ex s t) := by
  unfold State.atInstant
  exact memWf_foldl _ (fun u c hu => memWf_Exec.run _ _ _ hex hu) _ _ (memWf_beginSlots _ (hs.congr rfl rfl))
@[simp] theorem memWf_passTime (ex : Exec) (s : State) (n : Nat) (hex : ∀ i s, MemWf s → OutWf (ex i s)) (hs : MemWf s) :
    MemWf (State.passTime ex s n) := by
  unfold State.passTime; (try dsimp only); with_reducible (repeat' (first | assumption | (refine outWf_next _ |>.2 ?_) | (refine optWf_some _ |>.2 ?_) | exact optWf_none | (refine memWf_onCore .. |>.2 ?_) | (refine memWf_setHere .. |>.2 ?_) | (refine memWf_onRope .. |>.2 ?_) | (refine memWf_setRope .. |>.2 ?_) | (refine memWf_onIface .. |>.2 ?_) | apply memWf_atInstant | (refine memWf_foldl _ (fun _ _ _ => ?_) _ _ ?_) | simp only [memWf_mk] | split))
@[simp] theorem memWf_turn (ex : Exec) (a : Actor) (s : State) (hex : ∀ i s, MemWf s → OutWf (ex i s)) (hs : MemWf s) :
    OutWf (turn ex a s) := by
  unfold turn; (repeat' split) <;> simp_all
theorem memWf_nextActor (s : State) (a : Actor) (t : State) (hs : MemWf s) (h : s.nextActor = some (a, t)) : MemWf t := by
  unfold State.nextActor at h
  split at h
  · obtain ⟨rfl, rfl⟩ := Prod.mk.inj (Option.some.inj h)
    exact hs
  · split at h
    · obtain ⟨x, -, hx⟩ := Option.map_eq_some_iff.1 h
      rw [← (Prod.mk.inj hx).2]; exact hs
    · cases h
@[simp] theorem memWf_oneStep (ex : Exec) (s : State) (hex : ∀ i s, MemWf s → OutWf (ex i s)) (hs : MemWf s) :
    OutWf (oneStep ex s) := by
  unfold oneStep
  split
  · exact outWf_fault _
  · rename_i a t e
    have ht : MemWf t := memWf_nextActor _ _ _ hs e
    dsimp only
    split
    · exact memWf_turn _ _ _ hex (ht.congr rfl rfl)
    · exact (outWf_next _).2 (ht.congr rfl rfl)
@[simp] theorem memWf_placeWord (s : State) (w : Nat) (hs : MemWf s) :
    MemWf (State.placeWord s w) := by
  unfold State.placeWord; simp [*]
end Sys2Proof.Machine
end

