-- ==== Sys2Proof/Laws/Queue.lean ====
section
/-! SUPPORT. Lists that change at one place, and queue instructions that change the queue they stand in. -/
namespace Sys2Proof.Machine
open Sys2Proof.Safety

theorem alter_self {α : Type} (l : List α) (i : Nat) (f : α → α) (x : α) (h : l[i]? = some x) : (alter l i f)[i]? = some (f x) := by
  simp [alter, h]
theorem alter_ne {α : Type} (l : List α) (i j : Nat) (f : α → α) (h : j ≠ i) : (alter l i f)[j]? = l[j]? := by
  simp [alter, Ne.symm h]
theorem alter_length {α : Type} (l : List α) (i : Nat) (f : α → α) : (alter l i f).length = l.length := by
  simp [alter]
/-- An instruction whose meaning changes only the queue it stands in, and other fields of its core by `g`. -/
theorem queueIs_of {i : Instr} {s : State} {q q' : Queue} {f : Queue → Queue} {g : Core → Core}
    (hq : s.here.queues[s.cur.job.q]? = some q) (hf : f q = q')
    (hg2 : (g s.here).queues = s.here.queues)
    (h : exec i s = .next (s.setHere { g s.here with queues := alter s.here.queues s.cur.job.q f })) : QueueIs i s q' g := by
  refine ⟨_, h, ?_, ?_, ?_, onlyHere_setHere _ _, sameMem_setHere _ _⟩
  · rw [here_setHere]; simp [alter_self _ _ f q hq, hf]
  · intro r hr; rw [here_setHere]; simp [alter_ne _ _ _ f hr]
  · rw [here_setHere]; simp only; rw [← hg2]

end Sys2Proof.Machine
end

