-- ==== Sys2Proof/Laws/Replay.lean ====
section
/-! SUPPORT. What a replay does to the registers (R234): one that the attempt has neither written nor was about to keeps its value, and one that it
has reads as a free value until it is written again. -/
namespace Sys2Proof.Machine

open Sys2Proof.Safety

theorem find_image {α : Type} (l : List Nat) (g : Nat → α) (i : Nat) : find (l.map fun j => (j, g j)) i = if i ∈ l then some (g i) else none := by
  induction l with
  | nil => simp [find]
  | cons a l ih =>
    by_cases h : i = a
    · subst h; simp [find]
    · simp [find, h, ih]
/-- What a replay leaves open. -/
theorem Core.opened_restore (c : Core) (x : Restart) (k id i : Nat) (d : Decidable (Attempted c x i)) :
    (c.restore x k id).opened i = if Attempted c x i then some (Config.freeLane k id i) else none := by
  have h : i ∈ (c.wrote ++ (c.flights.filter fun f => f.job.phase == x.base).flatMap Flight.regs).eraseDups ↔ Attempted c x i := by
    simp only [List.mem_eraseDups, List.mem_append, List.mem_flatMap, List.mem_filter, beq_iff_eq, Attempted, and_assoc]
  show find (c.openAt x k id) i = _
  unfold Core.openAt
  rw [find_image]
  by_cases hi : Attempted c x i
  · rw [if_pos (h.2 hi), if_pos hi]
  · rw [if_neg fun e => hi (h.1 e), if_neg hi]
theorem Core.opened_restore_none {c : Core} {x : Restart} {i : Nat} (k id : Nat) (h : ¬ Attempted c x i) : (c.restore x k id).opened i = none := by
  rw [Core.opened_restore c x k id i (.isFalse h), if_neg h]
theorem Core.opened_restore_some {c : Core} {x : Restart} {i : Nat} (k id : Nat) (h : Attempted c x i) :
    (c.restore x k id).opened i = some (Config.freeLane k id i) := by
  rw [Core.opened_restore c x k id i (.isTrue h), if_pos h]
/-- A lane of the VRF that the attempt has not touched reads as it stood. -/
theorem Core.lane_restore {c : Core} {x : Restart} {i : Nat} (k id : Nat) (h : ¬ Attempted c x i) : (c.restore x k id).lane i = readZ c.vrf i := by
  unfold Core.lane
  rw [Core.opened_restore_none k id h]
  rfl
/-- An entry of the MRF that the attempt has not touched reads as it stood. -/
theorem Core.entry_restore {c : Core} {x : Restart} {i : Nat} (k id : Nat) (h : ¬ Attempted c x (16384 + i)) :
    (c.restore x k id).entry i = readZ c.mrf i := by
  unfold Core.entry
  rw [Core.opened_restore_none k id h]
  rfl
/-- What a phase writes is open no more. -/
theorem Core.opened_noteWrite {c : Core} (j : Job) {is : List Nat} {i : Nat} (h : i ∈ is) : (c.noteWrite j is).opened i = none := by
  show find (c.opens.filter fun e => !is.contains e.1) i = none
  generalize c.opens = l
  induction l with
  | nil => rfl
  | cons e l ih =>
    by_cases he : e.1 ∈ is
    · simpa [List.filter_cons, he] using ih
    · rw [List.filter_cons, if_pos (by simpa using he)]
      unfold find
      rw [if_neg fun (x : i = e.1) => he (x ▸ h)]
      exact ih
/-- A bit of a predicate that is not open reads as it stands (R118). -/
theorem Core.predicate_bit (c : Core) (p : Nat) (b : Nat) (hb : b < 64) (h : c.opened (49152 + p % 16 * 64 + b) = none) :
    (c.predicate p).getLsbD b = (c.predStore p).getLsbD b := by
  unfold Core.predicate
  unfold Core.opened at h
  revert h
  generalize c.predStore p = w
  generalize c.opens = l
  induction l generalizing w with
  | nil => simp
  | cons e l ih =>
    intro h
    unfold find at h
    split at h
    · cases h
    · rename_i hne
      rw [List.foldl_cons, ih _ h]
      split
      · rename_i hc
        have : e.1 % 64 ≠ b := fun hm => hne (by omega)
        simp only [BitVec.getLsbD_or, BitVec.getLsbD_and, BitVec.getLsbD_not, BitVec.getLsbD_shiftLeft]
        by_cases hlt : b < e.1 % 64
        · simp [hb, hlt]
        · have h1 : b - e.1 % 64 ≠ 0 := by omega
          simp [hb, hlt, h1]
      · rfl

end Sys2Proof.Machine
end

