-- ==== Sys2Proof/Tests/Slice0.lean ====
section
/-! SUPPORT. Small tests: words of the spec that decode, ill-formed terms that are refused, single steps with results worked out from
the spec, and states that meet the hypotheses of each statement. -/
namespace Sys2Proof.Tests

set_option Elab.async false

open Sys2Proof Sys2Proof.Machine Sys2Proof.Safety

/-! ## Decoding -/

/-- A header with a WAIT and an ordering class, and no tokens (R245). -/
def hdr (wait : BitVec 6) (oc : BitVec 4) : Hdr :=
  { wait := wait, giveUp := false, giveDown := false, takeUp := false, takeDown := false, oc := oc }
/-- A V-R word that is always active, of an empty header. -/
def vr (d a b : BitVec 8) (t : BitVec 4) (m : BitVec 5) : VR := { h := hdr 0 0, d := d, a := a, b := b, g := 0, n := false, t := t, m := m }
/-- An L or S word with an empty header. -/
def lw (shape : BitVec 16) (r0 r1 : Reg) (tile : BitVec 12) : LW := { h := hdr 0 0, shape := shape, r0 := r0, r1 := r1, tile := tile }
/-- An M word with an empty header. -/
def mw (bank : BitVec 3) (dir : BitVec 2) (idx : BitVec 6) (addr : BitVec 20) (m : BitVec 7) : MW :=
  { h := hdr 0 0, bank := bank, dir := dir, idx := idx, addr := addr, m := m }
/-- A V-M word with an empty header. -/
def vm (r x : BitVec 8) (w : BitVec 2) (addr : BitVec 20) : VM := { h := hdr 0 0, r := r, x := x, w := w, addr := addr }
/-- A Y word. -/
def yw (mask : BitVec 4) (arg : BitVec 34) : YW := { wait := 0, mask := mask, arg := arg }

/-- Unit C, register form: 0000, opcode, d, a, b, x, imm32 (R243). `c.sub s1, s2, s3`: opcode 0x01. -/
theorem test_decode_cSub : decodeTableWord 64 0b0000000000010000100010000110000000000000000000000000000000000000 = some (.cSub 1 2 3) := by decide
/-- Unit C with an immediate (R268: the example of the rule). -/
theorem test_decode_cAddi : decodeTableWord 64 0x02029800FFFFFFF0 = some (.cAddi 5 6 0xFFFFFFF0) := by decide
/-- R270: `c.ld.64 s5, s6, 16 oc=3` and `c.st.32 s9, s6, 8 oc=2`. -/
theorem test_decode_cLd64 : decodeTableWord 64 0x0462980300000010 = some (.cLd64 5 6 3 16) := by decide
theorem test_decode_cSt32 : decodeTableWord 64 0x0490192200000008 = some (.cSt32 9 6 2 8) := by decide
/-- R274: `c.fence 0x0004, durable` and `c.pbar`. -/
theorem test_decode_cFence : decodeTableWord 64 0x0600000000040004 = some (.cFence 4 4) := by decide
theorem test_decode_cPbar : decodeTableWord 64 0x0610000000000004 = some (.cPbar 4) := by decide
/-- R275: `c.spt s24, s3` and `c.spg s2, s2, private`. -/
theorem test_decode_cSpt : decodeTableWord 64 0x068C0C0000000000 = some (.cSpt 24 3) := by decide
theorem test_decode_cSpg : decodeTableWord 64 0x06A1080000000003 = some (.cSpg 2 2 3) := by decide
/-- R276: `c.mts s18, tpc`. -/
theorem test_decode_cMts : decodeTableWord 64 0x071048000000001A = some (.cMts 18 0x1A) := by decide
/-- Unit K (R244, R278): `k.br b1, s4, pos`. -/
theorem test_decode_kBr : decodeTableWord 64 0x1020102000000004 = some (.kBr 1 4 4) := by decide
theorem test_decode_kRett : decodeTableWord 64 0x1080000000000000 = some (.kRett false false) := by decide
/-- R282: `k.wfe s22, s21, s0, 0, 8`. -/
theorem test_decode_kWfe : decodeTableWord 64 0x10CB540000000000 = some (.kWfe 22 21 0 false 0 0) := by decide
/-- R219: the scan instructions of the worked freeze. -/
theorem test_decode_kScanOut : decodeTableWord 64 0x11031D00000003FF = some (.kScanOut 6 7 8 0x3FF) := by decide
theorem test_decode_kScanIn : decodeTableWord 64 0x11149440000003FF = some (.kScanIn 9 5 2 0x3FF) := by decide
theorem test_decode_kFrz : decodeTableWord 64 0x1122086000000000 = some (.kFrz 4 2 3) := by decide
theorem test_decode_kThaw : decodeTableWord 64 0x1130080000000000 = some (.kThaw 2) := by decide
/-- Units L and S (R248): `+2 l.get tm:0x4000, sh:3[s4, s5] oc=1`, `+33 l.getw 4, sh:3[s5, s0]` and `s.put sh:2, tm:0x1000`. -/
theorem test_decode_lGet : decodeTableWord 64 0x2000804000C85040 =
    some (.lGet { h := hdr 2 1, shape := 3, r0 := 4, r1 := 5, tile := 0x40 }) := by decide
theorem test_decode_lGetw : decodeTableWord 64 0x2018400000CA0004 =
    some (.lGetw { h := hdr 33 0, shape := 3, r0 := 5, r1 := 0, tile := 4 }) := by decide
theorem test_decode_sPut : decodeTableWord 64 0x3000000000800010 = some (.sPut (lw 2 0 0 0x10)) := by decide
theorem test_decode_sPbar : decodeTableWord 64 0x3050008000000000 = some (.sPbar { lw 0 0 0 0 with h := hdr 0 2 }) := by decide
/-- Unit M (R247): `+1 m.macz m2.all, tm:0x4000`, `m.wldr tm:0x9000`, `m.wld 64, tm:0x8000`, `m.out m2.all, tm:0x8000 oc=2`, `m.kat`. -/
theorem test_decode_mMacz : decodeTableWord 64 0x4040401600200000 = some (.mMacz { mw 2 3 0 0x4000 0 with h := hdr 1 0 }) := by decide
theorem test_decode_mWldr : decodeTableWord 64 0x4010000000480000 = some (.mWldr (mw 0 0 0 0x9000 0)) := by decide
theorem test_decode_mWld : decodeTableWord 64 0x4000000200400000 = some (.mWld (mw 0 1 0 0x8000 0)) := by decide
theorem test_decode_mOut : decodeTableWord 64 0x4080009600400000 = some (.mOut { mw 2 3 0 0x8000 0 with h := hdr 0 2 }) := by decide
theorem test_decode_mKat : (decodeTableWord 64 0x4090001B42E4E889).isSome = true := by decide
/-- Unit V (R246): register, immediate and memory words. -/
theorem test_decode_vMax : decodeTableWord 64 0x50700001008000C0 = some (.vMax (vr 4 2 0 6 0)) := by decide
theorem test_decode_vSel : decodeTableWord 64 0x5240000383000002 = some (.vSel (vr 14 12 0 0 2)) := by decide
theorem test_decode_vMad : decodeTableWord 64 0x5050003041994080 = some (.vMad (vr 193 6 101 4 0)) := by decide
theorem test_decode_vFrs : decodeTableWord 64 0x5530000082C00000 = some (.vFrs (vr 2 11 0 0 0)) := by decide
theorem test_decode_vLi : decodeTableWord 64 0x55100000444440A1 =
    some (.vLi { h := hdr 0 0, d := 1, imm := 0x1111, g := 0, n := false, t := 5, m := 1 }) := by decide
theorem test_decode_vLd : decodeTableWord 64 0x5600400A00201000 = some (.vLd { vm 40 0 2 0x1000 with h := hdr 1 0 }) := by decide
theorem test_decode_vLdx : decodeTableWord 64 0x5620000042C00000 = some (.vLdx (vm 1 11 0 0)) := by decide
theorem test_decode_vPst : decodeTableWord 64 0x5670000080002008 = some (.vPst (vm 2 0 0 0x2008)) := by decide
/-- Unit Y (R249): `y.align lmvs, tm:0x0F00`, `y.loop ls, s9, 4, 2, step=1, ring=2`, `y.idle m, 2331` and `y.bar s, 2`. -/
theorem test_decode_yAlign : decodeTableWord 64 0x6000003C0000000F = some (.yAlign (yw 15 15)) := by decide
theorem test_decode_yLoop : decodeTableWord 64 0x6030002522081100 = some (.yLoop (yw 9 0x122081100)) := by decide
theorem test_decode_yIdle : decodeTableWord 64 0x601000100000091B = some (.yIdle (yw 4 2331)) := by decide
theorem test_decode_yBar : decodeTableWord 64 0x6040000500000000 = some (.yBar (yw 1 (2 * 2 ^ 31))) := by decide
/-- R241: words of no unit, of a reserved unit, and of a reserved opcode are no instructions. -/
theorem test_decode_none : decodeTableWord 64 0xFFFFFFFFFFFFFFFF = none ∧ decodeTableWord 64 0x7000000000000000 = none
    ∧ decodeTableWord 64 0x0FF0000000000000 = none := by decide
/-- R241, R243: an unused field that is not zero is refused: b of `c.addi`, bit 31 of a `c.shli` amount. -/
theorem test_decode_unused : decodeTableWord 64 0x02029820FFFFFFF0 = none ∧ decodeTableWord 64 0x0240000080000000 = none := by decide
/-- R240: encoding gives the spec's own words back. -/
theorem test_encode : encode (.cAddi 5 6 0xFFFFFFF0) = some 0x02029800FFFFFFF0 ∧ encode (.kBr 1 4 4) = some 0x1020102000000004
    ∧ encode (.lGet { h := hdr 2 1, shape := 3, r0 := 4, r1 := 5, tile := 0x40 }) = some 0x2000804000C85040
    ∧ encode (.yAlign (yw 15 15)) = some 0x6000003C0000000F ∧ encode (.vMax (vr 4 2 0 6 0)) = some 0x50700001008000C0 := by decide

/-! ## Ill-formed terms -/

/-- Unit C: bit fields that pass bit 63, spill offsets, special registers and scopes that do not exist (R256, R267, R269, R274). -/
theorem test_illFormed_control : ∀ i ∈ [Instr.cBext 1 2 60 4 false, .cBins 1 2 63 1, .cSplLd 1 4, .cSplSt 1 8192, .cMfs 1 0x05, .cMts 1 0x42,
    .cFence 0 5, .kBr 0 0 7], wellFormed i = false := by decide
/-- Units L and S: a token toward no queue, a shape or a register where none is named, a tile field out of range (R91, R332, R336). -/
theorem test_illFormed_loads : ∀ i ∈ [Instr.lGet { lw 0 0 0 0 with h := { hdr 0 0 with giveUp := true } },
    .sPut { lw 0 0 0 0 with h := { hdr 0 0 with takeDown := true } }, .lCget (lw 1 0 0 0), .lPref (lw 0 0 0 1), .lCbld (lw 0 0 0 4), .lZero (lw 0 1 0 0),
    .sSig (lw 0 0 0 1), .sPbar (lw 0 1 0 0)], wellFormed i = false := by decide
/-- Unit M: banks, directions and indexes that an instruction does not take, an A address beside `aw`, and `m.tr` onto itself (R315). -/
theorem test_illFormed_matrix : ∀ i ∈ [Instr.mWld (mw 0 0 0 0 1), .mWldr (mw 1 0 0 0 0), .mWsw (mw 0 0 0 1 0), .mMac (mw 0 3 1 0 0), .mMac (mw 0 3 0 1 2),
    .mMacz (mw 0 3 0 0 8), .mTov (mw 0 3 0 0 0), .mFrv (mw 0 0 0 1 0), .mClr (mw 0 3 1 0 0), .mOut (mw 0 0 0 0 0), .mTr (mw 1 3 0 0 1),
    .mAdd (mw 0 3 1 0 0)], wellFormed i = false := by decide
/-- Unit V: types, modifiers, register fields and widths that an instruction does not take (R287, R295 to R312). -/
theorem test_illFormed_vector : ∀ i ∈ [Instr.vAdd (vr 0 0 0 0 1), .vMulh (vr 0 0 0 6 0), .vMin (vr 0 0 0 9 0), .vAnd (vr 0 0 0 1 0), .vCeq (vr 16 0 0 0 0),
    .vRsum (vr 0 0 0 0 0), .vRmax (vr 0 0 0 0 7), .vPack (vr 0 0 0 2 1), .vPack (vr 0 0 0 4 0), .vUnpk (vr 0 0 0 0 2), .vPand (vr 16 0 0 0 0),
    .vLd (vm 0 0 3 0), .vPst (vm 16 0 0 0), .vBext (vr 0 0 31 0 1), .vLut (vr 0 0 255 4 0), .vLi { h := hdr 0 0, d := 0, imm := 0, g := 0, n := false, t := 0, m := 0 }],
    wellFormed i = false := by decide
/-- Unit Y: no queue, a loop with interval 0, a level that does not exist, `y.halt` of fewer than four queues (R348, R352, R356, R357). -/
theorem test_illFormed_timetable : ∀ i ∈ [Instr.yAlign (yw 0 0), .yAlign (yw 15 4096), .yIdle (yw 0 0), .yLoop (yw 15 0), .yBar (yw 15 (5 * 2 ^ 31)),
    .yHalt (yw 7 0), .yYield (yw 15 1)], wellFormed i = false := by decide
/-- And well-formed neighbours of some of them. -/
theorem test_wellFormed : ∀ i ∈ [Instr.cBext 1 2 60 3 false, .cSplSt 1 8184, .cFence 0 4, .kBr 0 0 6, .mMac (mw 0 3 0 0 2), .vRmax (vr 0 0 0 0 6),
    .vPack (vr 0 0 0 0 1), .vBext (vr 0 0 31 0 0), .yBar (yw 15 (4 * 2 ^ 31)), .yHalt (yw 15 0)], wellFormed i = true := by decide

/-! ## States for steps -/

/-- Core 0 runs in rope 0 of world 1, a rope of one core, and acts. World 1 has on-chip ASID 5, whose table maps the first GiB onto the second
one of physical memory, readable, writable and executable; the next GiB is not mapped. -/
def base : State :=
  let s : State := State.reset.withFetchWord 64 0
  let t := { s with cur := { core := 0, rope := { world := 1, num := 0 }, job := .idle }, asids := [(5, { world := 1, table := 0x1000 })] }
  ((t.setWorld 1 { t.world 1 with asid0 := some 5 }).writeCells (t.worldKey 0) (cellsAt 0x1000 (leBytes 8 0x2001))).writeCells (t.worldKey 0)
    (cellsAt 0x2000 (leBytes 8 (2 ^ 30 + 0x1F) ++ leBytes 8 0))
/-- The same with core 0 changed. -/
def here (f : Core → Core) : State := base.setHere (f base.here)
/-- The same with registers set. -/
def regs (l : List (Reg × Word)) : State := here fun c => l.foldl (fun c x => c.setReg x.1 x.2) c
/-- A view of the next state. -/
def after {α : Type} (i : Instr) (s : State) (f : State → α) : Option α := match exec i s with | .next t => some (f t) | _ => none
/-- A register of core 0 in the next state. -/
def reg (i : Instr) (s : State) (r : Reg) : Option Word := after i s fun t => t.here.reg r
/-- The fault that core 0 took: cause, value, return address and level. -/
def trap (i : Instr) (s : State) : Option (Word × Word × Word × BitVec 2) :=
  after i s fun t => (t.here.tcause, t.here.tval, t.here.tpc, t.here.level)
/-- Traps are enabled, the handler stands at 0x800, and the pc at 0x100. -/
def trapsOn (f : Core → Core) : State := here fun c => f { c with tvec := 0x801, pc := 0x100 }
/-- Lane 0 of what an instruction of unit V writes, with its flags' ticks: `v1`, `v2` and `v3` hold x, y and z there. -/
def lane0 (i : Instr) (x y z : Lane) : Option (List (Nat × Option Lane)) :=
  after i (here fun c => { c with vrf := [(64, x), (128, y), (192, z)] }) fun t => t.here.flights.map fun f => (f.tick, match f.effect with
    | .vrf ls => ls.head?.map (·.2)
    | .vflags st => some (BitVec.ofNat 32 st.flags.toNat)
    | _ => none)

/-- A flight of core 0 with nothing but its effect. -/
def flight (e : Effect) : Flight :=
  { tick := 9, id := 40, job := Job.idle, upc := 0, effect := e, late := false, spots := [], served := [], bad := false, waited := 0, resent := false, asid := none }

/-! ## Single steps -/

/-- R8: a sum wraps; R264: `s0` discards a write. -/
theorem test_cAdd : reg (.cAdd 3 1 2) (regs [(1, 0xFFFFFFFFFFFFFFFF), (2, 2)]) 3 = some 1
    ∧ reg (.cAdd 0 1 2) (regs [(1, 1), (2, 2)]) 0 = some 0 := by decide +kernel
theorem test_cSub : reg (.cSub 1 1 2) (regs [(1, 1), (2, 2)]) 1 = some 0xFFFFFFFFFFFFFFFF := by decide +kernel
theorem test_cSar : reg (.cSar 3 1 2) (regs [(1, 0x8000000000000000), (2, 0x43)]) 3 = some 0xF000000000000000 := by decide +kernel
/-- R267: the worked cases, with A = 0x0000_0000_00F3_5A00. -/
theorem test_cBext : reg (.cBext 4 5 8 11 false) (regs [(5, 0xF35A00)]) 4 = some 0x35A
    ∧ reg (.cBext 4 5 12 7 true) (regs [(5, 0xF35A00)]) 4 = some 0x35
    ∧ reg (.cBext 4 5 16 7 true) (regs [(5, 0xF35A00)]) 4 = some 0xFFFFFFFFFFFFFFF3 := by decide +kernel
theorem test_cBins : reg (.cBins 4 5 60 3) (regs [(5, 0xF35A00)]) 4 = some 0 ∧ reg (.cBins 4 5 8 7) (regs [(4, 0xFFFFFF), (5, 0x12)]) 4 = some 0xFF12FF := by decide +kernel
theorem test_cFshl : reg (.cFshl 4 5 6 7) (regs [(5, 0xF35A00), (6, 0x8000000000000000), (7, 4)]) 4 = some 0x0F35A008 := by decide +kernel
theorem test_cMulh : reg (.cMulh 3 1 2) (regs [(1, 0xFFFFFFFFFFFFFFFF), (2, 2)]) 3 = some 0xFFFFFFFFFFFFFFFF
    ∧ reg (.cMulhn 3 1 2) (regs [(1, 0xFFFFFFFFFFFFFFFF), (2, 2)]) 3 = some 1 := by decide +kernel
/-- R266: division by zero is no fault. -/
theorem test_cDivn : reg (.cDivn 3 1 2) (regs [(1, 7)]) 3 = some 0xFFFFFFFFFFFFFFFF ∧ reg (.cRemn 3 1 2) (regs [(1, 7)]) 3 = some 7 := by decide +kernel
theorem test_cSlt : reg (.cSlt 3 1 2) (regs [(1, 0xFFFFFFFFFFFFFFFF)]) 3 = some 1 ∧ reg (.cSltn 3 1 2) (regs [(1, 0xFFFFFFFFFFFFFFFF)]) 3 = some 0 := by decide +kernel
theorem test_cClz : reg (.cClz 3 1) (regs []) 3 = some 64 ∧ reg (.cClz 3 1) (regs [(1, 1)]) 3 = some 63 := by decide +kernel
theorem test_cCtz : reg (.cCtz 3 1) (regs []) 3 = some 64 ∧ reg (.cCtz 3 1) (regs [(1, 8)]) 3 = some 3 := by decide +kernel
/-- R268: a 64-bit constant from its halves. -/
theorem test_cLih : reg (.cLih 3 0x12345678) (regs [(3, 0xFFFFFFFF9ABCDEF0)]) 3 = some 0x123456789ABCDEF0 := by decide +kernel
theorem test_cSltni : reg (.cSltni 3 1 0xFFFFFFFF) (regs [(1, 5)]) 3 = some 1 ∧ reg (.cSlti 3 1 0xFFFFFFFF) (regs [(1, 5)]) 3 = some 0 := by decide +kernel
/-- R269: spill memory is little-endian. -/
theorem test_cSplSt : after (.cSplSt 3 8184) (regs [(3, 0x0102030405060708)]) (fun t => (readZ t.here.spill 8184, readZ t.here.spill 8191)) = some (8, 1) := by decide +kernel
theorem test_cSplLd : reg (.cSplLd 3 8) (here fun c => { c with spill := [(8, 0x11), (15, 0x80)] }) 3 = some 0x8000000000000011 := by decide +kernel
/-- R129, R270: the place of a load under the page tables of its world. -/
theorem test_cLd64 : after (.cLd64 5 6 0 8) (regs [(6, 0x10000)]) (fun t => t.here.accesses.map (·.place)) = some [.global 0x10008 0x40010008 false] := by decide +kernel
/-- R271: a misaligned load is fault 0x0F, and a private pointer of another core is fault 0x0B. -/
theorem test_cLd64_faults : trap (.cLd64 5 6 0 4) (trapsOn fun c => c.setReg 6 0x10000) = some (0x0F, 0x10004, 0x100, 2)
    ∧ trap (.cLd64 5 6 0 0) (trapsOn fun c => c.setReg 6 0xFFD00C0000004A40) = some (0x0B, 0xFFD00C0000004A40, 0x100, 2) := by decide +kernel
/-- R270: at its perform event a signed byte is extended. -/
theorem test_load_performs : after (.evControlCoreAccessPerform 0 7)
    (here fun c => { c with tile := [(16, 0x80)], accesses := [{ id := 7, cls := 0, place := .tile 16, kind := .load 5 1 true, gen := 0, sent := none, bad := false, pc := 0, tick := 0, asid := none }] })
    (fun t => (t.here.reg 5, t.here.accesses.length)) = some (0xFFFFFFFFFFFFFF80, 0) := by decide +kernel
/-- R273: a compare and swap that matches, and a signed minimum whose old value is extended. -/
theorem test_amo : after (.evControlCoreAccessPerform 0 7) ((here fun c => { c with accesses := [{ id := 7, cls := 0, place := .global 0x100 0x40000100 false, kind := .amo .cas 5 4 9 3, gen := 0, sent := none, bad := false, pc := 0, tick := 0, asid := none }] }).writeCells
        (base.worldKey 1) (cellsAt 0x40000100 (leBytes 4 3)))
    (fun t => (t.here.reg 5, t.readByte (t.worldKey 1) 0x40000100)) = some (3, 9) := by decide +kernel
theorem test_amo_min : after (.evControlCoreAccessPerform 0 7) ((here fun c => { c with accesses := [{ id := 7, cls := 0, place := .global 0x100 0x40000100 false, kind := .amo .min 5 4 1 0, gen := 0, sent := none, bad := false, pc := 0, tick := 0, asid := none }] }).writeCells
        (base.worldKey 1) (cellsAt 0x40000100 (leBytes 4 0xFFFFFFFE)))
    (fun t => (t.here.reg 5, t.readByte (t.worldKey 1) 0x40000103)) = some (0xFFFFFFFFFFFFFFFE, 0xFF) := by decide +kernel
/-- R275: a pointer to tile memory names its core, and `c.spt` tells the space. -/
theorem test_cSpg : reg (.cSpg 2 2 2) (regs [(2, 0x4A40)]) 2 = some 0xFFD0000000004A40 ∧ reg (.cSpt 3 2) (regs [(2, 0xFFD00C0000004A40)]) 3 = some 2
    ∧ reg (.cSpt 3 2) (regs [(2, 0x8000000000000000)]) 3 = some 7 := by decide +kernel
/-- R256: `lvl` holds level, saved level and handler flag. -/
theorem test_cMfs : reg (.cMfs 3 0x04) (here fun c => { c with level := 2, prev := 1, handler := true }) 3 = some 0x112 := by decide +kernel
/-- R202, R256: `tvec` is written at level 2 only. -/
theorem test_cMts : after (.cMts 3 0x18) (here fun c => ({ c with level := 2 } : Core).setReg 3 0xFFFFF) (fun t => t.here.tvec) = some 0xFFF9
    ∧ (trap (.cMts 3 0x18) (trapsOn id)).map (·.1) = some 2 := by decide +kernel
/-- R278: the conditions of `k.br`, at a negative number. -/
theorem test_kBr : [0, 1, 2, 3, 4, 5, 6].map (fun k => after (.kBr 1 4 (BitVec.ofNat 3 k)) (here fun c => (({ c with pc := 0x100 } : Core).setReg 4 0xFFFFFFFFFFFFFFFF).setBreg 1 0x40)
    (fun t => t.here.pc)) = [some 0x108, some 0x40, some 0x40, some 0x108, some 0x108, some 0x40, some 0x40] := by decide +kernel
theorem test_kCall : after (.kCall 7) (here fun c => ({ c with pc := 0x100 } : Core).setBreg 7 0x40) (fun t => (t.here.pc, t.here.breg 7)) = some (0x40, 0x108) := by decide +kernel
/-- R203, R281: `k.trap` enters the handler at level 2 with its immediate, and names the next instruction. -/
theorem test_kTrap : trap (.kTrap 5) (trapsOn id) = some (4, 5, 0x108, 2) ∧ after (.kTrap 5) (trapsOn id) (fun t => (t.here.pc, t.here.handler, t.here.prev))
    = some (0x800, true, 1) := by decide +kernel
/-- R209: `k.rett` restores the level and the pc. -/
theorem test_kRett : after (.kRett false false) (here fun c => { c with level := 2, prev := 1, handler := true, tpc := 0x300 })
    (fun t => (t.here.pc, t.here.level, t.here.handler)) = some (0x300, 1, false) := by decide +kernel
/-- R206: an illegal instruction is fault 0x01 with its word. -/
theorem test_illegal : trap (.evIllegalInstruction 0xFFFFFFFFFFFFFFFF) (trapsOn id) = some (1, 0xFFFFFFFFFFFFFFFF, 0x100, 2) := by decide +kernel
/-- R295, R296: lanes of `v.add.i8` wrap and are sign-extended, with the saturation flag; `v.adds` clamps; `v.mad.i32` reads its destination. -/
theorem test_vAdd : lane0 (.vAdd (vr 3 1 2 0 0)) 0x7F 1 0 = some [(1, some 0xFFFFFF80), (1, some 0b100000)] := by decide +kernel
theorem test_vAdds : lane0 (.vAdds (vr 3 1 2 0 0)) 0x7F 1 0 = some [(1, some 0x7F), (1, some 0b100000)] := by decide +kernel
theorem test_vMad : lane0 (.vMad (vr 3 1 2 4 0)) 3 5 7 = some [(3, some 22)] := by decide +kernel
/-- R173: `v.add.bf16` of 1 and 2^-9 rounds to even: 1; f32 sums are exact here. -/
theorem test_vAdd_bf16 : lane0 (.vAdd (vr 3 1 2 6 0)) 0x3F80 0x3B00 0 = some [(3, some 0x3F80)]
    ∧ lane0 (.vAdd (vr 3 1 2 8 0)) 0x3F800000 0x40000000 0 = some [(3, some 0x40400000)] := by decide +kernel
/-- R296: minus zero is the smaller; a NaN gives the canonical NaN and is flagged. -/
theorem test_vMin : lane0 (.vMin (vr 3 1 2 8 0)) 0 0x80000000 0 = some [(3, some 0x80000000)]
    ∧ lane0 (.vMin (vr 3 1 2 8 0)) 0x7F800001 0 0 = some [(3, some 0x7FC00000), (3, some 0b001000)] := by decide +kernel
/-- R297: shifts of whole lanes use five bits. -/
theorem test_vSar : lane0 (.vSar (vr 3 1 2 0 0)) 0x80000000 0x24 0 = some [(1, some 0xF8000000)]
    ∧ lane0 (.vFshl { vr 3 1 2 0 4 with m := 4 }) 0x12345678 0x9ABCDEF0 0 = some [(1, some 0x23456789)] := by decide +kernel
/-- R300: the worked conversion to l6 of 0.04, nearest even. -/
theorem test_vCvt_l6 : (lane0 (.vCvt (vr 3 1 8 11 0)) 0x3D23D70A 0 0).map (·.map (·.2)) = some [some 1] := by decide +kernel
/-- R301: requantisation by 2^1 rounds to even and saturates: 3/2 to 2, 5/2 to 2. -/
theorem test_vRshq : lane0 (.vRshq (vr 3 1 2 0 0)) 3 0x00010001 0 = some [(3, some 2)] ∧ lane0 (.vRshq (vr 3 1 2 0 0)) 5 0x00010001 0 = some [(3, some 2)]
    ∧ lane0 (.vRshq (vr 3 1 2 0 0)) 1000 0x00010001 0 = some [(3, some 127), (3, some 0b100000)] := by decide +kernel
/-- R305: lane numbers, and a broadcast of lane 0. -/
theorem test_vLane : lane0 (.vLane (vr 3 0 0 0 0)) 9 9 9 = some [(1, some 0)] ∧ lane0 (.vBcst (vr 3 1 0 0 0)) 9 8 7 = some [(3, some 9)] := by decide +kernel
/-- R309: a byte load zero-extends, two ticks later; outside the declared sets it is fault 0x16. -/
theorem test_vLd : after (.vLd (vm 3 0 0 0x100)) ({ (here fun c => { c with tile := [(0x100, 0x80)] }) with
      cur := { base.cur with job := { Job.idle with q := 2, reads := [4097] } } }) (fun t => t.here.flights.map fun f => (f.tick, match f.effect with
        | .vrf ls => ls.head?.map (·.2) | _ => none)) = some [(2, some 0x80)] := by decide +kernel
theorem test_vLd_sets : after (.vLd (vm 3 0 0 0x100)) ({ base with cur := { base.cur with job := { Job.idle with q := 2 } } })
    (fun t => t.here.pending.map fun p => (p.code, p.value, p.source)) = some [(0x16, 0x100, 3)] := by decide +kernel
/-- R109, R240: a step runs the word at the pc. -/
theorem test_step : (match step (State.reset.withFetchWord 64 0x02029800FFFFFFF0) with | .next t => some (t.here.reg 5, t.here.pc) | _ => none)
    = some (0xFFFFFFFFFFFFFFF0, 8) := by decide +kernel
/-- R88: a `y.align` joins all four queues. -/
theorem test_step_routes : (match step (State.reset.withFetchWord 64 0x6000003C0000000F) with | .next t => some (t.here.queues.map (·.entries.length)) | _ => none)
    = some [1, 1, 1, 1] := by decide +kernel
/-- A queue of the given entries with a base, and the instance at its head. -/
def queued (q : Nat) (i : Instr) (f : Queue → Queue) : State :=
  let e : Entry := { Job.idle.entry with ins := i }
  let s := here fun c => { c with queues := alter c.queues q fun x => f { x with entries := [e], base := some 1000, nextT := 1010 } }
  { s with cur := { s.cur with job := { Job.idle with q := q, t := 1010, entry := e } } }
/-- R350: the next entry has T = 1010 + 1 + 20. -/
theorem test_yIdle : after (.yIdle (yw 4 20)) (queued 1 (.yIdle (yw 4 20)) id) (fun t => t.here.queues.map (·.nextT)) = some [0, 1031, 0, 0] := by decide +kernel
/-- R351: a check that holds, and one that does not. -/
theorem test_yTchk : after (.yTchk (yw 4 10)) (queued 1 (.yTchk (yw 4 10)) id) (fun t => t.here.pending.length) = some 0
    ∧ after (.yTchk (yw 4 11)) (queued 1 (.yTchk (yw 4 11)) id) (fun t => t.here.pending.map fun p => (p.code, p.sub, p.value)) = some [(0x10, 1, 1010)] := by decide +kernel
/-- R352: three iterations of interval 4 in two stages take 16 ticks. -/
theorem test_yLoop : after (.yLoop (yw 8 (4 * 2 ^ 23 + 2 ^ 19))) { queued 0 (.yLoop (yw 8 (4 * 2 ^ 23 + 2 ^ 19))) id with
    cur := { base.cur with job := { Job.idle with t := 1010, entry := { Job.idle.entry with ins := .yLoop (yw 8 (4 * 2 ^ 23 + 2 ^ 19)), va := 3 } } } }
    (fun t => t.here.queues.map (·.nextT)) = some [1027, 0, 0, 0] := by decide +kernel
/-- R313: the example of the rule: `vrb` from 5 to 4. -/
theorem test_loop_initiation : after .yLoopInitiation (here fun c => { c with vrb := 5, queues := alter c.queues 2 fun x => { x with loop := some { cursor := 0, l0 := 0, ii := 4, sc := 1, trip := 2, step := 0, ring := 1 } } })
    (fun t => (t.here.vrb, t.here.predicate 12, t.here.predicate 13)) = some (4, 0xFFFFFFFFFFFFFFFF, 0) := by decide +kernel
/-- R320: `m.wsw` exchanges the planes, and is late while the drive path is taken. -/
theorem test_mWsw : after (.mWsw (mw 0 0 0 0 0)) base (fun t => t.here.active) = some (!base.here.active)
    ∧ after (.mWsw (mw 0 0 0 0 0)) (here fun c => { c with busy := alter c.busy 3 fun _ => 9 }) (fun t => t.here.pending.map fun p => (p.code, p.sub))
      = some [(0x10, 2)] := by decide +kernel
/-- R175: 32 products of 3 × −2 sum to −192. -/
theorem test_blocksum : blocksum 0 0 (List.replicate 32 3) (List.replicate 32 0xFE) = (.fin (-192) 0, 0) := by decide +kernel
/-- R335: `l.zero` writes 256 zeros two ticks later. -/
theorem test_lZero : after (.lZero (lw 0 0 0 1))
    { base with cur := { base.cur with job := { Job.idle with writes := [4097], entry := { Job.idle.entry with ins := .lZero (lw 0 0 0 1), vb := 1 } } } }
    (fun t => t.here.flights.map fun f => (f.tick, match f.effect with | .tile bs => (bs.length, bs.head?) | _ => (0, none))) = some [(2, (256, some (256, 0)))] := by decide +kernel
/-- R155, R160: a persist barrier of the store engine ends after 1,400 ticks. -/
theorem test_sPbar : after (.sPbar (lw 0 0 0 0)) { base with cur := { base.cur with job := { Job.idle with q := 3 } } }
    (fun t => t.here.flights.map fun f => (f.tick, f.effect)) = some [(1400, .barrier)] := by decide +kernel
/-- A command of an interface with its opcode and two parameters (R44). -/
def command (iface op p0 p1 : Nat) : Cmd :=
  { iface := iface, pos := 0, slot := BitVec.ofNat 512 (op * 2 ^ 32 + 2 * 2 ^ 40 + p0 * 2 ^ 384 + p1 * 2 ^ 448), consumed := 0 }
/-- Interface 0 with one command that waits. -/
def asked (c : Cmd) : State :=
  base.setIface c.iface { base.iface c.iface with state := .running, commands := [{ cmd := c, started := false, start := 0, effect := false, waits := [], verdict := none, moving := none }] }
/-- What a state answered at an interface. -/
def answers (n : Nat) (t : State) : List (Nat × Nat) := (t.iface n).replies.map fun r => (r.status, r.result)
/-- R49, R50: OPEN answers 0 with the event page in the upper half of its result; a second one 4. -/
theorem test_cmdOpen : after (.cmdOpen (command 1 1 0x10000 0)) ((asked (command 1 1 0x10000 0)).onIface 1 fun i => { i with state := .closed })
      (answers 1) = some [(0, 1 + 1024 * 2 ^ 8 + 4096 * 2 ^ 32 + 0x10000 * 2 ^ 64)]
    ∧ after (.cmdOpen (command 1 1 0x10000 0)) (asked (command 1 1 0x10000 0)) (answers 1) = some [(4, 0)] := by decide +kernel
/-- R49, R80: a rope of 2 × 2 cores beside rope 0 is rope 1, and a class code 3 in the rectangle word is bad. -/
theorem test_cmdRopeAlloc : after (.cmdRopeAlloc (command 1 3 0x0202 0)) (asked (command 1 3 0x0202 0)) (fun t => (t.ropes.length, (answers 1 t).map (·.1)))
    = some (2, [0]) := by decide +kernel
/-- R54, R85: MODE. -/
theorem test_cmdMode : after (.cmdMode (command 0 0x28 2 0)) (asked (command 0 0x28 2 0)) (fun t => (t.mode, answers 0 t)) = some (2, [(0, 0)])
    ∧ after (.cmdMode (command 0 0x28 4 0)) (asked (command 0 0x28 4 0)) (answers 0) = some [(2, 0)] := by decide +kernel
/-- R49: QUERY of an operation that does not exist is a bad argument. -/
theorem test_cmdQuery : after (.cmdQuery (command 1 0x0B 4 0)) (asked (command 1 0x0B 4 0)) (answers 1) = some [(2, 0)] := by decide +kernel
/-- R41: a `cwp` more than 1,024 ahead laps the ring; R37: a write of another endpoint is counted. -/
theorem test_cwp : after (.evCwpWrite { iface := 2, endpoint := 9, sa := 3, value := 1025 }) (base.setIface 2 { Iface.fresh with bound := some (9, 3), state := .running })
      (fun t => ((t.iface 2).state, (t.iface 2).cwp)) = some (.lapped, 1025)
    ∧ after (.evCwpWrite { iface := 2, endpoint := 9, sa := 3, value := 1 }) base (fun t => (t.iface 2).dropped) = some 1 := by decide +kernel
/-- R31: a loss of power leaves nothing running. -/
theorem test_powerLoss : after .evPowerLoss base (fun t => (t.powered, t.ropes.length, t.here.run)) = some (false, 0, 0) := by decide +kernel
/-- R22: a stretch is one hold. -/
theorem test_clockStretch : after (.evClockStretch 0) base (fun t => t.ropes.map fun r => r.holds.length) = some [1] := by decide +kernel
/-! ## States that meet the hypotheses of each statement -/

/-- A result is there and has a property. -/
def okAnd {ε α : Type} (x : Except ε α) (p : α → Bool) : Bool := match x with | .ok a => p a | .error _ => false
/-- A result is this fault. -/
def failsBy {α : Type} (x : Except Nat α) (code : Nat) : Bool := match x with | .ok _ => false | .error c => c == code
theorem written_of {s : State} {rs : List Reg} (h : s.here.accesses = []) : Written s rs := fun _ _ => .inr fun a ha => by rw [h] at ha; cases ha
theorem mayLeave_of {s : State} {rs : List Reg} (h : s.here.accesses = []) : MayLeave s rs :=
  ⟨written_of h, by rw [h]; decide, by rw [h]; intro a ha; cases ha⟩
theorem base_free : base.here.accesses = [] := by decide +kernel
/-- The same state in the Refresh slot of every wheel. -/
def refreshing (s : State) : State := { s with gtc := 504 }
theorem takesTraps : TakesTraps (trapsOn id) := by unfold TakesTraps; decide +kernel
/-- One access of class 2 is out: a load of `s5`. -/
def waiting (pl : Place) : State := here fun c => { c with accesses := [{ id := 7, cls := 2, place := pl, kind := .load 5 8 false, gen := 0, sent := none, bad := false, pc := 0, tick := 0, asid := none }] }
/-- A durable write of core 0 in class 2 that its device has not accepted: of an image or not, failed or not. -/
def unaccepted (image failed : Bool) : DurableWrite :=
  { id := 1, unit := 5, va := 0x100, core := some 0, engine := false, cls := 2, issued := 0, write := { key := base.worldKey 1, bytes := [] },
    accepted := false, failed := failed, lapsed := false, image := image }
/-- Core 0 at level 2 or 3, with traps on. -/
def atLevel (n : BitVec 2) (f : Core → Core) : State := trapsOn fun c => f { c with level := n }

theorem witness_RegisterInstructions : Written base [3, 1, 2, 4] := written_of base_free
/-- A field that ends at bit 63, from a low and from a high place. -/
theorem witness_ImmediateInstructions : Written base [1, 2] ∧ (0 : BitVec 6).toNat + (63 : BitVec 6).toNat + 1 ≤ 64
    ∧ (63 : BitVec 6).toNat + (0 : BitVec 6).toNat + 1 ≤ 64 := ⟨written_of base_free, by decide⟩
/-- `s5` is late; a special register that any level writes, and one that level 2 does. -/
theorem witness_WaitsForRegisters : ¬ Written (waiting (.tile 0)) [5] ∧ (0x00 : BitVec 8) ≠ 0x20 ∧ writable (0x00 : BitVec 8).toNat = false
    ∧ ¬ Written ((waiting (.tile 0)).setHere { (waiting (.tile 0)).here with level := 2 }) [5]
    ∧ 2 ≤ ((waiting (.tile 0)).setHere { (waiting (.tile 0)).here with level := 2 }).here.level.toNat := by unfold Written; decide +kernel
/-- A pointer to each space, to another core, and to none, at the last offset of a space and one past it. -/
theorem witness_SpecialRegisters_spaces : Written base [1, 2] ∧ base.cur.core < 1024 ∧ TakesTraps (trapsOn id)
    ∧ decodePtr 0x000FFFFFFFFFFFFF = some (0, none, 2 ^ 52 - 1) ∧ decodePtr 0xFFE00000007FFFFF = some (1, none, 2 ^ 23 - 1)
    ∧ decodePtr 0xFFD00000000FFFFF = some (2, some 0, 2 ^ 20 - 1) ∧ decodePtr 0xFFC0000000001FFF = some (3, some 0, 2 ^ 13 - 1)
    ∧ decodePtr 0xFFD00C0000004A40 = some (2, some 3, 0x4A40) ∧ decodePtr 0xFFE0000000800000 = none ∧ decodePtr 0x0010000000000000 = none :=
  ⟨written_of base_free, by decide +kernel, takesTraps, by decide +kernel⟩
theorem witness_SpecialRegisters_levels : Written (atLevel 2 id) [1, 2] ∧ 2 ≤ (atLevel 2 id).here.level.toNat ∧ TakesTraps (trapsOn id)
    ∧ (trapsOn id).here.level.toNat < 2 := ⟨written_of (by decide +kernel), by decide +kernel, takesTraps, by decide +kernel⟩
theorem witness_SpecialRegisters_format : (here fun c => { c with fmtq := List.replicate 15 0 }).here.fmtq.length < 16
    ∧ 16 ≤ (trapsOn fun c => { c with fmtq := List.replicate 16 0 }).here.fmtq.length ∧ TakesTraps (trapsOn fun c => { c with fmtq := List.replicate 16 0 }) :=
  ⟨by decide +kernel, by decide +kernel, by unfold TakesTraps; decide +kernel⟩
theorem witness_SpillMemory : Written base [3] ∧ base.here.spillBusy 8184 = false ∧ (waiting (.spill 8)).here.spillBusy 8 = true :=
  ⟨written_of base_free, by decide +kernel, by decide +kernel⟩
/-- A place in global memory, the cluster store, tile and spill memory. -/
theorem witness_AccessesLeave : MayLeave base [1, 2, 3] ∧ okAnd (base.placeOf 0x10008 8 .read false) (fun x => x.1 == .global 0x10008 0x40010008 false)
    ∧ okAnd (base.placeOf 0xFFE0000000000010 4 .write false) (fun x => x.1 == .cluster 0x10)
    ∧ okAnd (base.placeOf 0xFFD0000000000010 1 .read false) (fun x => x.1 == .tile 0x10)
    ∧ okAnd (base.placeOf 0xFFC0000000000010 2 .read false) (fun x => x.1 == .spill 0x10)
    ∧ okAnd (base.placeOf 0x10008 8 .readWrite true) (fun x => x.1 == .global 0x10008 0x40010008 false)
    ∧ ∀ pl ∈ [Place.global 0x10008 0x40010008 false, .cluster 0x10, .tile 0x10, .spill 0x10], pl.remote = false :=
  ⟨mayLeave_of base_free, by decide +kernel⟩
/-- Each check of a dereference fails somewhere: no pointer; another core's; misaligned; a region of the store that the rope does not hold; no
page; no right; poison. -/
theorem witness_DereferenceChecks : Written (trapsOn id) [1, 2, 3] ∧ TakesTraps (trapsOn id) ∧ decodePtr 0x0010000000000000 = none
    ∧ decodePtr 0xFFD00C0000004A40 = some (2, some 3, 0x4A40) ∧ decodePtr 0x10001 = some (0, none, 0x10001) ∧ 0x10001 % 2 ≠ 0
    ∧ decodePtr 0xFFE00000007FFFF8 = some (1, none, 0x7FFFF8) ∧ 0x7FFFF8 % 8 = 0 ∧ (trapsOn id).regionOk 0 0x7FFFF8 = false
    ∧ failsBy (({ trapsOn id with asids := [] } : State).mapCore 0 1 0x10000 8 .read) 0x08
    ∧ failsBy (({ trapsOn id with present := [] } : State).mapCore 0 1 0x10000 8 .write) 0x09
    ∧ failsBy (({ trapsOn id with poison := [0x40010] } : State).mapCore 0 1 0x10000 8 .read) 0x0E :=
  ⟨written_of (by decide +kernel), takesTraps, by decide +kernel⟩
/-- A load of each space that may perform. -/
theorem witness_AccessesPerform_load : ∀ pl ∈ [Place.tile 16, .spill 16, .cluster 16, .global 0x100 0x40000100 false],
    let s := waiting pl
    (s.core 0).accesses.find? (fun x => x.id == 7) = some { id := 7, cls := 2, place := pl, kind := .load 5 8 false, gen := 0, sent := none, bad := false, pc := 0, tick := 0, asid := none }
      ∧ (s.core 0).mayPerform { id := 7, cls := 2, place := pl, kind := .load 5 8 false, gen := 0, sent := none, bad := false, pc := 0, tick := 0, asid := none } = true
      ∧ (∀ a ∈ (s.core 0).accesses, s.servable 0 a = true) ∧ 0 = s.gen (s.worldOf 0) := by
  decide +kernel
/-- A store of four bytes of each space. -/
theorem witness_AccessesPerform_store : ∀ pl ∈ [Place.tile 16, .spill 16, .cluster 16, .global 0x100 0x40000100 false],
    let a : Access := { id := 7, cls := 2, place := pl, kind := .store [1, 2, 3, 4], gen := 0, sent := none, bad := false, pc := 0, tick := 0, asid := none }
    let s := here fun c => { c with accesses := [a] }
    (s.core 0).accesses.find? (fun x => x.id == a.id) = some a ∧ (s.core 0).mayPerform a = true ∧ s.servable 0 a = true ∧ a.gen = s.gen (s.worldOf 0) ∧ a.place.remote = false := by
  decide +kernel
theorem witness_AtomicPerforms : ∀ pl ∈ [Place.global 0x100 0x40000100 false, .cluster 16],
    let a : Access := { id := 7, cls := 2, place := pl, kind := .amo .min 5 4 1 0, gen := 0, sent := none, bad := false, pc := 0, tick := 0, asid := none }
    let s := here fun c => { c with accesses := [a] }
    (s.core 0).accesses.find? (fun x => x.id == a.id) = some a ∧ (s.core 0).mayPerform a = true ∧ s.servable 0 a = true ∧ a.gen = s.gen (s.worldOf 0) := by decide +kernel
/-- Nothing is out, and a store of class 2 is out, to durable memory; a routed write waits in a queue; a flight of `m.mac` has its rows to read; a message of
the core is on its way; a barrier of level 2 is routed. -/
theorem witness_FencesRetire : (4 : BitVec 3).toNat ≤ 4 ∧ base.here.accesses = [] ∧ base.here.flights = [] ∧ base.here.bars = []
    ∧ (∀ q ∈ base.here.queues, q.entries = [] ∧ q.susp = none) ∧ (∀ o ∈ base.outgoing, o.core ≠ base.cur.core)
    ∧ (∀ w ∈ base.durable, w.core = some base.cur.core → w.accepted = true)
    ∧ (let a : Access := { id := 7, cls := 2, place := .global 0x100 0x40000100 true, kind := .store [1], gen := 0, sent := none, bad := false, pc := 0, tick := 0, asid := none }
      (4 : BitVec 16).getLsbD a.cls = true ∧ a.place.scope ≤ 4 ∧ a.kind.writes = true ∧ (8 : BitVec 16).getLsbD a.cls = false)
    ∧ (2 : Nat) ≤ 1 + 1 ∧ ¬ (3 ≤ 1 + 1) ∧ scopeOf (.sPut (lw 3 0 0 0x10)) = some 0 ∧ classOf (.sPut (lw 3 0 0 0x10)) = 0
    ∧ (let w := unaccepted false true
      w ∈ ({ base with durable := [w] } : State).durable ∧ w.core = some base.cur.core ∧ (4 : BitVec 16).getLsbD w.cls = true ∧ w.failed = true)
    ∧ TakesTraps (trapsOn id) :=
  ⟨by decide +kernel, by decide +kernel, by decide +kernel, by decide +kernel, by decide +kernel, by decide +kernel, by decide +kernel, by decide +kernel,
   by decide, by decide, by decide +kernel, by decide +kernel, by decide +kernel, takesTraps⟩
/-- An instruction address, one that is not aligned, and the first one past the memory. -/
theorem witness_BranchTargets : Written (trapsOn id) [1] ∧ TakesTraps (trapsOn id) ∧ (0xFFF8 : Word).toNat % 8 = 0 ∧ (0xFFF8 : Word).toNat < 2 ^ 16
    ∧ (4 : Word).toNat % 8 ≠ 0 ∧ 2 ^ 16 ≤ (0x10000 : Word).toNat := ⟨written_of (by decide +kernel), takesTraps, by decide +kernel⟩
theorem witness_Branches : Written base [1] := written_of base_free
/-- Two engine faults of one tick wait, and the first engine's comes first. -/
theorem witness_TrapEntry :
    let f : PendingFault := { code := 0x10, sub := 2, value := 9, source := 1, slot := 3, upc := 0, tick := 5, nested := false, tpc := none }
    let s := trapsOn fun c => { c with pending := [{ f with source := 2 }, f] }
    TakesTraps s ∧ f ∈ s.here.pending ∧ f.code ∉ [0x28, 0x29, 0x2A] ∧ f.code < 256 ∧ f.sub < 256
      ∧ (∀ g ∈ s.here.pending, g = f ∨ f.tick < g.tick ∨ (f.tick = g.tick ∧ f.source < g.source)) := by unfold TakesTraps; decide +kernel
/-- A handler runs, called by the control core, and by engine M. -/
theorem witness_ReturnFromTrap : (let s := atLevel 2 fun c => { c with handler := true }
      2 ≤ s.here.level.toNat ∧ s.here.handler = true ∧ s.here.tinfo.toNat % 8 = 0)
    ∧ (let s := atLevel 2 fun c => { c with handler := true, tinfo := 2 }
      2 ≤ s.here.level.toNat ∧ s.here.handler = true ∧ s.here.tinfo.toNat % 8 = 1 + 1)
    ∧ (let s := (atLevel 2 fun c => { c with handler := true }).onRope ⟨1, 0⟩ fun r => { r with running := some { placedLaunch with adopted := false } }
      (s.ropeOf s.cur.core).any (fun r => r.running.any (fun l => !l.failed && !l.adopted && r.incoming.isNone && r.cores.all fun c =>
        (s.core c).accesses.isEmpty && (s.core c).flights.isEmpty && (s.core c).run == l.id && !asksFreeze (s.core c)) && s.outgoing.isEmpty)) := by decide +kernel
/-- A rope that a core has sealed, and one that it has not; and every level. -/
theorem witness_TrapInstructions : TakesTraps (trapsOn id) ∧ (trapsOn id).sealed (trapsOn id).cur.core = false
    ∧ (let s := base.onRope ⟨1, 0⟩ fun r => { r with freezing := .sealed 9 }; s.sealed s.cur.core = true)
    ∧ (trapsOn id).here.level.toNat < 2 ∧ TakesTraps (atLevel 2 id) ∧ 2 ≤ (atLevel 2 id).here.level.toNat ∧ (atLevel 2 id).here.level.toNat < 3 :=
  ⟨takesTraps, by decide +kernel, by decide +kernel, by decide +kernel, by unfold TakesTraps; decide +kernel, by decide +kernel, by decide +kernel⟩
/-- A trailer that sends 16 bytes to 0x200 and control to their start, one that is bad, and a source that has no page. -/
theorem witness_Overlay : Written (trapsOn id) [1, 2] ∧ TakesTraps (trapsOn id) ∧ trailerOk (0x40 * 2 ^ 32 + 0x40 * 2 ^ 16 + 8) 16 = true ∧ 0x1000 % 8 = 0
    ∧ (trapsOn id).pageFault 0 1 .read (pieces (16 / 65536 + 2) 0x1000 16) = none ∧ (trapsOn id).here.drained 0 = true
    ∧ (∀ g ∈ granules (16 / 4096 + 2) 0x1000 16, okAnd ((trapsOn id).mapCore 0 1 g.1 g.2 .read) (fun m => m.1.medium != .peer)
      ∧ (trapsOn id).copyBehind .read g = false)
    ∧ Fits (trapsOn id) (fun _ => (trapsOn id).requester 0) ((trapsOn id).here.moving.getD ((trapsOn id).pieceUnits 1 .read (granules (16 / 4096 + 2) 0x1000 16)))
    ∧ ¬ Fits (refreshing (trapsOn id)) (fun _ => (refreshing (trapsOn id)).requester 0)
        ((refreshing (trapsOn id)).here.moving.getD ((refreshing (trapsOn id)).pieceUnits 1 .read (granules (16 / 4096 + 2) 0x1000 16)))
    ∧ (let s := trapsOn fun c => { c with accesses := [{ id := 7, cls := 0, place := .global 0x1000 0x40001000 false, kind := .store [1], gen := 0, sent := none, bad := false, pc := 0, tick := 0, asid := none }] }
      ∃ g ∈ granules (16 / 4096 + 2) 0x1000 16, s.copyBehind .read g = true)
    ∧ trailerOk (0x40 * 2 ^ 32 + 0x41 * 2 ^ 16) 16 = false ∧ 0x1004 % 8 ≠ 0
    ∧ ({ trapsOn id with asids := [] } : State).pageFault 0 1 .read (pieces (16 / 65536 + 2) 0x1000 16) = some (8, 0x1000) :=
  ⟨written_of (by decide +kernel), takesTraps, by unfold Fits; decide +kernel⟩
/-- Before its read leaves; the value is back and differs, or its timeout had passed when it came; the read is out. -/
theorem witness_WaitOnWord : Written base [1, 2, 3] ∧ okAnd (base.placeOf (base.here.reg 2) 8 .read false) (fun _ => true) ∧ base.here.accesses.length < 16
    ∧ base.here.wfe = none
    ∧ (let s := here fun c => { c with wfe := some { start := 0, reading := false, value := some 0, back := 1900 } }
       s.here.wfe = some { start := 0, reading := false, value := some 0, back := 1900 } ∧ (5 : Word).toNat ≠ (s.here.reg 3).toNat % 2 ^ 64
         ∧ (1 : BitVec 24).toNat ≠ 0 ∧ (1 : BitVec 24).toNat * 1900 ≤ (1900 : Word).toNat - (0 : Word).toNat
         ∧ ¬ (2 : BitVec 24).toNat * 1900 ≤ (1900 : Word).toNat - (0 : Word).toNat ∧ s.gtc.toNat < (1900 : Word).toNat + 256
         ∧ (1900 : Word).toNat + 256 ≤ ({ s with gtc := 2156 } : State).gtc.toNat)
    ∧ (let s := here fun c => { c with wfe := some { start := 0, reading := true, value := none, back := 0 } }
       s.here.wfe = some { start := 0, reading := true, value := none, back := 0 }) := ⟨written_of base_free, by decide +kernel⟩
/-- The polling `k.wfe` stands at the pc, its value back and equal, 256 ticks ago and before its timeout. -/
theorem witness_WaitOnWord_poll :
    let s := { (here fun c => { c with im := cellsAt 0 (leBytes 8 0x10CB540000000000), wfe := some { start := 0, reading := false, value := some 0, back := 0 } })
      with gtc := 256 }
    s.fetch = 0x10CB540000000000
      ∧ s.here.wfe.any (fun w => !w.reading && w.value == some 0 && decide (w.back.toNat + 256 ≤ s.gtc.toNat)) := by decide +kernel
/-- A second rope, of one core beside core 0, in a freeze state; `scom` covers rope 1. -/
def withNeighbour (f : Freezing) (scom : Word) : State :=
  let s := atLevel 2 fun c => { c with scom := scom, s := c.s.set 2 (1 + 2 ^ 16 + 2 ^ 24) }
  let t := { s with ropes := s.ropes ++ [{ placedRope with key := ⟨1, 1⟩, origin := 1, freezing := f, running := some { placedLaunch with id := 2 } }] }
  t.setCore 1 { Core.clear with rope := some ⟨1, 1⟩, run := 2 }
/-- Core 5 has been at a scan instruction for the rope beside core 0 since before core 0 came. -/
def scannedBy5 (s : State) : State :=
  { s with serial := s.serial + 1 }.onCore 5 fun c => { c with scan := some { rect := 1 + 2 ^ 16 + 2 ^ 24, ticket := s.serial, stage := .out 8 } }
theorem witness_Ownership : Written (atLevel 3 id) [1, 2] ∧ 3 ≤ (atLevel 3 id).here.level.toNat
    ∧ (let s := withNeighbour .no 0; TakesTraps s ∧ 2 ≤ s.here.level.toNat ∧ Written s [1, 2, 2] ∧ s.here.scan = none
        ∧ rectOf (s.here.reg 2) = some (1, 1, 1) ∧ s.cur.core ∉ rectCores 1 1 1 ∧ rectOf (2 ^ 16) = none ∧ (0 ∈ rectCores 0 1 1)
        ∧ (s.ropeOf 1).any (fun r => r.origin == 1 && r.width == 1 && r.height == 1) ∧ scomCovers s.here.scom 1 = false)
    ∧ (let s := withNeighbour .frozen (2 * 2 ^ 12); scomCovers s.here.scom 1 = true ∧ s.worldOf 0 = 1
        ∧ (s.ropeOf 1).any (fun r => r.key == ⟨1, 1⟩ && !mayFreeze r.freezing)) :=
  ⟨written_of (by decide +kernel), by decide +kernel,
   ⟨by unfold TakesTraps; decide +kernel, by decide +kernel, written_of (by decide +kernel), by decide +kernel⟩, by decide +kernel⟩
/-- `k.frz` of a rope that runs, of an idle one, of one that another core has sealed, and of one that is frozen by now, with every access dealt with and with
one that is out; and a freeze that takes effect, in a rope with a launch and in an idle one. -/
theorem witness_FreezeAndThaw_freeze : (let s := withNeighbour .no (2 * 2 ^ 12); 2 ≤ s.here.level.toNat ∧ Written s [1, 2, 3] ∧ s.here.scan = none
      ∧ okAnd (s.owned (s.here.reg 2) true mayFreeze) (· == [1]) ∧ okAnd (s.owned (s.here.reg 2) true (fun _ => true)) (· == [1])
      ∧ s.scanBehind (s.here.reg 2) = false ∧ (scannedBy5 s).scanBehind ((scannedBy5 s).here.reg 2) = true
      ∧ (s.ropeAt [1]).any (fun r => s.rope? r.key == some r && r.freezing == .no && r.running.isSome))
    ∧ (let s := (withNeighbour .no (2 * 2 ^ 12)).onRope ⟨1, 1⟩ fun r => { r with running := none }
      okAnd (s.owned (s.here.reg 2) true mayFreeze) (· == [1]) ∧ (s.ropeAt [1]).any (fun r => r.freezing == .no && r.running.isNone && r.incoming.isNone))
    ∧ (let s := withNeighbour (.sealed 9) (2 * 2 ^ 12)
      okAnd (s.owned (s.here.reg 2) true mayFreeze) (· == [1]) ∧ (s.ropeAt [1]).any (fun r => r.freezing == .sealed 9))
    ∧ (∀ f ∈ [Freezing.frozen, .no, .sealed 9], let s := withNeighbour f (2 * 2 ^ 12); let t := s.setHere { s.here with scan := some { rect := s.here.reg 2, ticket := s.serial, stage := .frz ⟨1, 1⟩ } }
      okAnd (t.owned (t.here.reg 2) true (fun _ => true)) (· == [1]) ∧ t.scanBehind (t.here.reg 2) = false ∧ (t.core 1).flights = []
        ∧ (∀ o ∈ t.outgoing, o.core ≠ 1) ∧ (t.core 1).accesses = [])
    ∧ (let s := refreshing ((withNeighbour .frozen (2 * 2 ^ 12)).onCore 1 fun c => { c with accesses := (waiting (.global 0x100 0x40000100 false)).here.accesses })
      (s.settleCores [1]).stillOut [1] = true)
    ∧ (∀ run ∈ [some placedLaunch, none], let s := base.onRope ⟨1, 0⟩ fun r => { r with freezing := .sealed 9, running := run }
      (s.rope? s.cur.rope).any fun r => r.freezing == .sealed 9 && r.running == run) :=
  ⟨⟨by decide +kernel, written_of (by decide +kernel), by decide +kernel⟩, by decide +kernel, by decide +kernel, by decide +kernel, by decide +kernel, by decide +kernel⟩
/-- `k.thaw` of a whole rope with a scanned image and without, of one that is not whole, of one whose images disagree, and while another core scans it; and a
rope that resumes, with a debug event and without. -/
theorem witness_FreezeAndThaw_thaw : (∀ ticks ∈ [[7], []], let s := (withNeighbour .frozen (2 * 2 ^ 12)).onCore 1 fun c => { c with segments := 0x3FF, scanTicks := ticks }
      okAnd (s.owned (s.here.reg 2) true isFrozen) (· == [1]) ∧ (s.ropeAt [1]).any (fun r => s.rope? r.key == some r) ∧ s.scanBehind (s.here.reg 2) = false
      ∧ (∀ c ∈ [1], (s.core c).segments = 0x3FF ∧ (s.core c).scanTicks = ticks))
    ∧ (let s := withNeighbour .frozen (2 * 2 ^ 12); TakesTraps s ∧ (s.core 1).segments ≠ 0x3FF)
    ∧ (let s := (withNeighbour .frozen (2 * 2 ^ 12)).onCore 1 fun c => { c with scanTicks := [7, 8] }
      ∃ x ∈ (s.core 1).scanTicks, ∃ y ∈ (s.core 1).scanTicks, x ≠ y)
    ∧ (let s := scannedBy5 (withNeighbour .frozen (2 * 2 ^ 12)); s.scanBehind (s.here.reg 2) = true ∧ s.here.scan = none
      ∧ okAnd (s.owned (s.here.reg 2) true (fun _ => true)) (· == [1]))
    ∧ (let s := base.onRope ⟨1, 0⟩ fun r => { r with freezing := .thawing 32 }
      (s.rope? s.cur.rope).any fun r => r.freezing == .thawing 32 && r.cores.all fun c => (s.core c).dbgEvent.isNone)
    ∧ (let s := (trapsOn fun c => { c with dbgEvent := some (true, 5) }).onRope ⟨1, 0⟩ fun r => { r with freezing := .thawing 1 }
      (s.rope? s.cur.rope).any fun r => r.cores.all fun c => (s.core c).dbgEvent.isSome && (s.core c).accesses.isEmpty && !(s.core c).fatal 3
        && !asksFreeze (s.core c)) :=
  ⟨by decide +kernel, ⟨by unfold TakesTraps; decide +kernel, by decide +kernel⟩, by decide +kernel, by decide +kernel, by decide +kernel, by decide +kernel⟩/-- A sound image of the spill segment or the control segment at 0x10000 for the rope beside core 0. -/
def imaged (bytes : List Byte) : State :=
  let s := withNeighbour .frozen (2 * 2 ^ 12)
  let keys := s.keys ++ (List.range ((bytes.length + 63) / 64)).map fun u => (0x1000400 + u, s.worldKey 1)
  { (s.setHere (s.here.setReg 1 0x10000)) with mem := s.mem ++ cellsAt 0x40010000 bytes, keys := keys }
/-- The checks of `k.scan.out` pass, once for all ten segments; another scan of the core is in progress; a misaligned address; and an image whose units have
been accepted, wait, and have failed. -/
theorem witness_ScanImages_out : (let s := imaged []
      2 ≤ s.here.level.toNat ∧ Written s [3, 1, 2] ∧ s.here.scan = none ∧ okAnd (s.owned (s.here.reg 2) false isFrozen) (· == [1])
      ∧ okAnd (s.owned (s.here.reg 2) false (fun _ => true)) (· == [1]) ∧ (s.scanAt (s.here.reg 2) .turn).scanBehind (s.here.reg 2) = false
      ∧ rectOf (s.here.reg 2) = some (1, 1, 1) ∧ (s.here.reg 1).toNat % 256 = 0
      ∧ s.pageFault s.cur.core s.here.level.toNat .write (pieces (0x80000 / 65536 + 2) 0x10000 0x80000) = none
      ∧ okAnd (s.mapCore s.cur.core s.here.level.toNat 0x10000 1328 .write) (fun x => x.1.medium != .peer) ∧ 0x10000 % 65536 + 1328 ≤ 65536
      ∧ ∀ p ∈ pieces (1328 / 65536 + 2) 0x10000 1328, s.copyBehind .write p = false)
    ∧ (let s := (scannedBy5 (imaged [])).scanAt (1 + 2 ^ 16 + 2 ^ 24) .turn; s.scanBehind (1 + 2 ^ 16 + 2 ^ 24) = true)
    ∧ (let s := imaged []; let t := s.setHere { s.here with scan := some { rect := s.here.reg 2, ticket := s.serial, stage := .out 1328 } }
      t.here.scan = some { rect := s.here.reg 2, ticket := s.serial, stage := .out 1328 }
        ∧ ∀ x ∈ t.durable, x.core = some t.cur.core → x.image = true → x.accepted = true)
    ∧ (let s := imaged []; let t := s.setHere { s.here with moving := some [0x1000400], accesses := [{ id := 7, cls := 0, place := .global 0x10000 0x40010000 false, kind := .store [1], gen := 0, sent := none, bad := false, pc := 0, tick := 0, asid := none }] }
      t.copyBehind .write (0x10000, 1328) = true)
    ∧ (∀ failed ∈ [false, true], let w := unaccepted true failed
      w ∈ ({ imaged [] with durable := [w] } : State).durable ∧ w.core = some (imaged []).cur.core ∧ w.image = true ∧ w.failed = failed)
    ∧ (0x10010 : Word).toNat % 256 ≠ 0 ∧ TakesTraps (imaged []) :=
  ⟨⟨by decide +kernel, written_of (by decide +kernel), by decide +kernel⟩, by decide +kernel, by decide +kernel, by decide +kernel, by decide +kernel, by decide,
   by unfold TakesTraps; decide +kernel⟩
/-- An image of one unit has room in a slot that serves its writer, and none in the Refresh slot: for both scan instructions. -/
theorem witness_ScanImages_room : let s := (imaged []).setHere { (imaged []).here with moving := some [0x1000400] }
    Fits s s.scannerHere (s.here.moving.getD []) ∧ ¬ Fits (refreshing s) (refreshing s).scannerHere ((refreshing s).here.moving.getD [])
      ∧ Fits (s.scanAt (s.here.reg 2) .turn) (s.scanAt (s.here.reg 2) .turn).scannerHere (s.here.moving.getD []) := by unfold Fits; decide +kernel
theorem witness_ScanImages_header : (1 : Nat) < 1024 ∧ gridX 1 + 1 ≤ 32 ∧ gridY 1 + 1 ≤ 32 ∧ ((imaged []).ropeAt (rectCores 1 1 1)).any (fun r =>
    decide (r.captured < 2 ^ 64) && decide (r.key.world < 256)) ∧ ((imaged []).image 1 1 1 0 7 false (fun _ => 0)).length < 2 ^ 64 := by decide +kernel
/-- An image of no segment, byte by byte (R219): its header, and the SHA-384 digest of the empty body. -/
def emptyImage : List Byte :=
  [0x53, 0x43, 0x41, 0x4E, 1, 0, 1, 0, 1, 0, 1, 1] ++ List.replicate 20 0 ++ [1] ++ List.replicate 31 0 ++ List.replicate 40 0xFF ++ List.replicate 152 0
    ++ [0x38, 0xb0, 0x60, 0xa7, 0x51, 0xac, 0x96, 0x38, 0x4c, 0xd9, 0x32, 0x7e, 0xb1, 0xb1, 0xe3, 0x6a, 0x21, 0xfd, 0xb7, 0x11, 0x14, 0xbe, 0x07, 0x43,
        0x4c, 0x0c, 0xc7, 0xbf, 0x63, 0xf6, 0xe1, 0xda, 0x27, 0x4e, 0xde, 0xbf, 0xe7, 0x6f, 0x65, 0xfb, 0xd5, 0x1a, 0xd2, 0xf1, 0x48, 0x98, 0xb9, 0x5b]
theorem witness_ScanImages_in : let s := imaged emptyImage
    2 ≤ s.here.level.toNat ∧ Written s [3, 1, 2] ∧ okAnd (s.owned (s.here.reg 2) false isFrozen) (· == [1])
      ∧ okAnd (s.owned (s.here.reg 2) false (fun _ => true)) (· == [1]) ∧ (s.scanAt (s.here.reg 2) .turn).scanBehind (s.here.reg 2) = false
      ∧ (∀ p ∈ pieces (304 / 65536 + 2) 0x10000 304, s.copyBehind .read p = false) ∧ s.lacking s.here.level.toNat (pieces (304 / 65536 + 2) 0x10000 304) = none
      ∧ s.pageFault s.cur.core s.here.level.toNat .read (pieces (304 / 65536 + 2) 0x10000 304) = none ∧ s.scanPoison 0x10000 304 = none :=
  ⟨by decide +kernel, written_of (by decide +kernel), by decide +kernel⟩
theorem witness_ScanImages_read : (imaged emptyImage).scanRead 0x10000 304 = emptyImage := by decide +kernel
theorem witness_ScanImages_checks : imageLen emptyImage = 304 ∧ (imaged []).headerFails (emptyImage.take 256) 0 1 1 1 1 false = none
    ∧ shiftFails emptyImage 0 1 (fun _ _ => none) = none ∧ (imaged []).headerFails (emptyImage.take 256) 1 1 1 1 1 false = some 12 := by decide +kernel
theorem witness_ScanImages_digest : emptyImage.drop 256 = sha384 [] := by decide +kernel
/-- Integer types from the lowest to the highest, and the floating ones. -/
theorem witness_VectorIntegers : (vr 3 1 2 0 0).t.toNat ≤ 5 ∧ (vr 3 1 2 5 0).t.toNat ≤ 5 := by decide
theorem witness_VectorFloats : ∀ t ∈ [(6 : BitVec 4), 7, 8], 6 ≤ (vr 3 1 2 t 0).t.toNat ∧ (vr 3 1 2 t 0).t.toNat ≤ 8 := by decide
/-- 1 and a third of the smallest subnormal, in every format. -/
theorem witness_ExactArithmetic : ∀ f ∈ [(6 : BitVec 4), 7, 8, 9, 10], (floatParams f).isSome ∧ (1 : Nat) ≠ 0 := by decide
theorem witness_VectorConversions : (vr 3 1 2 5 6).t.toNat ≤ 5 ∧ (∀ k ∈ [(1 : BitVec 5), 6], 1 ≤ (vr 3 1 2 8 k).m.toNat ∧ (vr 3 1 2 8 k).m.toNat ≤ 6)
    ∧ (∀ t ∈ [(6 : BitVec 4), 8], 6 ≤ (vr 3 1 2 t 1).t.toNat ∧ (vr 3 1 2 t 1).t.toNat ≤ 8) ∧ (vr 3 1 0 12 7).m.toNat < 32 / 4
    ∧ (vr 3 1 0 2 0).m.toNat < 32 / 16 := by decide
/-- An instance issues on core 0: its instruction, queue, values, format and shape, with sets that reach over most of tile memory. -/
def issuing (i : Instr) (q : Nat) (va vb fmt : Word) (shape : Option ShapeRec) (f : Core → Core) : State :=
  let e : Entry := { Job.idle.entry with ins := i, va := va, vb := vb, fmt := fmt, shape := shape }
  { here f with cur := { base.cur with job := { Job.idle with q := q, t := 500, reads := [0xFFF000], writes := [0xFFF000], entry := e } } }
/-- Whether n bytes lie in the sets of an instance. -/
def reached (s : State) (write : Bool) (a : Int) (n : Nat) : Bool :=
  decide (0 ≤ a) && (List.range n).all fun k => (if write then s.cur.job.writes else s.cur.job.reads ++ s.cur.job.writes).any fun r => inRange r (a.toNat + k)
/-- All 64 lanes of four bytes reach the sets; at 0xFFF00 the first lane does not; at 0x101 it is misaligned; a step puts the base past the memory. -/
theorem witness_VectorMemory : (let s := issuing (.vLd (vm 3 0 2 0x100)) 2 8 0 0 none id
      (2 : Nat) ^ (vm 3 0 2 0x100).w.toNat ≤ 4
      ∧ (∀ j < 64, ((0x100 + j * 4 : Nat) : Int) % 4 = 0 ∧ reached s false (0x100 + j * 4 : Nat) 4 ∧ reached s true (0x100 + j * 4 : Nat) 4)
      ∧ reached s false 0xFFF00 4 = false ∧ (0x101 : Int) % 4 ≠ 0 ∧ 0x100 % 8 = 0 ∧ reached s true 0x100 8)
    ∧ (let s := { base with cur := { base.cur with job := { Job.idle with tileStep := 4095 } } }
      2 ^ 20 ≤ (vm 3 0 2 0x100).addr.toNat + s.cur.job.tileStep * 256) := by decide +kernel
/-- The i8 × i8 format word, and its A rows. -/
theorem witness_Multiplications : (let s := issuing (.mMac (mw 0 3 0 0x4000 0)) 1 0 0 0 none id
      s.here.freeAt 3 ≤ s.cur.job.t ∧ (mw 0 3 0 0x4000 0).m.getLsbD 1 = false ∧ 0x4000 % 256 = 0 ∧ 0x4000 + 64 * pitch (fmtA 0) + 128 ≤ 2 ^ 20
      ∧ fmtScalesA 0 = false ∧ reached s false 0x4000 (64 * pitch (fmtA 0)) ∧ (mw 0 3 0 0 2).m.getLsbD 1 = true) := by decide +kernel
theorem witness_MatrixStores : (let s := issuing (.mOut (mw 2 3 0 0x8000 0)) 1 0 0 0 none id
      s.here.shadowUsed ≤ s.cur.job.t ∧ s.here.freeAt 2 ≤ s.cur.job.t ∧ s.here.freeAt 3 ≤ s.cur.job.t ∧ s.here.freeAt 4 ≤ s.cur.job.t
      ∧ s.here.freeAt 5 ≤ s.cur.job.t ∧ s.here.planeLoading s.cur.job.t = false ∧ fmtScalesB 0 = false ∧ reached s true 0x8000 (64 * pitch (fmtOut 0) + 8)
      ∧ reached s false 0x8000 (64 * pitch (fmtB 0)) ∧ 0x8000 + 64 * pitch (fmtOut 0) + 8 ≤ 2 ^ 20)
    ∧ (let s := issuing (.mOut (mw 2 3 0 0x8000 0)) 1 0 0 0 none fun c => { c with busy := List.replicate 6 501 }
      s.cur.job.t < s.here.freeAt 2 ∧ s.cur.job.t < s.here.freeAt 3 ∧ s.cur.job.t < s.here.freeAt 4 ∧ s.cur.job.t < s.here.freeAt 5)
    ∧ (mw 5 3 63 0 0).bank.toNat * 256 + (mw 5 3 63 0 0).dir.toNat * 64 + (mw 5 3 63 0 0).idx.toNat < 1536
    ∧ 1536 ≤ (mw 6 0 0 0 0).bank.toNat * 256 + (mw 6 0 0 0 0).dir.toNat * 64 + (mw 6 0 0 0 0).idx.toNat
    ∧ (0 : BitVec 4).toNat ≤ 1 ∧ (1 : BitVec 4).toNat ≤ 1 ∧ (mw 0 3 0 0 0).dir = 3 ∧ (mw 0 2 5 0 0).dir ≠ 3 := by decide +kernel
/-- A matrix of 4 × 4 bytes at 0x20000. -/
def bytes4 : ShapeRec := { base := 0x20000, format := 1, rank := 2, rights := 3, size := [4, 4, 1, 1], stride := [1, 4, 0, 0], index := 0x40000 }
/-- The checks of a list of ranges pass: the parts of `LsPasses`. -/
def passes (s : State) (spans : List (Nat × Nat × Bool × Nat)) : Bool :=
  let j := s.cur.job
  decide (s.here.freeAt (lsPath j) ≤ j.t) && (!stepsIndex j.entry.ins || j.entry.shape.isNone || decide (j.idx (j.shape.rank - 1) < j.shape.dim (j.shape.rank - 1)))
    && (j.entry.shape.isNone || j.shape.base % j.elemBytes == 0)
    && spans.all fun x => decide (x.1 + x.2.1 ≤ x.2.2.2) && x.1 % 256 == 0
        && (x.2.2.2 != 2 ^ 20 || (List.range x.2.1).all fun k => (if x.2.2.1 then j.writes else j.reads ++ j.writes).any fun r => inRange r (x.1 + k))
theorem passes_iff {s : State} {spans : List (Nat × Nat × Bool × Nat)} (h : passes s spans = true) : LsPasses s spans := by
  simp only [passes, Bool.and_eq_true, decide_eq_true_eq, Bool.or_eq_true, Bool.not_eq_true', Option.isNone_iff_eq_none, beq_iff_eq, List.all_eq_true,
    bne_iff_ne, ne_eq, List.mem_range, List.any_eq_true] at h
  obtain ⟨⟨⟨h1, h2⟩, h3⟩, h4⟩ := h
  refine ⟨h1, fun a b => ?_, fun b => ?_, fun x hx => ⟨(h4 x hx).1.1, (h4 x hx).1.2, fun a k hk => ?_⟩⟩
  · rcases h2 with (h2 | h2) | h2
    · rw [a] at h2; cases h2
    · exact absurd h2 b
    · exact h2
  · exact h3.resolve_left b
  · exact (h4 x hx).2.resolve_left (fun n => n a) k hk
/-- Row transfers: the checks pass, and every element of the first row of the box is there. -/
def rowsPass (i : Instr) (q : Nat) (e1 : Word) (write : Bool) : Bool :=
  let s := issuing i q e1 0 0 (some bytes4) id
  let j := s.cur.job
  passes s [(j.tileAt, j.rows * j.pitch, !write, 2 ^ 20)] && (s.spotFault s.cur.core j (if write then .write else .read) ((j.rowAccs (j.idx 1)).map (·.1))).isNone
/-- From the first row of the matrix, and from its last. -/
theorem witness_EngineLoads_rows : rowsPass (.lGet (lw 3 0 0 0x10)) 0 0 false = true ∧ rowsPass (.lGet (lw 3 0 0 0x10)) 0 (3 * 2 ^ 32) false = true := by decide +kernel
theorem witness_EngineStores_rows : rowsPass (.sPut (lw 3 0 0 0x10)) 3 0 true = true ∧ rowsPass (.sRed (lw 3 0 0 0x10)) 3 0 true = true := by decide +kernel
/-- Transfers whose ranges the checks pass: an instruction, its queue and values, a shape or none, and its ranges. -/
def spansPass (i : Instr) (q : Nat) (va vb : Word) (shape : Option ShapeRec) (spans : Job → List (Nat × Nat × Bool × Nat)) (more : State → Job → Bool) : Bool :=
  let s := issuing i q va vb 0 shape id
  passes s (spans s.cur.job) && more s s.cur.job
theorem witness_EngineLoads_getb : spansPass (.lGetb (lw 3 0 0 0x10)) 0 0 0 (some { bytes4 with rank := 1 }) (fun j => [(j.tileAt, 256 * j.units, true, 2 ^ 20)])
    (fun s j => (s.spotFault s.cur.core j .read (j.unitAccs 0)).isNone) = true := by decide +kernel
theorem witness_EngineLoads_gath : spansPass (.lGath (lw 3 0 0 0x10)) 0 0 0x8000 (some bytes4)
    (fun j => [(j.entry.vb.toNat % 2 ^ 20, 256, false, 2 ^ 20), (j.tileAt, 64 * j.pitch, true, 2 ^ 20)]) (fun _ _ => true) = true := by decide +kernel
theorem witness_EngineLoads_cget : spansPass (.lCget (lw 0 0 0 0x10)) 0 0 1 none
    (fun j => [(j.entry.va.toNat % 2 ^ 23, 256 * j.units, false, 2 ^ 23), (j.tileAt, 256 * j.units, true, 2 ^ 20)])
    (fun s j => decide (0 < j.units) && s.regionOk s.cur.core (j.entry.va.toNat % 2 ^ 23)) = true := by decide +kernel
theorem witness_EngineLoads_tcpy : spansPass (.lTcpy (lw 0 0 0 0x10)) 0 0x8000 1 none
    (fun j => [(j.entry.va.toNat % 2 ^ 20, 256 * j.units, false, 2 ^ 20), (j.tileAt, 256 * j.units, true, 2 ^ 20)]) (fun _ _ => true) = true := by decide +kernel
theorem witness_EngineLoads_zero : spansPass (.lZero (lw 0 0 0 0x10)) 0 0 1 none (fun j => [(j.tileAt, 256 * j.units, true, 2 ^ 20)]) (fun _ _ => true) = true := by
  decide +kernel
theorem witness_EngineLoads_pref : spansPass (.lPref (lw 3 0 0 0)) 0 0 0 (some bytes4) (fun _ => [])
    (fun s j => (s.spotFault s.cur.core j .read ((List.range j.rows).flatMap fun r => (j.rowAccs (j.idx 1 + r)).map (·.1))).isNone) = true := by decide +kernel
theorem witness_CodedLoads_getw : spansPass (.lGetw (lw 3 0 0 0x10)) 0 0 0 (some bytes4) (fun j => [(j.tileAt, 1, true, 1536 * 256)])
    (fun s j => (s.spotFault s.cur.core j .read [(j.indexVa, 8)]).isNone && okAnd (s.spot s.cur.core j .read j.indexVa 8) fun x => x.1.medium != .peer
      && (List.range 8).all fun i => !s.isOpen s.cur.core (x.1.pa + i)) = true := by
  decide +kernel
theorem witness_CodedLoads_cbld : spansPass (.lCbld (lw 3 0 0 3)) 0 0 0 (some bytes4) (fun _ => [])
    (fun s j => (s.spotFault s.cur.core j .read (rangeAccs (j.shape.place j.indices).1 256)).isNone) = true := by decide +kernel
theorem witness_CodedLoads_row : spansPass (.lGet (lw 3 0 0 0x10)) 0 0 0 (some bytes4) (fun _ => []) (fun s j => (List.range j.cols).all fun k =>
    okAnd (s.spot s.cur.core j .read (j.rowElems 0)[k]!.1 j.elemBytes) fun x => x.1.medium != .peer
      && (List.range j.elemBytes).all fun i => !s.isOpen s.cur.core (x.1.pa + i)) = true := by decide +kernel
theorem witness_EngineStores_scat : spansPass (.sScat (lw 3 0 0 0x10)) 3 0 0x8000 (some bytes4)
    (fun j => [(j.entry.vb.toNat % 2 ^ 20, 256, false, 2 ^ 20), (j.tileAt, 64 * j.pitch, false, 2 ^ 20)]) (fun _ _ => true) = true := by decide +kernel
theorem witness_EngineStores_cput : spansPass (.sCput (lw 0 0 0 0x10)) 3 0 1 none
    (fun j => [(j.tileAt, 256 * j.units, false, 2 ^ 20), (j.entry.va.toNat % 2 ^ 23, 256 * j.units, true, 2 ^ 23)])
    (fun s j => s.regionOk s.cur.core (j.entry.va.toNat % 2 ^ 23)) = true := by decide +kernel
theorem witness_EngineStores_sig : spansPass (.sSig (lw 0 0 0 0)) 3 0x20008 1 none (fun _ => []) (fun s j => decide (s.here.freeAt 1 ≤ j.t)
    && j.entry.va.toNat % 8 == 0 && okAnd (s.spot s.cur.core j .write (j.entry.va.toNat : Int) 8) fun x => x.1.medium != .peer) = true := by decide +kernel
theorem witness_EngineStores_pbar : spansPass (.sPbar (lw 0 0 0 0)) 3 0 0 none (fun _ => []) (fun s j => decide (s.here.freeAt 1 ≤ j.t)
    && !s.strict s.cur.core) = true := by decide +kernel
/-- Each issue fault: a busy engine; an index at the end of its dimension; a range past the store; a skew base; a byte outside the sets. -/
theorem witness_EngineFaults : (let s := issuing (.lGet (lw 3 0 0 0x10)) 0 0 0 0 (some bytes4) fun c => { c with busy := List.replicate 6 501 }
      s.cur.job.t < s.here.freeAt (lsPath s.cur.job))
    ∧ (let j := (issuing (.lGet (lw 3 0 0 0x10)) 0 (4 * 2 ^ 32) 0 0 (some bytes4) id).cur.job
      stepsIndex j.entry.ins = true ∧ j.shape.dim (j.shape.rank - 1) ≤ j.idx (j.shape.rank - 1))
    ∧ (let j := (issuing (.lGet (lw 3 0 0 0xFFF)) 0 0 0 0 (some { bytes4 with format := 4 }) id).cur.job; 2 ^ 20 < j.tileAt + j.rows * j.pitch)
    ∧ (let j := (issuing (.lGet (lw 3 0 0 0x10)) 0 0 0 0 (some { bytes4 with base := 0x20001, format := 4 }) id).cur.job; j.shape.base % j.elemBytes ≠ 0)
    ∧ (let s := issuing (.lZero (lw 0 0 0 0xFFF)) 0 0 1 0 none id
      let j := s.cur.job; j.tileAt + 256 * j.units ≤ 2 ^ 20 ∧ j.tileAt % 256 = 0 ∧ ∀ r ∈ j.writes, inRange r j.tileAt = false) := by decide +kernel
/-- An entry at the head of a queue with a base; a loop on its first and last initiation, and before and after them; a barrier of level 0 alone
and shared; and `dom4`. -/
theorem witness_QueueInstructions : (let s := queued 1 (.yTchk (yw 4 10)) id
      (s.here.queues[s.cur.job.q]?).any fun q => q.entries == [s.cur.job.entry] && q.base == some 1000
        && s.cur.job.entry.fixedT.getD (q.nextT + 0) == 1000 + 10)
    ∧ (∀ t ∈ [0, 12], (0 : Nat) ≤ t ∧ t < 0 + (3 + 2 - 1) * 4 ∧ (t - 0) % 4 = 0) ∧ 0 + (3 + 2 - 1) * 4 ≤ 16 ∧ (3 - 0) % 4 ≠ 0
    ∧ (encode (.yBar (yw 1 (4 * 2 ^ 31)))).isSome ∧ base.here.dom4.getLsbD 63 = false
    ∧ (here fun c => { c with dom4 := 2 ^ 63 }).here.dom4.getLsbD 63 = true := by decide +kernel
theorem witness_QueueInstructions_bar : (let s := queued 0 (.yBar (yw 8 0)) id
      (List.range 4).all fun k => k == 0 || ((s.here.queues[k]?).any fun x => x.entries.all fun e => e.seq != s.cur.job.entry.seq))
    ∧ (let s := queued 0 (.yBar (yw 12 0)) id
      let t := s.setHere { s.here with queues := alter s.here.queues 1 fun x => { x with entries := [s.cur.job.entry] } }
      (t.here.queues[1]?).any fun x => x.entries.any fun e => e.seq == t.cur.job.entry.seq) := by decide +kernel
/-- A matrix record of 4 × 4 bytes in the record table at 0x10000, number 3, and queues past their `y.align`. -/
def routable (f : Core → Core) : State :=
  let s := trapsOn fun c => f { c with shbase := 0x10000, shlim := 4, queues := c.queues.map fun q => { q with base := some 0 } }
  let rec_ := leBytes 8 0x20000 ++ [1, 2, 3] ++ List.replicate 5 (0 : Byte) ++ leBytes 4 4 ++ leBytes 4 4 ++ leBytes 4 1 ++ leBytes 4 1
    ++ leBytes 4 1 ++ leBytes 4 4 ++ List.replicate 24 0
  { s with mem := s.mem ++ cellsAt 0x400100C0 rec_, keys := s.keys ++ [(0x1000403, s.worldKey 1)] }
theorem witness_Routing : let s := routable id
    queuesOf (.lGet (lw 3 4 5 0x40)) = [0] ∧ (∀ c ∈ typeCodes (.vAdd (vr 1 2 3 6 0)), s.formatOn c = true)
      ∧ (s.here.queues[0]?).any (fun x => !x.refuses (.lGet (lw 3 4 5 0x40)))
      ∧ okAnd (s.mapCore 0 2 0x100C0 64 .read) (fun m => m.1.medium != .peer && !s.here.recordBusy m.1
        && s.shapeFault (.lGet (lw 3 4 5 0x40)) (s.readBytes (s.keyFor 1 m.1.durable) m.1.pa 64) 0 0 == none)
      ∧ valueFault (.lGet (lw 3 4 5 0x40)) 0 0 0 = none ∧ popsFormat (.mMac (mw 0 3 0 0 0)) = true ∧ s.formatOk (.mMac (mw 0 3 0 0 0)) 0 = true
      ∧ scaleAddrOk (.mMac (mw 0 3 0 0 0)) 0 = true := by decide +kernel
/-- A full queue; no word; an unassigned type; a queue with no `y.align`; no page; a record past `shlim`; an index at its dimension; a right that is
missing; no format word, and a bad one. -/
theorem witness_Routing_faults : (let s := routable id
      (s.here.queues[0]?).any (fun x => decide (64 ≤ { x with entries := List.replicate 64 Job.idle.entry }.entries.length))
      ∧ s.formatOn 13 = false ∧ (trapsOn id).formatOn 0 = true ∧ (Queue.empty).refuses (.lGet (lw 3 4 5 0x40)) = true
      ∧ failsBy (({ s with asids := [] } : State).mapCore 0 2 0x100C0 64 .read) 0x08 ∧ s.here.shlim.toNat ≤ 4
      ∧ s.shapeFault (.lGet (lw 3 4 5 0x40)) (s.readBytes (s.worldKey 1) 0x400100C0 64) 4 0 = some (0x0C, 3)
      ∧ (routable id).here.fmtq = [] ∧ s.formatOk (.mMac (mw 0 3 0 0 0)) (2 ^ 26) = false)
    ∧ TakesTraps (routable id) := ⟨by decide +kernel, by unfold TakesTraps; decide +kernel⟩
theorem witness_EngineWritesPerform : (0 : BitVec 32) ≠ 1 ∧ (15 : Nat) < 16 := by decide
/-- A rope on ridge 0 that runs, and the refresh tick of bank 1 with an access of the bank and without. -/
theorem witness_HoldEvents : (base.rope? ⟨1, 0⟩).any (fun r => r.running.isSome && r.cores.any fun c => clusterOf c == 0)
    ∧ (base.rope? ⟨1, 0⟩).any (fun r => r.cores.all fun c => clusterOf c != 1)
    ∧ (let s := (here fun c => { c with ports := [(0, 33)] }).onRope ⟨1, 0⟩ fun r => { r with rtick := 16 }
      s.here.rope = some ⟨1, 0⟩ ∧ s.rtick s.cur.core % 16 = 0 ∧ (0, 33) ∈ s.here.ports ∧ 33 / 32 = s.rtick s.cur.core % 128 / 16)
    ∧ base.rtick base.cur.core % 16 = 0 ∧ (∀ x ∈ base.here.ports, x.1 ≠ 0) := by decide +kernel
/-- Core 0 has arrived at a barrier of a level with all four queues; at level 4 the package has arrived. -/
def barred (level : Nat) (g : Option (Nat × Bool)) : State :=
  let e : Entry := { Job.idle.entry with ins := .yBar (yw 15 (BitVec.ofNat 34 (level * 2 ^ 31))), seq := 5 }
  let s := here fun c => { c with dom4 := 2 ^ 63, queues := c.queues.map fun q => { q with entries := [e], base := some 0, wait := .bar level 3 true } }
  s.onRope ⟨1, 0⟩ fun r => { r with barrier4 := g }
theorem witness_Barriers : (∀ level ∈ [1, 2, 3, 4], (barred level (some (9, false))).arrived 0 level = true
      ∧ ((barred level (some (9, false))).here.barrier level).isSome)
    ∧ base.arrived 0 1 = false ∧ ((barred 4 none).rope? ⟨1, 0⟩).any (fun r => r.barrier4.isNone && decide r.cores.Nodup)
    ∧ ((barred 4 (some (9, false))).rope? (barred 4 (some (9, false))).cur.rope).any (fun r => r.running.isSome && r.barrier4 == some (9, false))
    ∧ (barred 4 none).gtc.toNat < 9 + 2 * 1900000000 ∧ (barred 4 none).here.run ≠ 0
    ∧ ((barred 4 none).here.queues[0]?).any (fun x => x.susp.isNone) := by decide +kernel
theorem witness_Barriers_late : (let s := { barred 4 (some (9, false)) with gtc := 9 + 3800000000 }; 9 + 2 * 1900000000 ≤ s.gtc.toNat)
    ∧ (maskQueues 15).head? = some 0 := by decide +kernel
/-- A rope with a launch in its queue and its image, free; and a launch whose cores have all halted, and one whose core runs on. -/
def launching (f : Rope → Rope) : State :=
  let s := base.onRope ⟨1, 0⟩ fun r => f { r with running := none, queue := [{ placedLaunch with id := 2 }] }
  (s.setHere { s.here with run := 0 }).setIface 1 { Iface.fresh with images := [(0, { va := 0, bytes := [], length := 0, digest := [] })] }
theorem witness_Launches : (let s := launching id; (s.rope? ⟨1, 0⟩).any (fun r => r.loads && r.height == 1 && decide (r.row 0).Nodup && !s.holdsFenced r
        && r.next.any (fun l => (find (s.iface 1).images l.handle).isSome && l.rows == [0]) && ((r.row 0).all fun c => (s.core c).run == 0)))
    ∧ ((launching fun r => { r with freezing := .frozen }).rope? ⟨1, 0⟩).any (fun r => !r.loads)
    ∧ (base.rope? base.cur.rope).any (fun r => r.running == some placedLaunch && r.cores.any fun c => (base.core c).run == 1 && !(base.core c).halted)
    ∧ (let s := here fun c => { c with halted := true }
      (s.rope? s.cur.rope).any fun r => r.running.isSome && r.cores.all fun c => (s.core c).run != 1 || (s.core c).halted) := by decide +kernel
theorem witness_Launches_load : (let s := (launching id).onRope ⟨1, 0⟩ fun r => { r with queue := [{ placedLaunch with id := 2, rows := [] }] }
    (s.rope? ⟨1, 0⟩).any fun r => r.loads && r.next.any fun l => !l.rows.contains 0) := by decide +kernel
/-- A bound interface with a doorbell of its endpoint: at the boundary of 1,024 slots, behind `crp`, and lapped with a RESYNC right behind `cwp`. -/
def rung (f : Iface → Iface) : State := base.setIface 2 (f { Iface.fresh with bound := some (9, 3), state := .running })
/-- A slot with a sequence and an opcode. -/
def slotOf (seq op : Nat) : BitVec 512 := BitVec.ofNat 512 (seq + op * 2 ^ 32)
theorem witness_Doorbells : ((rung id).iface 2).bound = some (9, 3) ∧ (rung id).iface 2 ≠ base.iface 2 ∧ ((rung id).iface 2).state ≠ .lapped
    ∧ ((rung id).iface 2).cwp < 1024 ∧ 1024 ≤ ((rung id).iface 2).crp + 1024 ∧ ((rung id).iface 2).crp + 1024 < 1025
    ∧ ((rung id).iface 2).srp ≤ 0 ∧ 0 ≤ ((rung id).iface 2).swp ∧ ((rung id).iface 2).swp < 1
    ∧ (base.iface 2).bound ≠ some (9, 3)
    ∧ (let i := (rung fun i => { i with state := .lapped, ring := [(6, slotOf 6 0x0C), (7, slotOf 7 1)] }).iface 2
      i.state = .lapped ∧ slotOp (i.slot ((7 - 1) % 1024)) = 0x0C ∧ slotSeq (i.slot ((7 - 1) % 1024)) = (7 - 1) % 2 ^ 32
        ∧ slotOp (i.slot ((8 - 1) % 1024)) ≠ 0x0C) := by decide +kernel
/-- Slots that carry their own sequence, the one of the lap before, and another. -/
theorem witness_Doorbells_consume : (∀ q ∈ [0, 2 ^ 32 - 1024, 5], let i := (rung fun i => { i with cwp := 1, ring := [(0, slotOf q 1)] }).iface 2
      i.bound ≠ none ∧ i.closing = none ∧ i.state ≠ .lapped ∧ i.crp < i.cwp ∧ slotSeq (i.slot (i.crp % 1024)) = q)
    ∧ (0 : Nat) = 0 % 2 ^ 32 ∧ 2 ^ 32 - 1024 = (0 + (2 ^ 32 - 1024)) % 2 ^ 32 ∧ 5 ≠ 0 % 2 ^ 32
    ∧ ((rung fun i => { i with waiting := true }).iface 2).waiting = true ∧ ((rung id).iface 2).waiting = false := by decide +kernel
/-- A response that waits with the ring empty and full. -/
theorem witness_HostAccess : (let x : Response := { cmd := command 2 0x02 0 0, status := 0, start := 0, fin := 0, result := 0 }
      let i := (rung fun i => { i with replies := [x] }).iface 2
      i.replies = [x] ∧ i.swp - i.srp < 1024 ∧ x.status < 256 ∧ x.result < 2 ^ 256 ∧ slotOp x.cmd.slot = 0x02 ∧ 1024 ≤ 1024 - i.srp)
    ∧ (let s := base.setIface 1 { Iface.fresh with bound := some (9, 3) }
      (s.iface 1).bound = some (9, 3) ∧ s.rangeOk 1 0x10000 8 .read = true ∧ s.poisonedFor 1 0x10000 8 = false ∧ s.rangeOk 1 0x10000 8 .write = true
        ∧ ({ s with asids := [] } : State).rangeOk 1 0x10000 8 .read = false ∧ ({ s with poison := [0x40010] } : State).poisonedFor 1 0x10000 8 = true
        ∧ (s.iface 1).waiting = false) := by decide +kernel
/-- The courses of a command: unknown, on a closed interface, with bad fields, and in order. -/
theorem witness_CommandCourse : opcodeKnown 1 0x0F = false ∧ opcodeKnown 1 0x20 = false ∧ opcodeKnown 1 0x0B = true ∧ slotOp (command 1 0x0B 4 0).slot ≠ 1
    ∧ (base.iface 1).isOpen = false ∧ ((asked (command 1 0x0B 4 0)).iface 1).isOpen = true ∧ slotOk (command 1 0x0B 4 0) = true
    ∧ slotOk { command 1 0x0B 4 0 with slot := slotOf 0 0x0B ||| BitVec.ofNat 512 (4 * 2 ^ 40) } = false ∧ (cmdInstr (command 1 0x0B 4 0)).isSome
    ∧ ((asked (command 1 0x0B 4 0)).pending (command 1 0x0B 4 0)).any (fun p => !p.started && !p.effect)
    ∧ ((asked (command 1 0x0B 4 0)).iface 1).closing = none ∧ (asked (command 1 0x0B 4 0)).unreadable (command 1 0x0B 4 0) = false
    ∧ (asked (command 1 0x0B 4 0)).pick.any (fun x => x.1 == command 1 0x0B 4 0) ∧ base.pick.isNone := by decide +kernel
/-- A wait entry whose event word cannot be read; an earlier command on the same rope; a command whose effect is done, with a request under way and
with none; and a closing interface. -/
theorem witness_CommandCourse_waits : (let c := { command 1 0x0B 4 0 with slot := slotOf 0 0x0B ||| BitVec.ofNat 512 (2 * 2 ^ 40 + 2 ^ 48) }
      ({ asked c with asids := [] } : State).unreadable c = true)
    ∧ (let c := { command 1 0x04 0 0 with pos := 1 }
      let s := (asked c).onIface 1 fun i => { i with commands := i.commands ++ [{ cmd := command 1 0x07 0 0, started := true, start := 0, effect := true, waits := [], verdict := none, moving := none }] }
      s.heldBack c = true)
    ∧ (waiting (.tile 0)).under (.access 0 7) = true ∧ base.under (.access 0 7) = false
    ∧ ((rung fun i => { i with closing := some (command 2 2 0 0) }).iface 2).closing ≠ none := by decide +kernel
/-- The state on which a picked command takes effect. -/
def begun (s : State) (c : Cmd) (op : Nat) : Option State :=
  match s.pick with
  | some (x, cls, r) =>
    if x = c ∧ slotOp c.slot = op ∧ (s.pending c).any (fun p => !p.started && !p.effect) ∧ (s.iface c.iface).closing = none ∧ s.overdue c = false
        ∧ s.unreadable c = false ∧ ((s.setRotation cls r).markStarted c).heldBack c = false
    then some (((s.setRotation cls r).markStarted c).onPending c fun p => { p with effect := true }) else none
  | none => none
theorem begun_begins {s u : State} {c : Cmd} {op : Nat} (h : begun s c op = some u) : Begins s c op u := by
  unfold begun at h
  split at h
  · rename_i x cls r hp
    split at h
    · rename_i k
      obtain ⟨rfl, k1, k2, k3, k0, k4, k5⟩ := k
      obtain ⟨p, hp1, hp2⟩ := Option.any_eq_true _ _ |>.mp k2
      simp only [Bool.and_eq_true, Bool.not_eq_true'] at hp2
      exact ⟨k1, ⟨p, hp1, hp2.1, hp2.2⟩, k3, k0, k4, cls, r, hp, k5, (Option.some.inj h).symm⟩
    · cases h
  · cases h
/-- A command that the dispatcher picks begins, on a state with a property. -/
def begins (s : State) (c : Cmd) (op : Nat) (p : State → Bool) : Bool := (begun s c op).any p
/-- The interface of a command is opened with its event words at 0x20000, all 0. -/
def opened (c : Cmd) : State :=
  let s := (asked c).onIface c.iface fun i => { i with events := 0x20000 }
  { s with mem := s.mem ++ cellsAt 0x40020000 (List.replicate 64 0), keys := s.keys ++ [(0x1000800, s.worldKey 1)] }
theorem witness_SessionCommands_open : begins ((asked (command 1 1 0x10000 0)).onIface 1 fun i => { i with state := .closed }) (command 1 1 0x10000 0) 1 (fun u =>
      !(u.iface 1).isOpen && u.rangeOk 1 0x10000 0x18000 .readWrite) = true
    ∧ begins (asked (command 1 1 0x10000 0)) (command 1 1 0x10000 0) 1 (fun u => (u.iface 1).isOpen) = true
    ∧ begins (asked (command 1 2 0 0)) (command 1 2 0 0) 2 (fun u => (u.iface 1).commands.all fun p => p.cmd.iface == 1) = true := by decide +kernel
theorem witness_SessionCommands_events : begins (opened (command 1 0x09 5 0)) (command 1 0x09 5 0) 0x09 (fun _ => true) = true
    ∧ begins (opened (command 1 0x0A 3 9)) (command 1 0x0A 3 9) 0x0A (fun u => u.eventWord 1 3 == some 0) = true
    ∧ begins { opened (command 1 0x0A 3 9) with asids := [] } (command 1 0x0A 3 9) 0x0A (fun u => (u.eventWord 1 3).isNone) = true := by decide +kernel
theorem witness_SessionCommands_query : (∀ p0 ∈ [0, 1, 2 + 111 * 65536, 3 + 3 * 65536, 4], begins (opened (command 1 0x0B p0 0)) (command 1 0x0B p0 0) 0x0B (fun u =>
      decide (p0 < 2 ^ 28) && (u.rope? ⟨1, 0⟩).isSome && (u.crossings[111]?).isSome && u.eventWord 1 3 == some 0) = true)
    ∧ begins (opened (command 1 0x0C 0x10000 0)) (command 1 0x0C 0x10000 0) 0x0C (fun u => u.rangeOk 1 0x10000 (u.resyncBytes 1).length .write) = true
    ∧ begins { opened (command 1 0x0C 0x10000 0) with asids := [] } (command 1 0x0C 0x10000 0) 0x0C (fun u =>
      !u.rangeOk 1 0x10000 (u.resyncBytes 1).length .write) = true := by decide +kernel
/-- A Reserved MODE command of interface 0 for tick 80: before its slot, at its first and last tick, and behind it. -/
def reserved (g : Nat) : State × Cmd :=
  let c : Cmd := { iface := 0, pos := 0, slot := BitVec.ofNat 512 (0x28 * 2 ^ 32 + 80 * 2 ^ 320 + 1 * 2 ^ 384), consumed := 0 }
  ({ asked c with gtc := BitVec.ofNat 64 g }, c)
theorem witness_TimedCommands_reserved : (∀ g ∈ [80, 87], let x := reserved g
      (x.1.pending x.2).any (fun p => !p.started) ∧ cmdClass x.2 = 0 ∧ cmdStart x.2 ≤ x.1.gtc.toNat ∧ x.1.reservedDue.head? = some x.2
        ∧ x.1.gtc.toNat < cmdStart x.2 + 8 ∧ x.1.unreadable x.2 = false ∧ x.1.waitsMet x.2 = true ∧ x.1.inOrder x.2 = true
        ∧ (x.1.markStarted x.2).heldBack x.2 = false ∧ slotOp x.2.slot = 0x28 ∧ cmdP0 x.2 < 4 ∧ cmdP1 x.2 = 0)
    ∧ (reserved 79).1.gtc.toNat < cmdStart (reserved 79).2 ∧ cmdStart (reserved 88).2 + 8 ≤ (reserved 88).1.gtc.toNat := by decide +kernel
/-- EVENT.WAIT with a timeout of 5 µs, at its end and before it; and a closing interface whose world has no message on its way. -/
theorem witness_TimedCommands_wait : cmdP0 (command 1 0x09 5 0) ≠ 0 ∧ slotOp (command 1 0x09 5 0).slot = 0x09
    ∧ (command 1 0x09 5 0).consumed.toNat + cmdP0 (command 1 0x09 5 0) * 1900 ≤ ({ asked (command 1 0x09 5 0) with gtc := 9500 } : State).gtc.toNat
    ∧ base.gtc.toNat < (command 1 0x09 5 0).consumed.toNat + cmdP0 (command 1 0x09 5 0) * 1900
    ∧ (∀ op ∈ [0x02, 0x20, 0x22], let s := (asked (command 1 op 0 0)).onIface 1 fun i => { i with closing := some (command 1 op 0 0) }
      (s.iface 1).closing = some (command 1 op 0 0) ∧ s.outgoing = [] ∧ (s.pending (command 1 op 0 0)).isSome) := by decide +kernel
theorem witness_RopeCommands_alloc : begins (asked (command 1 3 0x0202 0)) (command 1 3 0x0202 0) 3 (fun u => (askOf (command 1 3 0x0202 0)).any (fun a =>
      u.fits a 1 && !u.fits a 0) && (u.rope? ⟨1, 1⟩).isNone && (u.rope? ⟨1, 0⟩).isSome) = true
    ∧ begins (asked (command 1 3 0x1111 0)) (command 1 3 0x1111 0) 3 (fun _ => (askOf (command 1 3 0x1111 0)).isNone) = true
    ∧ begins (asked (command 1 3 0x22020 0)) (command 1 3 0x22020 0) 3 (fun u => (askOf (command 1 3 0x22020 0)).any fun a =>
      (List.range 1024).all fun o => !u.fits a o) = true := by decide +kernel
/-- A rope that is busy, one that is not, and one that has peers and has been quiet for a second. -/
theorem witness_RopeCommands_free : begins (asked (command 1 4 0 0)) (command 1 4 0 0) 4 (fun u => (u.rope? ⟨1, 0⟩).any (·.busy)) = true
    ∧ begins ((asked (command 1 4 0 0)).onRope ⟨1, 0⟩ fun r => { r with running := none }) (command 1 4 0 0) 4 (fun u =>
      (u.rope? ⟨1, 0⟩).any fun r => !r.busy && r.peers.isEmpty) = true
    ∧ begins { (asked (command 1 4 0 0)).onRope ⟨1, 0⟩ (fun r => { r with running := none, peers := [2] }) with gtc := 1900000000 } (command 1 4 0 0) 4 (fun u =>
      (u.rope? ⟨1, 0⟩).any fun r => !r.busy && decide (r.quiet.toNat + 1900000000 ≤ u.gtc.toNat) && u.outgoing.isEmpty) = true := by decide +kernel
/-- ROPE.FREE of a rope with peers has started and waits for the quiet second. -/
theorem witness_RopeCommands_quiet : (let c := command 1 4 0 0
    let s := (asked c).onIface 1 fun i => { i with commands := [{ cmd := c, started := true, start := 0, effect := false, waits := [], verdict := none, moving := none }] }
    slotOp c.slot = 4 ∧ s.heldBack c = false ∧ (s.iface c.iface).commands = [{ cmd := c, started := true, start := 0, effect := false, waits := [], verdict := none, moving := none }]) := by
  decide +kernel
/-- An image of one core, one block of eight bytes at offset 208 (R51, R52). -/
def program : List Byte :=
  leBytes 4 0x4D475045 ++ leBytes 2 1 ++ [0, 0, 1, 1] ++ leBytes 2 1 ++ List.replicate 52 0
    ++ leBytes 8 208 ++ leBytes 8 8 ++ List.replicate 128 0 ++ leBytes 8 0
/-- The command and a program in the memory of its world at 0x10000. -/
def stocked (c : Cmd) : State :=
  let s := asked c
  { s with mem := s.mem ++ cellsAt 0x40010000 program, keys := s.keys ++ (List.range 4).map fun k => (0x1000400 + k, s.worldKey 1) }
theorem witness_RopeCommands_load : begins (stocked (command 1 5 0x10000 216)) (command 1 5 0x10000 216) 5 (fun u => u.rangeOk 1 0x10000 216 .image
      && !u.poisonedFor 1 0x10000 216 && (find (u.iface 1).images 0).isNone && decide ((u.iface 1).copies + copyLength program ≤ 2 ^ 28)
      && u.readFor 1 0x10000 216 == program) = true ∧ imageOk (program.take 64) = false := by decide +kernel
/-- A loaded program for the rope of core 0, and a fenced core. -/
theorem witness_RopeCommands_launch : begins ((asked (command 1 6 0 7)).onIface 1 fun i => { i with
      images := [(0, { va := 0x10000, bytes := program, length := 216, digest := [] })] }) (command 1 6 0 7) 6 (fun u => (u.rope? ⟨1, 0⟩).any fun r =>
        (find (u.iface 1).images 0).any (fun img => imageFits img.bytes r && u.scanListOk img.bytes r) && !u.holdsFenced r
          && (u.setCore 0 { u.core 0 with fenced := true }).holdsFenced r) = true := by decide +kernel
/-- The report's list has entries of 64 bytes; the pages can be written, and not. -/
theorem witness_Attestation_attest : begins (asked (command 1 0x0D 0x10000 5)) (command 1 0x0D 0x10000 5) 0x0D (fun u =>
      u.rangeOk 1 0x10000 (64 + 64 * (u.entries 1).length + 16608) .write) = true
    ∧ begins { asked (command 1 0x0D 0x10000 5) with asids := [] } (command 1 0x0D 0x10000 5) 0x0D (fun u => !u.rangeOk 1 0x10000 17000 .write) = true := by decide +kernel
/-- A manifest with no entry, and one whose entry lies on no page. -/
theorem witness_Attestation_manifest : (let c := command 1 0x0E 0x10000 0
      let hd : List Byte := leBytes 4 0x58535A4D ++ leBytes 2 1 ++ leBytes 2 0 ++ leBytes 8 0
      let s := asked c
      begins { s with mem := s.mem ++ cellsAt 0x40010000 hd, keys := s.keys ++ [(0x1000400, s.worldKey 1)] } c 0x0E (fun u => u.rangeOk 1 0x10000 16 .read
        && u.poison.isEmpty && u.readFor 1 0x10000 16 == hd && field hd 0 4 == 0x58535A4D && field hd 4 2 == 1 && field hd 8 8 == 0) = true)
    ∧ (let c := command 1 0x0E 0x3FFFFFF0 0
      let hd : List Byte := leBytes 4 0x58535A4D ++ leBytes 2 1 ++ leBytes 2 1 ++ leBytes 8 0
      let s := asked c
      begins { s with mem := s.mem ++ cellsAt 0x7FFFFFF0 hd, keys := s.keys ++ [(0x1FFFFFF, s.worldKey 1)], poison := [] } c 0x0E (fun u =>
        u.readFor 1 0x3FFFFFF0 16 == hd && u.rangeOk 1 0x3FFFFFF0 16 .read && !u.rangeOk 1 0x3FFFFFF0 80 .read) = true) := by decide +kernel
/-- No request is under way in the start state of these commands. -/
theorem witness_ManagementCommands_calm : (∀ e ∈ base.cores, e.2.accesses = [] ∧ e.2.flights = []) ∧ base.outgoing = [] ∧ base.poison = [] := by decide +kernel
theorem witness_ManagementCommands_bind : begins (asked (command 0 0x20 2 7)) (command 0 0x20 2 7) 0x20 (fun u => (u.iface 2).closing.isNone
      && (u.iface 2).bound.isNone && (cmdBits (command 0 0x20 2 7) 0 8 == 2)) = true
    ∧ begins ((asked (command 0 0x20 2 7)).onIface 2 fun i => { i with bound := some (7, 0) }) (command 0 0x20 2 7) 0x20 (fun u =>
      (u.iface 2).bound == some (7, 0)) = true
    ∧ begins ((asked (command 0 0x20 258 0)).onIface 2 fun i => { i with bound := some (7, 0) }) (command 0 0x20 258 0) 0x20 (fun u =>
      (u.iface 2).bound.isSome && cmdBits (command 0 0x20 258 0) 8 1 == 1) = true
    ∧ begins (asked (command 0 0x22 2 0)) (command 0 0x22 2 0) 0x22 (fun u => (u.iface 2).closing.isNone) = true
    ∧ begins (asked (command 0 0x21 (2 + 3 * 256 + 255 * 65536) 0)) (command 0 0x21 (2 + 3 * 256 + 255 * 65536) 0) 0x21 (fun _ => true) = true := by decide +kernel
theorem witness_ManagementCommands_maps : begins (asked (command 0 0x23 (1 + 5 * 65536) 0x10000)) (command 0 0x23 (1 + 5 * 65536) 0x10000) 0x23 (fun u =>
      (find u.asids 5).any fun a => a.world == 1) = true
    ∧ begins (asked (command 0 0x23 (2 + 5 * 65536) 0x10000)) (command 0 0x23 (2 + 5 * 65536) 0x10000) 0x23 (fun u => (find u.asids 5).any fun a => a.world != 2) = true
    ∧ (∀ p0 ∈ [1, 256 + 5 * 65536], begins (asked (command 0 0x24 p0 0)) (command 0 0x24 p0 0) 0x24 (fun _ => cmdBits (command 0 0x24 p0 0) 9 7 == 0) = true)
    ∧ begins (asked (command 0 0x25 0 0)) (command 0 0x25 0 0) 0x25 (fun _ => true) = true
    ∧ begins (asked (command 0 0x27 0x40010000 0)) (command 0 0x27 0x40010000 0) 0x27 (fun u => u.medium 0x40010000 == .hbm) = true
    ∧ begins (asked (command 0 0x28 3 0)) (command 0 0x28 3 0) 0x28 (fun _ => true) = true := by decide +kernel
theorem witness_ManagementCommands_identity : begins (asked (command 0 0x26 2 0x10000)) (command 0 0x26 2 0x10000) 0x26 (fun u => !(u.iface 2).isOpen
      && u.rangeOk 0 0x10000 16 .read) = true
    ∧ begins ((asked (command 0 0x26 (256 + 2) 0)).setWorld 2 { World.fresh with identity := some 9 }) (command 0 0x26 (256 + 2) 0) 0x26 (fun u =>
      (u.world 2).identity == some 9) = true
    ∧ begins ((asked (command 0 0x26 2 0)).setIface 2 { Iface.fresh with state := .running }) (command 0 0x26 2 0) 0x26 (fun u => (u.iface 2).isOpen) = true := by
  decide +kernel
/-- A peer-table entry that is sound, and one whose validity byte is not. -/
theorem witness_ManagementCommands_peer : (peerOf ([1, 1] ++ List.replicate 30 0)).isSome ∧ peerOf (2 :: List.replicate 31 0) = none
    ∧ begins (let s := asked (command 0 0x29 4 0x10000)
      { s with mem := s.mem.takeWhile (·.1 < 0x10000) ++ cellsAt 0x10000 ([1, 1] ++ List.replicate 30 0), keys := s.keys ++ [(0x400, s.worldKey 0)] })
      (command 0 0x29 4 0x10000) 0x29 (fun u => u.rangeOk 0 0x10000 32 .read && (peerOf (u.readFor 0 0x10000 32)).isSome) = true := by decide +kernel
/-- EVICT of a rope that runs and of one that does not; RESUME with no launch evicted, with a fenced core, and with a page that cannot be read;
and either without two Open slots in some wheel. -/
theorem witness_Preemption_commands : begins (asked (command 1 7 0 0x10000)) (command 1 7 0 0x10000) 7 (fun u => (u.rope? ⟨1, 0⟩).any fun r =>
      r.running.isSome && (u.convertSlots (command 1 7 0 0x10000) 1 0x10000 (u.fullImage r) .write).isSome
        && (({ u with wheels := (List.range 62).map fun k => (k, .scan 3) } : State).convertSlots (command 1 7 0 0x10000) 1 0x10000 (u.fullImage r) .write).isNone) = true
    ∧ begins ((asked (command 1 7 0 0x10000)).onRope ⟨1, 0⟩ fun r => { r with running := none }) (command 1 7 0 0x10000) 7 (fun u =>
      (u.rope? ⟨1, 0⟩).any fun r => r.running.isNone && r.incoming.isNone) = true
    ∧ begins (asked (command 1 8 0 0x10000)) (command 1 8 0 0x10000) 8 (fun u => (u.rope? ⟨1, 0⟩).any fun r => r.evicted.isNone) = true := by decide +kernel
/-- A rope whose launch is evicted. -/
def evicted (f : Rope → Rope) : State :=
  (asked (command 1 8 0 0x10000)).onRope ⟨1, 0⟩ fun r => f { r with running := none, evicted := some placedLaunch, captured := 0 }
theorem witness_Preemption_resume : begins (evicted id) (command 1 8 0 0x10000) 8 (fun u => (u.rope? ⟨1, 0⟩).any fun r => r.evicted.isSome
      && (u.setCore 0 { u.core 0 with fenced := true }).holdsFenced r && !u.holdsFenced r) = true
    ∧ begins { evicted id with asids := [] } (command 1 8 0 0x10000) 8 (fun u => (u.rope? ⟨1, 0⟩).any fun _ =>
      (u.convertSlots (command 1 8 0 0x10000) 1 0x10000 (u.imageAt 1 0x10000) .read).any fun v => !v.rangeOk 1 0x10000 256 .read) = true
    ∧ begins (let s := evicted id; { s with mem := s.mem ++ cellsAt 0x40010000 (List.replicate 256 0), keys := s.keys ++ (List.range 4).map fun k => (0x1000400 + k, s.worldKey 1) })
      (command 1 8 0 0x10000) 8 (fun u => (u.rope? ⟨1, 0⟩).any fun r => u.rangeOk 1 0x10000 256 .read && !u.poisonedFor 1 0x10000 256
        && (u.headerFails (u.readFor 1 0x10000 256) 0x3FF r.origin r.width r.height 1 true).isSome) = true := by decide +kernel
/-- The header of a control image with the yield flag, whose checks of RESUME pass. -/
theorem witness_Preemption_header : (evicted id).headerFails (((evicted id).image 0 1 1 0x001 7 true (fun _ => 0x40)).take 256) 0x001 0 1 1 1 true = none := by
  decide +kernel
/-- Core 0 has retired its yield point in all four queues, once more than the rope has passed; and an eviction whose grace period is over. -/
theorem witness_Preemption_events : (let s := here fun c => { c with yields := [1, 1, 1, 1] }
      (s.rope? s.cur.rope).any fun r => r.running.isSome && r.evict.isNone && r.cores.all fun c => (s.core c).yields != [] && ((s.core c).yields.all fun n => decide (r.yields < n))
        && (s.core c).accesses.isEmpty)
    ∧ (let s := here fun c => { c with yields := [1, 0, 1, 1] }; (s.rope? s.cur.rope).any fun r => r.cores.any fun c => (s.core c).yields.any fun n => decide (n ≤ r.yields))
    ∧ (let s := (asked (command 1 7 0 0x10000)).onRope ⟨1, 0⟩ fun r => { r with evict := some { cmd := command 1 7 0 0x10000, since := 0, froze := false } }
      (s.rope? s.cur.rope).any (fun r => r.evict.isSome && r.running.isSome) ∧ s.gtc.toNat < 0 + 200 * 1900 ∧ slotBits (command 1 7 0 0x10000).slot 400 16 = 0
        ∧ slotBits (command 1 7 0 0x10000).slot 448 64 = 0x10000 ∧ s.rangeOk 1 0x10000 0x200000 .write = true ∧ s.poison = []
        ∧ 0 + 200 * 1900 ≤ ({ s with gtc := 380000 } : State).gtc.toNat) := by decide +kernel
/-- Errors of tile memory, of a controller, corrected and not, met by the control core and not, and a replay in progress. -/
def report (store : Nat) (corrected control : Bool) : ErrorReport :=
  { core := 0, store := store, addr := 0x1000, corrected := corrected, control := control, met := [] }
theorem witness_Errors : (report 0 true false).core < 1024 ∧ (report 0 true false).corrected = true ∧ (report 11 false false).store = 11 ∧ (report 0 false true).store < 7
    ∧ (base.ropeOf 0).any (fun r => r.running.isSome && r.incoming.isNone && !r.replaying && r.cancel.isNone)
    ∧ ((base.onRope ⟨1, 0⟩ fun r => { r with replaying := true, running := some { placedLaunch with adopted := false } }).ropeOf 0).any (fun r => r.replaying
        && r.running.any fun l => l.id == base.here.run && !l.adopted)
    ∧ base.here.accesses = [] := by decide +kernel
/-- A core with a restart point at base 40. -/
theorem witness_Errors_replay : (let x : Restart := { base.here.restartState 40 with refetch := [] }
    let s := here fun c => { c with restart := some x, replayable := true }
    (s.rope? ⟨1, 0⟩).any fun r => r.cores.contains r.origin && decide r.cores.Nodup && r.cores.all fun c => (s.core c).replayable
      && (s.core c).restart.any fun y => y.base == 40 && y.refetch.isEmpty) := by decide +kernel
theorem witness_DurableEvents : (∃ g, (3, g) ∈ ({ base with downLinks := [(3, 0)] } : State).downLinks) ∧ (∀ g, (3, g) ∉ base.downLinks)
    ∧ (let s := { base with downLinks := [(3, 0)], gtc := 190000000 }; ∃ g, (3, g) ∈ s.downLinks ∧ g.toNat + 190000000 ≤ s.gtc.toNat)
    ∧ (let s := { base with downLinks := [(3, 0)], gtc := 189999999 }; ∀ x ∈ s.downLinks, s.gtc.toNat < x.2.toNat + 190000000) :=
  ⟨⟨0, by decide +kernel⟩, fun g h => absurd h (by rw [show base.downLinks = [] by decide +kernel]; simp), ⟨0, by decide +kernel⟩, by decide +kernel⟩
/-- Package 7 is admitted by entry 4 into world 1. -/
def peered : State := { base with peers := [(4, { valid := true, world := 1, pkg := 7, sa := 3, fabric := 0, base := 0x10000 })] }
theorem witness_PeerRequests : (find peered.peers 4).any (fun e => e.valid && e.pkg == 7 && e.sa == 3) ∧ (find peered.peers 5).isNone ∧ peered.waitingSignals = []
    ∧ peered.poison = [] ∧ peered.rangeOk 1 0x10008 8 .read = true ∧ peered.rangeOk 1 0x10008 8 .write = true ∧ peered.rangeOk 1 (2 ^ 30) 8 .read = false
    ∧ peered.rangeOk 1 (2 ^ 30) 8 .write = false ∧ okAnd (peered.mapFor 1 0x10008 8 .readWrite) (fun _ => true) := by decide +kernel
/-- Signals of a source: the next in turn, one that came before, one that is early, the first of a new allocation, and one that follows a write
that has not come. -/
theorem witness_PeerRequests_signals : (let src : SignalSource := { pkg := 7, iface := 1, rope := 0 }
    let s := { peered with signalRecords := [(src, (5, 2))], applied := [(7, 11)] }
    (s.signalRecords.find? fun r => r.1 == src).map (·.2) = some (5, 2) ∧ (3 : Nat) = 2 + 1 ∧ (2 : Nat) ≤ 2 ∧ 2 + 1 < 4 ∧ (5 : BitVec 16) ≠ 6
      ∧ s.waitingSignals = [] ∧ (∀ x ∈ [11], (7, x) ∈ s.applied) ∧ ¬ (∀ x ∈ [12], (7, x) ∈ s.applied) ∧ peered.signalRecords.length < 1048576
      ∧ peered.signalRecords.find? (fun r => r.1 == src) = none) := by decide +kernel
/-- A message that carries core 0's load, and one that carries a read of an engine. -/
def sentOut (kind : PeerKind) (flight : Option (Nat × Nat × Nat)) (signal : Option (BitVec 16 × Nat)) (f : Core → Core) : State :=
  { here f with outgoing := [{ id := 30, entry := 4, offset := 0, kind := kind, rope := some ⟨1, 0⟩, core := 0, cls := 0, issued := 0, signal := signal, resent := 0,
                               late := none, flight := flight, va := 0x70000, after := [], asid := none }] }
theorem witness_Acknowledgements_load : (let a : Access := { id := 7, cls := 0, place := .peer 0x70000 4 0, kind := .load 5 8 false, gen := 0, sent := some 30, bad := false, pc := 0, tick := 0, asid := none }
    let s := sentOut (.read 8) none none fun c => { c with accesses := [a], tvec := 1 }
    (s.outgoing.find? fun x => x.id == 30).any (fun o => o.flight.isNone && o.signal.isNone && o.kind == .read 8)
      ∧ ((s.core 0).accesses.find? fun x => x.sent == some 30) = some a ∧ (s.core 0).accesses.filter (fun x => x.id ≠ a.id) = []
      ∧ (s.core 0).handler = false ∧ (s.core 0).tvec.getLsbD 0 = true) := by decide +kernel
theorem witness_Acknowledgements_store : (let a : Access := { id := 7, cls := 0, place := .peer 0x70000 4 0, kind := .store [1], gen := 0, sent := some 30, bad := false, pc := 0, tick := 0, asid := none }
    let s := sentOut (.write [1] 0xFF) none none fun c => { c with accesses := [a] }
    ((s.core 0).accesses.find? fun x => x.sent == some 30) = some a ∧ (s.outgoing.find? fun x => x.id == 30).any (fun o => o.kind != .read 8))
    ∧ (let s := sentOut (.amo .add true 1 0) none (some (5, 1)) id
      (s.outgoing.find? fun x => x.id == 30).any (fun o => o.signal == some (5, 1) && o.rope == some ⟨1, 0⟩) ∧ (s.rope? ⟨1, 0⟩).isSome
        ∧ ((s.core 0).accesses.find? fun x => x.sent == some 30) = none) := by decide +kernel
theorem witness_Acknowledgements_engine : (let x : Flight := { flight (.tile [(0, 0), (1, 0)]) with late := true }
    let s := sentOut (.read 2) (some (40, 0, 0)) none fun c => { c with flights := [x] }
    x ∈ (s.core 0).flights ∧ (∀ y ∈ (s.core 0).flights, y.id = x.id → y = x) ∧ (s.core 0).parked x = false
      ∧ (s.outgoing.find? fun o => o.id == 30).any (fun o => o.flight == some (x.id, 0, 0))) := by decide +kernel
/-- A part with power and one without; firmware that is not 64 bytes of header fails; a die that stepped down less than a second ago, and one that did
not. Whether a signature is valid is a free value (R72), so that firmware that passes needs one that is. -/
theorem witness_BoardEvents (x : ResetInputs) : base.powered = true ∧ ({ base with powered := false } : State).powered = false
    ∧ base.firmwareOk { x.fw with header := [] } = false ∧ (∀ d ∈ base.stepGroup 0, base.gtc.toNat < (base.stepGtc.getD d 0).toNat + 1900000000)
    ∧ base.stepGroup 0 ≠ []
    ∧ (let s := { base with gtc := 1900000000 }; ∀ d ∈ s.stepGroup 0, (s.stepGtc.getD d 0).toNat + 1900000000 ≤ s.gtc.toNat) :=
  ⟨by decide +kernel, rfl, by simp [State.firmwareOk], by decide +kernel, by decide +kernel, by decide +kernel⟩
/-- Words of every kind of unit at the pc of a core that runs. -/
theorem witness_StepRunsDecoded : (∀ w ∈ [0x02029800FFFFFFF0, 0x6000003C0000000F, 0x5FF0000000000000, 0x7000000000000000, 0x0FF0000000000000],
      let s := State.reset.withFetchWord 64 w
      s.agenda = [.core 0] ∧ s.powered = true ∧ s.started = true ∧ s.runs 0 = true ∧ (s.core 0).mustTrap = false ∧ (s.core 0).over = false
        ∧ (s.core 0).breaks = false)
    ∧ decodeTableWord 64 0x5FF0000000000000 = none ∧ queueOf (.cAddi 5 6 0) = none ∧ (yWord (.cAddi 5 6 0)).isNone
    ∧ (yWord (.yAlign (yw 15 15))).isSome := by decide +kernel
/-- The canonical form holds at reset, and a step follows. -/
theorem witness_MemoryKept : MemOk State.reset ∧ (match step (State.reset.withFetchWord 64 0x02029800FFFFFFF0) with | .next _ => true | _ => false) = true :=
  ⟨⟨by decide +kernel, by decide +kernel⟩, by decide +kernel⟩
/-- Two keys, and two writes of the same places. -/
theorem witness_KeyIsolation : base.worldKey 1 ≠ base.worldKey 2 ∧ ([(0, 1), (1, 2)] : List (Nat × Byte)).map (·.1) = ([(0, 3), (1, 4)] : List (Nat × Byte)).map (·.1) := by
  decide +kernel
theorem witness_DecodeEncode : wellFormed (.lGet { h := hdr 2 1, shape := 3, r0 := 4, r1 := 5, tile := 0x40 }) = true
    ∧ (encode (.lGet { h := hdr 2 1, shape := 3, r0 := 4, r1 := 5, tile := 0x40 })).isSome := by decide

/-- An `l.getb` of 4 bytes under way, whose value is taken next, with its own rope's write since, or none. -/
def sampling (i : Instr) (own : List OwnWrite) : State :=
  match exec i (issuing i 0 0 0 0 (some { bytes4 with rank := 1 }) id) with
  | .next t => { t with agenda := [.sample 0 (t.serial - 1)], ownWrites := own }
  | _ => base
/-- The accesses of the flight that samples, whether each reaches a place here, whether the rope has written it since, and whether a replay has left it open. -/
def sampled (s : State) : Option (List (Int × Nat) × Bool × Bool × Bool) :=
  let u := { s with agenda := [], free := s.free + 65536 }
  ((s.core 0).flights.find? fun x => x.id == s.serial - 1).map fun f =>
    (f.reads.2.map (·.1), f.spots.all fun p => p.medium != .peer, f.placed.all fun x => (List.range x.1.1.2).all fun i => u.ownSince 0 f (x.2.pa + i),
      f.spots.length != f.reads.2.length || f.placed.any fun x => (List.range x.1.1.2).any fun i => u.isOpen 0 (x.2.pa + i))
theorem witness_ReadsTakeTheirValue :
    sampled (sampling (.lGetb (lw 3 0 0 0x10)) []) = some ([(0x20000, 4)], true, false, false)
    ∧ sampled (sampling (.lGetb (lw 3 0 0 0x10)) [{ cells := [2 ^ 30 + 0x20000, 2 ^ 30 + 0x20001, 2 ^ 30 + 0x20002, 2 ^ 30 + 0x20003], rope := { world := 1, num := 0 }, serial := 1000 }])
        = some ([(0x20000, 4)], true, true, false)
    ∧ sampled (sampling (.lGetw (lw 3 0 0 0x10)) []) = some ([(0x40000, 8)], true, false, false) := by decide +kernel
/-- Another rope's bytes, written while the read is under way, are seen when it takes its value, and its own rope's are not. -/
theorem test_sample_sees_others :
    (let s0 := issuing (.lGetb (lw 3 0 0 0x10)) 0 0 0 0 (some { bytes4 with rank := 1 }) id
     let w := s0.worldKey 1
     match exec (.lGetb (lw 3 0 0 0x10)) (s0.writeCells w [(2 ^ 30 + 0x20000, 0x11)]) with
     | .next s =>
       let look (t : State) : Option Byte := ((t.sample 0 (s.serial - 1)).core 0).flights.head?.bind fun f =>
         match f.effect with | .tile c => c.head?.map (·.2) | _ => none
       (look (s.writeCells w [(2 ^ 30 + 0x20000, 0xAA)]),
        look ((s.writeCells w [(2 ^ 30 + 0x20000, 0xAA)]).writePlace 0 0 0 (.global 0x20000 (2 ^ 30 + 0x20000) false) [0xBB]))
     | _ => (none, none)) = (some 0xAA, some 0x11) := by decide +kernel
/-- What a rope wrote in a replayed phase is open to its own reads in that phase and in the next, and no longer (R234). -/
theorem test_taint_ends : (let s := ({ base with phaseWrites := [(⟨1, 0⟩, 50, [0x700]), (⟨1, 0⟩, 39, [0x701])] } : State).taint placedRope 40
    let p := s.passPhase ⟨1, 0⟩
    (s.isOpen 0 0x700, s.isOpen 0 0x701, p.isOpen 0 0x700, (p.passPhase ⟨1, 0⟩).isOpen 0 0x700)) = (true, false, true, false) := by decide +kernel

/-! ## Clauses at the edges of the statements -/

/-- Stores of lanes: with every lane active and with none, inside and outside the declared sets, and 8 bytes at the end of tile memory. -/
theorem witness_VectorMemory_stores : let s := issuing (.vSt (vm 3 0 2 0x100)) 2 8 0 0 none id
    (∀ j < 64, (s.here.predicate (vm 3 0 0 0x100).x.toNat).getLsbD j = true ∧ (s.here.predicate (vm 3 1 0 0x100).x.toNat).getLsbD j = false)
    ∧ (∀ j < 64, reached s true (0x100 + j : Nat) 1 = true) ∧ reached s true 0xFFF00 4 = false ∧ reached s true 0xFFFF8 8 = false
    ∧ reached s false 0xFFFF8 8 = false ∧ 0xFFFF8 % 8 = 0 ∧ 0x104 % 8 ≠ 0 ∧ 0xFFFF8 < 2 ^ 20 := by decide +kernel
/-- A finite number that is not zero. -/
def finite (v : Val) : Bool := match v with | .fin _ m _ => m != 0 | _ => false
/-- Lists of 32 codes: l6 with its NaN and without; bf16 with e4m3 whose products are finite, all zero, infinite of one sign and of both, and NaN. -/
theorem witness_ExactArithmetic_sums : (List.replicate 32 5 : List Nat).length = 32 ∧ (∃ k < 32, (32 :: List.replicate 31 5 : List Nat).getD k 0 % 64 = 32)
    ∧ (∀ k < 32, (List.replicate 32 5 : List Nat).getD k 0 % 64 ≠ 32) ∧ (12 : BitVec 4) = 12 ∧ (1 : BitVec 4).toNat ≤ 1 ∧ (6 : BitVec 4) ∈ [(6 : BitVec 4), 7, 9, 10, 11]
    ∧ (let p : Nat → Val := fun a => ((decodeElem 6 a).mul (decodeElem 9 0x38)).1
       finite (p 0x3F80) = true ∧ finite (p 0) = false ∧ p 0x7F80 = .inf false ∧ p 0xFF80 = .inf true ∧ p 0x7FC0 = .nan)
    ∧ ((12 : BitVec 4).toNat ≤ 5 ∨ (12 : BitVec 4) = 12) ∧ (0 : Nat) < [4096].length ∧ ([4096].take 0).sum ≤ 5 % 4096 ∧ 5 % 4096 < ([4096].take 0).sum + [4096].getD 0 0 := by
  decide +kernel
/-- Cores 0 and 1 are one rope, side by side, as are cores 0 and 4, one above the other. -/
def linkedTo (n : Nat) (f : Core → Core) : State :=
  (here f).setCore n { Core.clear with rope := some ⟨1, 0⟩, run := 1 }
/-- A link that is cut, one that holds an element for the tick, and the drive eastward. -/
theorem witness_Multiplications_links : base.sender 0 false = none ∧ base.sender 0 true = none
    ∧ (let a : LinkCode := { tick := 9, nominal := 9, row := 5, code := 7, sa0 := 127, sa1 := 127, half := 0 }
       let s := linkedTo 1 fun c => { c with east := [a] }
       s.sender 1 false = some 0 ∧ a ∈ (s.core 0).east ∧ (∀ b ∈ (s.core 0).east, b.row = 5 → b.nominal = 9 → b.half = 0 → b = a)
         ∧ (s.neighbour 0 false).any (fun x => x.1 == 1) ∧ s.tapWest 1 Job.idle 9 0 5 0 = .value (7, 127, 127) 0)
    ∧ (let a : LinkSum := { tick := 9, nominal := 9, col := 5, value := 7, half := 0 }
       let s := linkedTo (coreAt 0 1) fun c => { c with south := [a] }
       s.sender (coreAt 0 1) true = some 0 ∧ a ∈ (s.core 0).south ∧ (∀ b ∈ (s.core 0).south, b.col = 5 → b.nominal = 9 → b.half = 0 → b = a)
         ∧ (s.neighbour 0 true).any (fun x => x.1 == coreAt 0 1) ∧ s.tapNorth (coreAt 0 1) Job.idle 9 0 5 0 = .value 7 0) := by decide +kernel
/-- A row of `m.mac`, eastward and not; an entry that starts fresh and one with the north link; and rows of the other matrix instructions. -/
theorem witness_Multiplications_rows : (let j := (issuing (.mMac (mw 0 3 0 0x4000 1)) 1 0 0 0 none id).cur.job
      j.entry.ins = .mMac (mw 0 3 0 0x4000 1) ∧ (mw 0 3 0 0x4000 1).m.getLsbD 0 = true ∧ (mw 0 3 0 0x4000 0).m.getLsbD 0 = false)
    ∧ (∀ fresh ∈ [true, false], ∀ north ∈ [true, false], (flight (.macCol 63 63 2 [] true fresh false north .none)).waited = 0
      ∧ ∃ x, base.tapNorth 0 Job.idle (9 - 1) 0 63 0 = .value x 0) ∧ fmtFloat 0 = false := by
  refine ⟨by decide +kernel, fun _ _ _ _ => ⟨rfl, 0, by decide +kernel⟩, by decide +kernel⟩
theorem witness_MatrixStores_steps : ∀ i ∈ [Instr.mWldr (mw 0 0 0 0x8000 0), .mOut (mw 2 3 0 0x8000 0), .mTr (mw 1 3 0 0 0), .mAdd (mw 0 3 0 0 0)],
    let j := (issuing i 1 0 0 0 none id).cur.job
    j.q = 1 ∧ j.entry.ins = i ∧ pitch (fmtB j.entry.fmt) ≤ 128 ∧ (0 : Nat) < 64 ∧ (63 : Nat) < 64 := by decide +kernel
/-- A carder that decodes from the batt unit 3 with codebook 2 on tick 9, and two flights of one tick: a clear of a bank's status, and a write to the bank. -/
def decodes : State := here fun c => { c with carder := { c.carder with busy := true, issued := 5, unit := 3, slot := 2, total := 300 } }
theorem witness_EngineWritesPerform_coded : (decodes.core 0).carder.busy = true ∧ (decodes.core 0).carder.issued < 9 ∧ 9 ≤ (decodes.core 0).carder.issued + 263
    ∧ (decodes.core 0).carder.unit ≤ 4 ∧ 4 < (decodes.core 0).decodeUnits.2 ∧ ¬ (decodes.core 0).carder.unit ≤ 2 ∧ (decodes.core 0).carder.slot = 2
    ∧ (List.replicate 512 0 : List Byte).length = 512 := by decide +kernel
theorem witness_EngineWritesPerform_clear :
    let f := flight (.mrfClear 1)
    let g := { flight (.mrf [(4096, 7)] 1 { Status.none with flags := 1 }) with id := 41 }
    let s := here fun c => { c with flights := [f, g] }
    f ∈ (s.core 0).flights ∧ g ∈ (s.core 0).flights ∧ f.tick = 9 ∧ g.tick = 9 ∧ g.id ≠ f.id ∧ f.bad = false ∧ f.late = false ∧ g.bad = false ∧ g.late = false
      ∧ (∀ x ∈ (s.core 0).flights, x.tick = 9 → x = f ∨ x = g) ∧ (∀ x ∈ (s.core 0).queues, x.susp = none)
      ∧ 1 < (s.core 0).mstatus.length ∧ (s.core 0).flights.Nodup := by decide +kernel
/-- Bytes of one store, with a nibble's mask; a place of this package and one of another; and the rope of the core. -/
theorem witness_EngineWritesPerform_stores : (let bytes : List (Nat × Byte × Byte) := [(0, 1, 0xFF), (1, 2, 0x0F)]
      (bytes.map (·.1)).Nodup) ∧ 0x40000100 / 2 ^ 44 ≠ 15 ∧ (15 * 2 ^ 44 + 4 * 2 ^ 36 + 8) / 2 ^ 44 = 15
    ∧ (15 * 2 ^ 44 + 4 * 2 ^ 36 + 8) % 2 ^ 36 + [(1 : Byte), 2].length ≤ 2 ^ 36 ∧ (base.ropeOf 0).isSome
    ∧ find base.keys (0x1000 / 64) = some (base.keyFor 0 false) := by decide +kernel
/-- A strict rope on the ridge that runs, is frozen, thaws, or is idle. -/
theorem witness_HoldEvents_frozen : (∀ f ∈ [Freezing.frozen, .thawing 3, .no, .sealed 9], ∀ run ∈ [some placedLaunch, none],
      ((base.onRope ⟨1, 0⟩ fun r => { r with freezing := f, running := run, strict := true }).rope? ⟨1, 0⟩).any fun r =>
        r.freezing == f && r.running == run && r.strict && r.cores.any fun c => clusterOf c == 0) := by decide +kernel
/-- A late read of `l.get` that has a unit of HBM left, with its slot free, held by another, moved full, and in slot 63; one whose units are served;
one that another package owes; and the walk of an `l.pref`, with pages and without. -/
def lateRead (served : List Nat) (e : Effect) (f : State → State) : State :=
  let j := { (issuing (.lGetb (lw 3 0 0 0x10)) 0 0 0 0 (some { bytes4 with rank := 1 }) id).cur.job with q := 0 }
  let x := { flight e with job := j, late := true, served := served, spots := [{ pa := 0x40020000, durable := false, medium := .hbm }] }
  f (here fun c => { c with flights := [x] })
def lateFlight (s : State) : Flight := (s.core 0).flights.getD 0 (flight .walk)
theorem witness_HoldEvents_late : let e : Effect := .tile (cellsAt 0x1000 [0, 0, 0, 0])
    let s := lateRead [] e id
    let x := lateFlight s
    let u := 0x40020000 / 64
    x ∈ (s.core 0).flights ∧ x.late = true ∧ (∀ y ∈ (s.core 0).flights, y.id = x.id → y = x) ∧ s.outgoing = [] ∧ x.effect ≠ .walk
    ∧ (s.ropeOf 0).any (fun r => r.freezing == .no && !r.strict) ∧ s.hbmUnits x = [u] ∧ u ∉ x.served
    ∧ s.gtc.toNat / 8 % 64 < 63 ∧ (find s.moved (channelOf (64 * u))).getD 0 < 4 ∧ (find s.wheels (channelOf (64 * u) * 64 + s.gtc.toNat / 8 % 64)).isNone
    ∧ (BitVec.ofNat 64 504).toNat / 8 % 64 = 63
    ∧ (∀ v ∈ s.hbmUnits (lateFlight (lateRead [u] e id)), v ∈ (lateFlight (lateRead [u] e id)).served) := by decide +kernel
theorem witness_HoldEvents_full (p : Nat) : 4 ≤ (find [(p, 4)] p).getD 0 := by simp [find]
theorem witness_HoldEvents_walk : (let s := lateRead [] .walk id
      (lateFlight s).effect = .walk ∧ s.spotFault 0 (lateFlight s).job .read (lateFlight s).job.prefAccs = none)
    ∧ (let s := lateRead [] .walk fun s => { s with asids := [] }
      (s.spotFault 0 (lateFlight s).job .read (lateFlight s).job.prefAccs).any fun x => x.1 != 0x0E)
    ∧ (let s := sentOut (.read 2) (some (40, 0, 0)) none fun c => { c with flights := [lateFlight (lateRead [] .walk id)] }
      s.outgoing.any fun o => o.core == 0 && o.flight.any fun y => y.1 == 40)
    ∧ (∀ x ∈ base.here.flights, x.id = 40 → x.late = false) := by decide +kernel
/-- A level-4 barrier while a proxy absence token stands. -/
theorem witness_Barriers_absent : let s := (barred 4 (some (9, false))).onRope ⟨1, 0⟩ fun r => { r with absence := ([3], false) }
    (s.rope? ⟨1, 0⟩).any fun r => r.barrier4 == some (9, false) && r.absence.1 == [3] && r.running.isSome := by decide +kernel
/-- A row that a running launch leaves to the next, a rope with an incoming launch, and one sealed or being evicted as its launch ends. -/
theorem witness_Launches_more : (let s := (launching fun r => { r with running := some { placedLaunch with id := 3 } }).onCore 0 fun c => { c with run := 3, halted := true }
      (s.rope? ⟨1, 0⟩).any fun r => r.running.any (fun m => (r.row 0).all fun c => (s.core c).run == m.id) && r.next.any fun l => l.rows == [0] || l.rows == [])
    ∧ (let s := (here fun c => { c with halted := true }).onRope ⟨1, 0⟩ fun r =>
        { r with freezing := .sealed 9, incoming := some { placedLaunch with id := 2 }, evict := some { cmd := command 1 7 0 0, since := 0, froze := false } }
      (s.rope? s.cur.rope).any fun r => r.freezing == .sealed 9 && r.incoming.any (fun m => m.id != placedLaunch.id) && r.evict.isSome
        && r.cores.all fun c => (s.core c).run != 1 || (s.core c).halted)
    ∧ ({ placedLaunch with adopted := false } : Launch).adopted = false := by decide +kernel
/-- A `y.bar` in the M queue while the output path is busy. -/
theorem witness_QueueInstructions_occupied : (let s := queued 1 (.yBar (yw 4 (2 * 2 ^ 31))) id
      (s.setHere { s.here with busy := List.replicate 6 1501 }).here.busy.getD 4 0 = 1501)
    ∧ (yw 4 (2 * 2 ^ 31)).arg.toNat / 2 ^ 31 = 2 := by decide +kernel
/-- An EVENT.WAIT whose timeout has passed; a Reserved command that is consumed in its slot's first tick; and its slot as it begins, with waits met, not met,
and unreadable. -/
theorem witness_CommandCourse_overdue : (let c := command 1 0x09 5 0
      let s := { asked c with gtc := 9500 }
      s.overdue c = true ∧ (s.pending c).any (fun p => !p.started && !p.effect) ∧ (s.iface 1).closing = none ∧ (cmdInstr c).isSome)
    ∧ (let x := reserved 80; cmdClass x.2 = 0 ∧ cmdStart x.2 = x.1.gtc.toNat ∧ slotOk x.2 = true ∧ opcodeKnown 0 (slotOp x.2.slot) = true ∧ (x.1.iface 0).isOpen = true)
    ∧ cmdStart (reserved 80).2 ≠ (reserved 79).1.gtc.toNat ∧ cmdClass (command 1 0x0B 4 0) ≠ 0 := by decide +kernel
theorem witness_TimedCommands_slots : (let x := reserved 80
      (x.1.ifaces.any fun n => n.1 == 0 && n.2.commands.any fun p => p.cmd == x.2 && !p.started) ∧ x.1.unreadable x.2 = false ∧ x.1.overdue x.2 = false
        ∧ x.1.waitsMet x.2 = true ∧ x.1.inOrder x.2 = true)
    ∧ (let c : Cmd := { (reserved 80).2 with slot := (reserved 80).2.slot ||| BitVec.ofNat 512 (1 * 2 ^ 40 + 2 ^ 48 + 2 ^ 72) }
       ({ (asked c).onIface 0 (fun i => { i with events := 2 ^ 47 }) with gtc := 80 } : State).waitsMet c = false)
    ∧ (∀ v ∈ [none, some 0, some 6, some 8], ((reserved 80).1.onPending (reserved 80).2 fun p => { p with verdict := v }).pending (reserved 80).2
        |>.any fun p => p.verdict == v && !p.started) := by decide +kernel
/-- A kill fence whose command was cancelled meanwhile, with the ropes of its world and another's. -/
theorem witness_TimedCommands_fence : (let c := command 0 0x20 1 0
      let s := base.onIface 1 fun i => { i with closing := some c }
      (s.iface 1).closing = some c ∧ s.pending c = none ∧ s.outgoing = [] ∧ slotOp c.slot ≠ 0x02 ∧ (∃ r ∈ s.ropes, r.key.world = 1)
        ∧ (∃ x < 1024, ∀ r ∈ s.ropes, r.key.world = 1 → x ∉ r.cores))
    ∧ (let s := { sentOut (.read 8) none none id with free := 0 }
      ∃ o ∈ s.outgoing, ∃ k, o.rope = some k ∧ k.world = 1) := by
  refine ⟨?_, ⟨_, List.mem_singleton.mpr rfl, ⟨1, 0⟩, by decide +kernel⟩⟩
  exact ⟨by decide +kernel, by decide +kernel, by decide +kernel, by decide +kernel, by decide +kernel, 5, by decide, by decide +kernel⟩
/-- OPEN with pages that cannot be written, with a bad address, and of interface 0 with an address past 2^48. -/
theorem witness_SessionCommands_more :
    begins { (asked (command 1 1 0x10000 0)).onIface 1 fun i => { i with state := .closed } with asids := [] } (command 1 1 0x10000 0) 1 (fun u =>
      !(u.iface 1).isOpen && !u.rangeOk 1 0x10000 0x18000 .readWrite) = true
    ∧ begins ((asked (command 1 1 0x10008 0)).onIface 1 fun i => { i with state := .closed }) (command 1 1 0x10008 0) 1 (fun u => !(u.iface 1).isOpen) = true
    ∧ begins ((asked (command 0 1 (2 ^ 48) 0)).onIface 0 fun i => { i with state := .closed }) (command 0 1 (2 ^ 48) 0) 1 (fun u => !(u.iface 0).isOpen) = true := by
  decide +kernel
/-- Unmapping an ASID with nothing under way, and with an access of the core that it serves; physical addresses past 2^48; and a table for world 0. -/
theorem witness_ManagementCommands_unmap : (let p0 := 1 + 2 ^ 25
      begins (asked (command 0 0x23 p0 0)) (command 0 0x23 p0 0) 0x23 (fun u => u.onChip 1 false == some 5) = true
      ∧ begins ((asked (command 0 0x23 p0 0)).onCore 0 fun c => { c with accesses := (waiting (.global 0x100 0x40000100 false)).here.accesses }) (command 0 0x23 p0 0) 0x23 (fun u =>
        u.onChip 1 false == some 5 && u.asidOf 0 == some 5 && u.cores.any (fun e => e.1 == 0 && !e.2.accesses.isEmpty && e.2.accesses.all fun y => y.place.usesMemory)) = true)
    ∧ begins (asked (command 0 0x26 2 (2 ^ 48))) (command 0 0x26 2 (2 ^ 48)) 0x26 (fun _ => true) = true
    ∧ begins (asked (command 0 0x29 2 (2 ^ 48))) (command 0 0x29 2 (2 ^ 48)) 0x29 (fun _ => true) = true
    ∧ begins (asked (command 0 0x23 (0 + 6 * 65536) 0x10000)) (command 0 0x23 (0 + 6 * 65536) 0x10000) 0x23 (fun u => (find u.asids 6).isNone) = true := by decide +kernel
/-- A frozen rope whose grace period is over, settled and not; and an eviction whose pages cannot be poisoned. -/
theorem witness_Preemption_settled : (∀ out ∈ [true, false], let s := refreshing ((here fun c => { c with accesses := if out then (waiting (.global 0x100 0x40000100 false)).here.accesses else [] }).onRope ⟨1, 0⟩ fun r =>
        { r with freezing := .frozen, evict := some { cmd := command 1 7 0 0x10000, since := 0, froze := true } })
      (s.rope? s.cur.rope).any fun r => r.freezing == .frozen && r.running.isSome && (s.settleCores r.cores).stillOut r.cores == out)
    ∧ (let s := evicted id; (s.rope? ⟨1, 0⟩).any fun r => s.poison.isEmpty && shiftFails emptyImage 0x001 r.cores.length (fun _ _ => none) != none) := by decide +kernel
/-- An error of an engine's store in a rope whose cores can all be replayed, and in one where a core cannot; and an access that met an error of memory. -/
theorem witness_Errors_cases : (let s := here fun c => { c with restart := some { base.here.restartState 40 with refetch := [] }, replayable := true }
      (s.ropeOf 0).any fun r => r.cores.all fun c => (s.core c).replayable && (s.core c).restart.isSome)
    ∧ (base.ropeOf 0).any (fun r => r.cores.any fun c => !(base.core c).replayable || (base.core c).restart.isNone)
    ∧ (let a : Access := { id := 7, cls := 0, place := .global 0x100 0x40000100 false, kind := .load 5 8 false, gen := 0, sent := none, bad := true, pc := 0, tick := 0, asid := none }
       let s := here fun c => { c with accesses := [a] }
       ((s.core 0).accesses.find? fun y => y.id == a.id) = some a ∧ (s.core 0).mayPerform a = true ∧ a.bad = true) := by decide +kernel
/-- A message that has been performed and answered, one performed and not answered yet, and a first one. -/
theorem witness_PeerRequests_copies : (let q : PeerRequest := { id := 11, sender := 7, sa := 3, entry := 4, offset := 8, kind := .write [1] 0xFF }
    (∀ rs ∈ [[Reply.applied 7 11], []], let s := { peered with applied := [(7, 11)], replies := rs }
      (q.sender, q.id) ∈ s.applied ∧ s.requests = [] ∧ ((∃ y ∈ s.replies, y.answers q.sender q.id = true) ∨ ∀ y ∈ s.replies, y.answers q.sender q.id = false))
    ∧ (q.sender, q.id) ∉ peered.applied ∧ peered.requests = [] ∧ peered.waitingSignals = []) := by decide +kernel
/-- Signals of one allocation of which the first one waits here too, and of which it does not; and a part with power, whose keys a reset ends. -/
theorem witness_PeerRequests_first : peered.gtc.toNat < 0 + 2 * 1900000000 ∧ 0 + 2 * 1900000000 ≤ ({ peered with gtc := 3800000000 } : State).gtc.toNat
    ∧ peered.waitingSignals = [] := by decide +kernel
theorem witness_KeyIsolation_reset : base.powered = true := by decide +kernel
/-- R14: the worked example. A strict rope holds slots 4 and 36 of pseudo-channel 17; its request at `gtc` 1,000 is served from 1,056 on. -/
theorem test_service_slot : let s := { base with wheels := [(17 * 64 + 4, .strict ⟨1, 0⟩), (17 * 64 + 36, .strict ⟨1, 0⟩)] }
    s.serviceSlot 17 (.strict ⟨1, 0⟩) 1000 = some 1056 ∧ s.serves 17 4 .best = false ∧ s.serves 17 63 .best = false ∧ s.serves 17 5 .best = true := by decide +kernel
/-! ## Requests that wait for slots, and clauses that this model's later statements add -/

/-- A command that has started and goes on with some units to move. -/
def going (s : State) (c : Cmd) (us : List Nat) : State := s.onIface c.iface fun i => { i with
  commands := [{ cmd := c, started := true, start := 0, effect := false, waits := [], verdict := none, moving := some us }] }
/-- A command that goes on, on a state with a property. -/
def acts (s : State) (c : Cmd) (op : Nat) (p : State → Bool) : Bool :=
  decide (slotOp c.slot = op) && (s.pending c).any (fun p => p.started && !p.effect) && !s.heldBack c && p (s.onPending c fun p => { p with effect := true })
theorem acts_acts {s : State} {c : Cmd} {op : Nat} {p : State → Bool} (h : acts s c op p = true) : ∃ u, Acts s c op u ∧ p u = true := by
  simp only [acts, Bool.and_eq_true, decide_eq_true_eq, Bool.not_eq_true', Option.any_eq_true] at h
  obtain ⟨⟨⟨h1, q, h2, h3, h4⟩, h5⟩, h6⟩ := h
  exact ⟨_, .inr ⟨h1, ⟨q, h2, h3, h4⟩, h5, rfl⟩, h6⟩
/-- Whether the units that a command has left fit the slots in force. -/
def fit (u : State) (c : Cmd) : Bool := (u.moveSome (fun _ => .best) (leftOf u c [])).2.isEmpty
/-- LOAD, RESUME, RESYNC, ATTEST and MANIFEST.CMP go on with one unit: it fits a slot that serves it, and none in the Refresh slot. -/
theorem witness_moving : ∀ x ∈ [(stocked (command 1 5 0x10000 216), command 1 5 0x10000 216, 5), (evicted id, command 1 8 0 0x10000, 8),
      (opened (command 1 0x0C 0x10000 0), command 1 0x0C 0x10000 0, 0x0C), (asked (command 1 0x0D 0x10000 5), command 1 0x0D 0x10000 5, 0x0D),
      (asked (command 1 0x0E 0x10000 0), command 1 0x0E 0x10000 0, 0x0E)],
    acts (going x.1 x.2.1 [0x1000400]) x.2.1 x.2.2 (fun u => fit u x.2.1) = true
      ∧ acts (going (refreshing x.1) x.2.1 [0x1000400]) x.2.1 x.2.2 (fun u => !fit u x.2.1) = true := by decide +kernel
/-- EVICT and RESUME that have started and wait for scan slots. -/
theorem witness_Preemption_waiting : acts (going { asked (command 1 7 0 0x10000) with wheels := (List.range 62).map fun k => (k, .scan 3) } (command 1 7 0 0x10000) [])
      (command 1 7 0 0x10000) 7 (fun u => (u.rope? ⟨1, 0⟩).any fun r => r.running.isSome && (u.convertSlots (command 1 7 0 0x10000) 1 0x10000 (u.fullImage r) .write).isNone) = true
    ∧ acts (let s := evicted id; going { s with wheels := (List.range 62).map fun k => (k, .scan 3), mem := s.mem ++ cellsAt 0x40010000 (List.replicate 256 0), keys := s.keys ++ (List.range 4).map fun k => (0x1000400 + k, s.worldKey 1) } (command 1 8 0 0x10000) []) (command 1 8 0 0x10000) 8 (fun u =>
      (u.convertSlots (command 1 8 0 0x10000) 1 0x10000 (u.imageAt 1 0x10000) .read).isNone) = true := by decide +kernel
/-- One unit of HBM: it moves in a slot that serves its requester, and in the Refresh slot for nobody. -/
theorem witness_CommandCourse_moves : Fits base (fun _ => .best) [0x1000400] ∧ ¬ Fits (refreshing base) (fun _ => .best) [0x1000400] := by
  unfold Fits; decide +kernel
/-- A read of 8 bytes that the bound endpoint asks for, and one of another package: with room, and in the Refresh slot; new, and going on. -/
theorem witness_Remote_room : (∀ rs ∈ [[], [(Instr.evRemoteOperation { iface := 1, endpoint := 9, sa := 3, window := false, write := false, addr := 0x10000, len := 8, data := [] }, [0x1000400])]],
      let s := { base with requests := rs }
      Fits s (fun _ => .best) (s.unitsFor 1 0x10000 8 .read) ∧ Fits s (fun _ => .best) (s.unitsFor 1 0x10000 8 .write))
    ∧ ¬ Fits (refreshing base) (fun _ => .best) (base.unitsFor 1 0x10000 8 .read) ∧ ¬ Fits (refreshing peered) (fun _ => .best) (peered.unitsFor 1 0x10008 8 .write)
    ∧ Fits peered (fun _ => .best) (peered.unitsFor 1 0x10008 8 .readWrite) ∧ ¬ Fits (refreshing peered) (fun _ => .best) (peered.unitsFor 1 0x10008 8 .readWrite) := by
  unfold Fits; decide +kernel
/-- An eviction at its yield point: nothing is out, and an access that has no slot is; and its image with a unit left, with room and without. -/
theorem witness_Preemption_yields : (∀ out ∈ [true, false], let s := refreshing ((here fun c => { c with yields := [1, 1, 1, 1], accesses := if out then (waiting (.global 0x100 0x40000100 false)).here.accesses else [] }).onRope ⟨1, 0⟩ fun r =>
        { r with evict := some { cmd := command 1 7 0 0x10000, since := 0, froze := false } })
      (s.rope? s.cur.rope).any fun r => r.evict.isSome && (r.cores.all fun c => (s.core c).yields.all fun n => decide (r.yields < n))
        && (s.settleCores r.cores).stillOut r.cores == out)
    ∧ (let c := command 1 7 0 0x10000
       let s := going (asked c) c [0x1000400]
       Fits s (s.scanner 1 .best) (leftOf s c []) ∧ ¬ Fits (refreshing s) ((refreshing s).scanner 1 .best) (leftOf (refreshing s) c []))
    ∧ (let s := base.onRope ⟨1, 0⟩ fun r => { r with evict := some { cmd := command 1 7 0 0x10000, since := 0, froze := false } }
       (s.rope? ⟨1, 0⟩).any fun r => r.running.all (fun l => !l.failed) && r.incoming.all (fun l => !l.failed) && r.cancel.isNone) := by
  unfold Fits; decide +kernel
/-- The rope of core 0 with a launch that a command of interface 1 began. -/
def commanded (f : Core → Core) (g : Rope → Rope) : State :=
  (here f).onRope ⟨1, 0⟩ fun r => g { r with running := some { placedLaunch with adopted := false, cmd := command 1 6 0 7 } }
/-- Errors of the stores 7 to 10; those in a core of no rope; a second one, while the first waits for its replay; and those that end a launch: with nothing
left of the core's accesses to deal with. -/
theorem witness_Errors_stores : (∀ store ∈ [7, 8, 9, 10], (report store false false).corrected = false ∧ 1 ≤ (report store false false).store
        ∧ (report store false false).store ≤ 10 ∧ 7 ≤ (report store false false).store)
    ∧ (base.ropeOf 5).isNone
    ∧ ((base.onRope ⟨1, 0⟩ fun r => { r with cancel := some { tick := 3, error := report 1 false false, record := 0, passed := false, owed := none } }).ropeOf 0).any
        (fun r => r.cancel.isSome && r.running.any fun l => l.id == base.here.run)
    ∧ (∀ replays ∈ [false, true], let s := commanded id fun r => { r with replaying := replays, lastError := some (1, 0) }
       (s.ropeOf 0).any fun r => r.replaying == replays && r.lastError == some ((report 1 false false).store, (report 1 false false).core)
         && decide r.cores.Nodup && (r.running.any fun l => !l.adopted && !l.failed && r.cores.all fun c => (s.core c).run == l.id) && (r.cores.all fun c =>
           (s.core c).accesses.isEmpty && (s.core c).flights.isEmpty && !asksFreeze (s.core c)) && s.outgoing.isEmpty) := by decide +kernel
/-- A cancelled phase that cannot be replayed. -/
theorem witness_Errors_ends : (let s := commanded (fun c => { c with replayable := false }) id
    (s.ropeOf 0).any fun r => r.cores.contains 0 && r.cores.any (fun c => !(s.core c).replayable) && s.rope? r.key == some r) := by decide +kernel
/-- A read of `l.getb` with one unit left, before its tick and at it, in a slot with room and in the Refresh slot. -/
theorem witness_HoldEvents_early : let e : Effect := .tile (cellsAt 0x1000 [0, 0, 0, 0])
    let s := lateRead [] e fun s => s.setHere { s.here with flights := s.here.flights.map fun x => { x with late := false } }
    let x := lateFlight s
    let u := 0x40020000 / 64
    (s.core 0).flights = [x] ∧ x.tick ≤ 9 ∧ x.late = false ∧ x.bad = false ∧ (s.core 0).parked x = false ∧ s.strict 0 = false ∧ u ∉ x.served ∧ s.hbmUnits x = [u]
    ∧ (s.core 0).flights.find? (fun y => y.id = x.id) = some x ∧ ((refreshing s).gtc.toNat / 8 % 64 = 63) := by decide +kernel
/-- A loop that runs, and one that a fault has delayed: its `y.loop` stands at the head of the queue past its T. -/
theorem witness_LoopInitiation_delayed : (let s := queued 2 (.yLoop (yw 2 0x122081100)) fun q => { q with nextT := 1 }
      (s.here.queues[2]?).any fun q => q.entries.head?.any (fun e => e.ins == .yLoop (yw 2 0x122081100) && e.body.isNone) && q.loop.isNone && q.loops.length == 1)
    ∧ (let l : Loop := { cursor := 0, l0 := 0, ii := 4, sc := 2, trip := 3, step := 1, ring := 1 }
       let s := here fun c => { c with queues := alter c.queues 2 fun q => { q with loop := some l } }
       (s.here.queues[2]?).any fun q => q.loops == [l]) := by decide +kernel
/-- Issue faults of `l.cget`, `l.tcpy`, `s.scat`, `s.cput`, `s.sig` and `s.pbar`: too early, past the end of a store, misaligned, outside the declared
sets, and of a region that the rope does not hold. -/
theorem witness_EngineFaults_more :
    (∀ x ∈ [(Instr.lCget (lw 0 0 0 0x10), 0), (.lTcpy (lw 0 0 0 0x10), 0), (.sScat (lw 3 0 0 0x10), 3), (.sCput (lw 0 0 0 0x10), 3)],
      let s := issuing x.1 x.2 0 0 0 none fun c => { c with busy := List.replicate 6 501 }
      s.cur.job.t < s.here.freeAt (lsPath s.cur.job) ∧ s.cur.job.entry.ins = x.1)
    ∧ (let s := issuing (.lCget (lw 0 0 0 0x10)) 0 (2 ^ 23 - 256) 2 0 none id; 2 ^ 23 < s.cur.job.entry.va.toNat % 2 ^ 23 + 256 * s.cur.job.units)
    ∧ (let s := issuing (.lTcpy (lw 0 0 0 0x10)) 0 0x8001 1 0 none id
       s.cur.job.entry.va.toNat % 2 ^ 20 % 256 ≠ 0 ∧ s.cur.job.entry.va.toNat % 2 ^ 20 + 256 * s.cur.job.units ≤ 2 ^ 20)
    ∧ (let s := issuing (.sCput (lw 0 0 0 0x10)) 3 (2 ^ 23 - 256) 1 0 none fun c => c
       let j := s.cur.job
       s.regionOk 0 (j.entry.va.toNat % 2 ^ 23) = false ∧ j.tileAt + 256 * j.units ≤ 2 ^ 20
         ∧ ∀ a < 1024, j.tileAt ≤ a → a < j.tileAt + 256 → (j.reads ++ j.writes).any (inRange · a) = false)
    ∧ (let s := issuing (.sSig (lw 0 0 0 0)) 3 0x10004 1 0 none id
       s.here.freeAt 1 ≤ s.cur.job.t ∧ s.cur.job.entry.va.toNat % 8 ≠ 0)
    ∧ (let s := issuing (.sSig (lw 0 0 0 0)) 3 (2 ^ 30) 1 0 none id
       s.cur.job.entry.va.toNat % 8 = 0 ∧ (s.spotFault 0 s.cur.job .write [((s.cur.job.entry.va.toNat : Int), 8)]).isSome)
    ∧ (let s := issuing (.sPbar (lw 0 0 0 0)) 3 0 0 0 none fun c => { c with busy := List.replicate 6 501 }; s.cur.job.t < s.here.freeAt 1)
    ∧ (let s := (issuing (.sPbar (lw 0 0 0 0)) 3 0 0 0 none id).onRope ⟨1, 0⟩ fun r => { r with strict := true }
       let t := { s with cur := { s.cur with job := { s.cur.job with timed := true } } }
       t.here.freeAt 1 ≤ t.cur.job.t ∧ t.strict t.cur.core = true ∧ t.cur.job.timed = true) := by decide +kernel
/-- A launch that the rope's record shows as its last, and one that a later one has taken its place in. -/
theorem witness_Launches_last : (∀ n ∈ [1, 2], let s := (commanded (fun c => { c with halted := true }) fun r => { r with last := n })
      (s.rope? s.cur.rope).any fun r => r.last == n && r.running.any fun l => !l.failed && l.id == 1 && r.cores.all fun c => (s.core c).run != l.id || (s.core c).halted)
    ∧ (let s := (commanded (fun c => { c with halted := true }) fun r => { r with freezing := .sealed 9 })
      (s.rope? s.cur.rope).any fun r => r.freezing == .sealed 9 && r.incoming.isNone) := by decide +kernel
/-- Tokens of two packages; and a core that is no member of its rope's level-4 domain. -/
theorem witness_Barriers_tokens : (let s := (barred 4 (some (9, false))).onRope ⟨1, 0⟩ fun r => { r with absence := ([3, 5], false) }
      (s.rope? ⟨1, 0⟩).any fun r => r.absence.1.contains 3 && !r.absence.1.contains 4 && r.barrier4 == some (9, false))
    ∧ (base.core 0).dom4.getLsbD 63 = false ∧ ((barred 4 none).core 0).dom4.getLsbD 63 = true := by decide +kernel
/-- A phase that is recorded, and an instance of it. -/
theorem witness_EngineWritesPerform_restart : (let s := here fun c => { c with restart := some (base.here.restartState 5) }
      ((s.core 0).restart).any fun x => decide (x.base ≤ 9)) ∧ ((base.core 0).restart).isNone := by decide +kernel
/-- A signal of core 0 to the package of entry 4, behind a write of its class to that package, and behind one of another class. -/
theorem witness_EngineStoresPerform_after : (∀ cls ∈ [0, 1], let s : State := { (sentOut (.write [1] 0xFF) none none id) with peers := peered.peers }
      let t : State := { s with outgoing := s.outgoing.map fun o => { o with issued := 3, cls := cls } }
      t.outgoing.any fun x => x.rope == (t.core 0).rope && x.rope.isSome && x.cls == cls && x.signal.isNone && t.peerPkg x.entry == t.peerPkg 4
        && decide (0 < x.issued) && decide (x.issued < 9))
    ∧ (base.ropeOf 0).isSome ∧ (15 * 2 ^ 44 + 4 * 2 ^ 36 + 8) / 2 ^ 36 % 256 = 4 := by decide +kernel
/-- Unmapping an ASID that an access of the core was translated under. -/
theorem witness_ManagementCommands_used : begins ((asked (command 0 0x23 (1 + 2 ^ 25) 0)).onCore 0 fun c => { c with
      accesses := (waiting (.global 0x100 0x40000100 false)).here.accesses.map fun a => { a with asid := some 5 } }) (command 0 0x23 (1 + 2 ^ 25) 0) 0x23 (fun u =>
    u.onChip 1 false == some 5 && u.cores.any fun e => e.1 == 0 && e.2.accesses.any fun y => y.place.usesMemory && y.asid == some 5) = true := by decide +kernel
/-- Every number of a summary, a record, a crossing and a RESYNC summary is in range in a state of ours; and a delay that no byte holds. -/
theorem witness_SessionCommands_layouts : (let s := opened (command 1 0x0C 0x10000 0)
      let i := s.iface 1
      i.events < 2 ^ 64 ∧ s.ropes.length < 2 ^ 16 ∧ i.images.length < 2 ^ 16 ∧ i.commands.length < 2 ^ 16 ∧ i.dropped < 2 ^ 16 ∧ i.refusals < 2 ^ 16
        ∧ i.crp < 2 ^ 64 ∧ i.swp < 2 ^ 64
        ∧ (∀ r ∈ s.ropes, r.record < 2 ^ 256 ∧ r.key.num < 2 ^ 16 ∧ r.origin < 2 ^ 16 ∧ r.width < 256 ∧ r.height < 256 ∧ r.queue.length < 2 ^ 16
          ∧ r.offset < 256 ∧ r.slots < 256))
    ∧ (∀ x : Crossing, x ∈ base.crossings → x.arch < 256 ∧ x.pad < 256 ∧ x.state < 4) ∧ (255 : Nat) < 256 := by decide +kernel
/-- An event word that cannot be read. -/
theorem witness_SessionCommands_unread : begins { opened (command 1 0x0B (3 + 3 * 65536) 0) with asids := [] } (command 1 0x0B (3 + 3 * 65536) 0) 0x0B (fun u =>
    (u.eventWord 1 3).isNone) = true := by decide +kernel
/-- A suspended step of `s.put` with a row to come on no durable page and on a page that may be durable is told apart by `stepDurable`; a fault of the
control core's own names the instruction that made the access. -/
theorem witness_FencesRetire_steps : (let s := here fun c => { c with queues := alter c.queues 3 fun q => { q with
        susp := some { again := .step, job := { Job.idle with q := 3 }, upc := 0, tick := 9, carry := Status.none } } }
      (s.here.queues[3]?).any fun q => q.susp.isSome)
    ∧ (let f := flight (.step 3 .none); f.effect = .step 3 .none)
    ∧ (({ code := 0x0E, sub := 0, value := 0, source := 0, slot := 0, upc := 0, tick := 5, nested := false, tpc := some 0x40 } : PendingFault).tpc.getD 0) = 0x40 := by
  decide +kernel
/-- Images of world 1 on a wheel with a Scan slot of it, and without. -/
theorem test_scanner : ({ base with wheels := [(3, .scan 1)] } : State).scanner 1 .best 0 = .scan 1 ∧ base.scanner 1 .best 0 = .best := by decide +kernel

end Sys2Proof.Tests
end

section
/-! SUPPORT. Isolation of keys (R63, R66) and the canonical form of global memory (R63, R140): what a write under one key leaves to the others,
which steps change a world's key, and that one step of the machine keeps the canonical form. -/
namespace Sys2Proof.Machine

open Sys2Proof.Safety

/-! ## What a write under a key leaves to the others -/

/-- Two states hold the same keys and, in every unit that does not stand under key k, the same bytes. -/
def AlikeBut (k : KeyTag) (s t : State) : Prop :=
  s.keys = t.keys ∧ s.free = t.free ∧ ∀ a, find s.keys (a / 64) ≠ some k → find s.mem a = find t.mem a

theorem AlikeBut.refl (k : KeyTag) (s : State) : AlikeBut k s s := ⟨rfl, rfl, fun _ _ => rfl⟩

/-- A byte reads the same under every key but k. -/
theorem AlikeBut.readByte_eq {k j : KeyTag} {s t : State} (h : AlikeBut k s t) (hj : k ≠ j) (a : Nat) :
    s.readByte j a = t.readByte j a := by
  obtain ⟨hkeys, hfree, hmem⟩ := h
  unfold State.readByte
  rw [← hkeys, ← hfree]
  by_cases hu : find s.keys (a / 64) = some j
  · rw [hmem a fun e => hj (Option.some.inj (e.symm.trans hu))]
  · rw [if_neg hu, if_neg hu]

/-- After a write under k, the unit of its place stands under k, and other units stand under the keys they stood under. -/
theorem find_keys_writeByte (s : State) (k : KeyTag) (pa : Nat) (b : Byte) (u : Nat) :
    find (s.writeByte k pa b).keys u = if u = pa / 64 then some k else find s.keys u := by
  unfold State.writeByte
  split
  · rename_i hk
    by_cases hu : u = pa / 64
    · rw [if_pos hu, hu]; exact hk
    · rw [if_neg hu]
  · exact find_insert _ _ _ _

/-- The cells of units other than the one written stay. -/
theorem find_mem_writeByte_of_unit_ne (s : State) (k : KeyTag) (pa a : Nat) (b : Byte) (h : a / 64 ≠ pa / 64) :
    find (s.writeByte k pa b).mem a = find s.mem a := by
  have ha : a ≠ pa := fun e => h (e ▸ rfl)
  unfold State.writeByte
  split
  · exact find_insert_ne _ _ _ _ ha
  · exact (find_insert_ne _ _ _ _ ha).trans ((find_dropUnit _ _ _).trans (if_neg h))

/-- Which keys a write leaves depends on its place alone, not on its byte. -/
theorem writeByte_keys_congr {s t : State} (k : KeyTag) (pa : Nat) (b c : Byte) (h : s.keys = t.keys) :
    (s.writeByte k pa b).keys = (t.writeByte k pa c).keys := by
  unfold State.writeByte
  rw [← h]
  split <;> rfl

/-- One byte written at the same place under k, with any two values. -/
theorem AlikeBut.writeByte {k : KeyTag} {s t : State} (h : AlikeBut k s t) (pa : Nat) (b c : Byte) :
    AlikeBut k (s.writeByte k pa b) (t.writeByte k pa c) := by
  obtain ⟨hkeys, hfree, hmem⟩ := h
  refine ⟨writeByte_keys_congr k pa b c hkeys, by simpa using hfree, fun a ha => ?_⟩
  rw [find_keys_writeByte] at ha
  have hu : a / 64 ≠ pa / 64 := fun e => ha (if_pos e)
  rw [if_neg hu] at ha
  rw [find_mem_writeByte_of_unit_ne _ _ _ _ _ hu, find_mem_writeByte_of_unit_ne _ _ _ _ _ hu]
  exact hmem a ha

/-- Cells written at the same places under k, with any values. -/
theorem AlikeBut.writeCells {k : KeyTag} {s t : State} (h : AlikeBut k s t) (cs ds : List (Nat × Byte))
    (hp : cs.map (·.1) = ds.map (·.1)) : AlikeBut k (s.writeCells k cs) (t.writeCells k ds) := by
  induction cs generalizing s t ds with
  | nil => rw [List.map_eq_nil_iff.1 hp.symm]; exact h
  | cons c cs ih =>
    cases ds with
    | nil => cases hp
    | cons d ds =>
      obtain ⟨hcd, hrest⟩ : c.1 = d.1 ∧ cs.map (·.1) = ds.map (·.1) := List.cons.inj hp
      rw [writeCells_cons, writeCells_cons, ← hcd]
      exact ih (h.writeByte c.1 c.2 d.2) ds hrest

/-! ## The keys of worlds -/

theorem worldKey_ne_of_ne (s t : State) {w w' : Nat} (h : w ≠ w') : s.worldKey w ≠ t.worldKey w' :=
  fun e => h (congrArg KeyTag.owner e)

theorem worldKey_ne_of_boots (s t : State) (w w' : Nat) (h : s.boots ≠ t.boots) : s.worldKey w ≠ t.worldKey w' :=
  fun e => h (congrArg KeyTag.boot e)

@[simp] theorem world_setWorld_self (s : State) (w : Nat) (x : World) : (s.setWorld w x).world w = x := by
  simp [State.world, State.setWorld]

/-- A generation and the next one have other keys, also where the count wraps (R67). -/
theorem worldKey_setWorld_bump_ne (s : State) (w : Nat) :
    (s.setWorld w (s.world w).bump).worldKey w ≠ s.worldKey w := by
  intro e
  have hgen : ((s.setWorld w (s.world w).bump).world w).gen.toNat = (s.world w).gen.toNat := congrArg KeyTag.gen e
  rw [world_setWorld_self] at hgen
  have hnext : (s.world w).gen + 1 = (s.world w).gen := BitVec.eq_of_toNat_eq hgen
  bv_omega

/-! ## The count of resets -/

theorem foldl_boots {α : Type} (f : State → α → State) (hf : ∀ s a, (f s a).boots = s.boots) (l : List α) (s : State) :
    (l.foldl f s).boots = s.boots := by
  induction l generalizing s with
  | nil => rfl
  | cons a l ih => rw [List.foldl_cons, ih, hf]

@[simp] theorem survive_boots (s : State) : s.survive.boots = s.boots + 1 := rfl
@[simp] theorem recover_boots (s : State) (u n : Nat) : (s.recover u n).boots = s.boots := by
  unfold State.recover; split <;> rfl
@[simp] theorem recoverAll_boots (s : State) (kept : List (Nat × Nat)) : (s.recoverAll kept).boots = s.boots :=
  foldl_boots (fun s (b : Nat × UnitWrite) => s.recover b.1 ((find kept b.1).getD 0)) (fun _ _ => recover_boots _ _ _) _ _
@[simp] theorem keepRanges_boots (s : State) (now : List HdmRange) : (s.keepRanges now).boots = s.boots := rfl
@[simp] theorem fenceCore_boots (s : State) (c : Nat) : (s.fenceCore c).boots = s.boots := rfl

/-- A reset counts, whether or not it gets past its firmware. -/
theorem reboot_boots (s : State) (r : ResetInputs) : (s.reboot r).boots = s.boots + 1 := by
  unfold State.reboot
  dsimp only
  split
  · exact survive_boots s
  · rw [foldl_boots State.fenceCore fenceCore_boots]
    simp

theorem exec_evResetN_of_powered (s : State) (r : ResetInputs) (h : s.powered = true) :
    exec (.evResetN r) s = .next (State.reboot { s with resetCause := 1 } r) :=
  if_pos h

/-! ## The canonical form -/

/-- Every instruction and event keeps the canonical form: each arm of `exec` by the lemma of its meaning. -/
theorem outWf_exec (i : Instr) (s : State) (hs : MemWf s) : OutWf (exec i s) := by
  cases i <;> simp [exec, hs]

/-- One step keeps the canonical form: whichever agent acts, it changes memory only through the meanings of instructions. -/
theorem outWf_step (s : State) (hs : MemWf s) : OutWf (step s) := memWf_oneStep exec s outWf_exec hs

/-- The canonical form that statements speak of is the one that the laws of memory keep. -/
theorem memOk_iff_memWf (s : State) : MemOk s ↔ MemWf s := Iff.rfl

end Sys2Proof.Machine

section
open Sys2Proof.Machine

/-- Settles O58: what each instruction keeps (`outWf_exec`), carried through the turns of one step. -/
theorem memoryKept : Obligations.MemoryKept := by
  intro s t hs hstep
  exact (memOk_iff_memWf t).2 (outWf_step s ((memOk_iff_memWf s).1 hs) t hstep)

/-- Settles O60: two writes under one key keep the states alike under every other key (`AlikeBut`), and owner, generation and reset tell
the keys of worlds apart. -/
theorem keyIsolation : Obligations.KeyIsolation := by
  refine ⟨?sameElsewhere, readByte_writeByte_self, fun s w w' => worldKey_ne_of_ne s s, worldKey_setWorld_bump_ne, ?reset⟩
  case sameElsewhere =>
    intro s k k' cs ds hk hp a
    exact ((AlikeBut.refl k s).writeCells cs ds hp).readByte_eq hk a
  case reset =>
    intro s x hpow
    refine ⟨_, exec_evResetN_of_powered s x hpow, fun w w' => worldKey_ne_of_boots _ _ _ _ ?_⟩
    rw [reboot_boots]
    exact Nat.succ_ne_self s.boots

end
end
